-- ==== Sys2Proof/Word.lean ====
section
/-! DEFINITION. The word types of the CLV9400 (00/R1, the register table of 00) and the sparse table that
holds every large piece of state as plain data. -/

namespace Sys2Proof

abbrev Byte := BitVec 8
abbrev W16 := BitVec 16
abbrev W32 := BitVec 32
abbrev W64 := BitVec 64
/-- An instruction word (08/R173). -/
abbrev W96 := BitVec 96
/-- A fetch line (08/R165): five 96-bit slots and the line word. -/
abbrev FetchLine := BitVec 512
/-- A vector register: lane L in bits [32L+31:32L] (06/R108). -/
abbrev VReg := BitVec 1024
/-- A bank accumulator or a row of a bank, 1 KiB (02/R16, R31). -/
abbrev Row := BitVec 8192
/-- A z-tile: cell (i, c) in bits [32(64i+c)+31 : 32(64i+c)] (13/R287). -/
abbrev Tile := BitVec 131072
/-- A SHA-384 digest or a measurement register (26/R457). -/
abbrev Digest := BitVec 384

/-- A sparse table: keys strictly rising, no entry equal to the value an unlisted key reads as. -/
abbrev Tab (α : Type) := List (Nat × α)

end Sys2Proof
end

