-- ==== Sys2Proof/Config.lean ====
section
/-! DEFINITION. What the manual leaves to the device: free values (constants with no body, so that no proof sees a
value of them) and the few choices an implementation fixes. -/

namespace Sys2Proof

/-- A free value for each count (00/R4: an undefined value is some value of its type; log 12). -/
opaque Config.freeNat : Nat → Nat

/-- The order in which pending agents move (00/R465, 05/R99; log 1). -/
opaque Config.pick : Nat → Nat

/-- The counts by which the device timestamp and the core clocks have advanced at a step (00/R465; log 8). -/
opaque Config.elapsed : Nat → Nat

/-- At a step, the banks that the next word of a warp needs are still busy (06/R115; log 8). -/
opaque Config.bankBusy : Nat → Nat → Bool

/-- Steps within which a warp that could issue does (06/R123; log 8). -/
opaque Config.patience : Nat

/-- The offset, within 64 counts, of a die's view of the timestamp (15/R366; log 8). -/
opaque Config.skew : Nat → Nat

/-- The result a special function gives before the bound of 05/R107 is applied: one fixed result for each function
number (opcode) and input (log 13). -/
opaque Config.specialFn : Nat → W32 → W32

/-- Mesh hops from a core to the edge of a stack within the compute dies (16/R384 does not give the mesh; log 14). -/
opaque Config.meshHops : Nat → Nat → Nat

/-- Sectors that the compressed form of a 256-byte block needs (02/R36: the encoding is internal; log 15). -/
opaque Config.sectors : BitVec 2048 → Nat

/-- The ECDSA signature (r, s) of a digest at a count (26/R459: the key never leaves the root of trust; log 16). -/
opaque Config.signature : Digest → Nat → Digest × Digest

/-- The lowered send-rate level of a queue pair after a congestion notification (18/R407; log 17). -/
opaque Config.rateAfter : Nat → Nat

end Sys2Proof
end

