-- ==== Sys2Proof/Machine/Bits.lean ====
section
/-! DEFINITION. Bit fields, bytes, lanes and sparse tables: the helpers that every part of the machine uses. -/

namespace Sys2Proof.Machine

/-! ### Sparse tables -/

/-- The value at key `n`; an unlisted key reads as `d`. -/
def tabGet {α : Type} (d : α) : Tab α → Nat → α
  | [], _ => d
  | (k, v) :: t, n => if n = k then v else tabGet d t n

/-- An entry put before the first with a greater key. -/
def tabPut {α : Type} (n : Nat) (x : α) : Tab α → Tab α
  | [] => [(n, x)]
  | (k, v) :: t => if n < k then (n, x) :: (k, v) :: t else (k, v) :: tabPut n x t

/-- The table with `x` at key `n`: keys rising, no entry equal to `d`. -/
def tabSet {α : Type} [DecidableEq α] (d : α) (t : Tab α) (n : Nat) (x : α) : Tab α :=
  let r := t.filter fun p => p.1 != n
  if x = d then r else tabPut n x r

/-- A function applied to the values at keys 0 to n − 1. -/
def tabMap {α : Type} [DecidableEq α] (d : α) (n : Nat) (f : α → α) (t : Tab α) : Tab α :=
  (List.range n).foldl (fun t k => tabSet d t k (f (tabGet d t k))) t

/-- A table whose first n keys hold one value. -/
def tabFill {α : Type} [DecidableEq α] (d : α) (n : Nat) (x : α) : Tab α := if x = d then [] else (List.range n).map fun k => (k, x)

/-- Every key of the table is above `lo`, keys rise strictly and no entry is `d`. -/
def tabWfFrom {α : Type} [DecidableEq α] (d : α) : Option Nat → Tab α → Bool
  | _, [] => true
  | lo, (k, v) :: t => (match lo with | none => true | some l => decide (l < k)) && decide (v ≠ d) && tabWfFrom d (some k) t

/-- The canonical form. -/
def tabWf {α : Type} [DecidableEq α] (d : α) (t : Tab α) : Bool := tabWfFrom d none t

/-- Apply `f` to every element that satisfies `p`. -/
def updWhere {α : Type} (p : α → Bool) (f : α → α) (l : List α) : List α := l.map fun x => if p x then f x else x

/-- The greater of two counts at each key. -/
def tabMax (a b : Tab Nat) : Tab Nat := b.foldl (fun t p => tabSet 0 t p.1 (max p.2 (tabGet 0 t p.1))) a

/-- An element put before the first that it does not follow. -/
def insertBy {α : Type} (le : α → α → Bool) (x : α) : List α → List α
  | [] => [x]
  | y :: t => if le x y then x :: y :: t else y :: insertBy le x t

/-- A list in order; equal elements keep theirs. -/
def sortBy {α : Type} (le : α → α → Bool) (l : List α) : List α := l.foldr (insertBy le) []

/-! ### Bit fields (00/R1) -/

/-- Bits [hi:lo] of a word as a number. -/
def bits {n : Nat} (x : BitVec n) (hi lo : Nat) : Nat := (x.extractLsb' lo (hi + 1 - lo)).toNat

/-- Bit i. -/
def bit {n : Nat} (x : BitVec n) (i : Nat) : Bool := x.getLsbD i

/-- `x` with bits [hi:lo] replaced by the low bits of `y`. -/
def putBits {n : Nat} (x : BitVec n) (hi lo : Nat) (y : Nat) : BitVec n :=
  let m : BitVec n := BitVec.ofNat n ((2 ^ (hi + 1 - lo) - 1) <<< lo)
  (x &&& ~~~m) ||| (BitVec.ofNat n (y <<< lo) &&& m)

/-- The low `w` bits of `y` as a signed number. -/
def sextNat (w : Nat) (y : Nat) : Int :=
  let z := y % 2 ^ w
  if 2 * z < 2 ^ w then (z : Int) else (z : Int) - (2 ^ w : Nat)

/-- A signed number modulo 2^w. -/
def toBits (w : Nat) (i : Int) : BitVec w := BitVec.ofInt w i

/-- Sign extension of a 32-bit word to 64 bits (00/R6). -/
def sx64 (x : W32) : W64 := x.signExtend 64

/-- Zero extension of a 32-bit word to 64 bits. -/
def zx64 (x : W32) : W64 := x.setWidth 64

/-- Even parity of a number's low `n` bits: true when the count of ones is odd (08/R166). -/
def parity : Nat → Nat → Bool
  | 0, _ => false
  | n + 1, x => xor (x.testBit n) (parity n x)

/-- Number of set bits among the low `n`. -/
def popCount : Nat → Nat → Nat
  | 0, _ => 0
  | n + 1, x => (if x.testBit n then 1 else 0) + popCount n x

/-- Index of the lowest set bit among bits `i` to `i + n - 1`, or `i + n` when there is none. -/
def lowestBit : Nat → Nat → Nat → Nat
  | 0, i, _ => i
  | n + 1, i, x => if x.testBit i then i else lowestBit n (i + 1) x

/-- Bits reversed over a width. -/
def revBits : Nat → Nat → Nat
  | 0, _ => 0
  | n + 1, x => (if x.testBit 0 then 2 ^ n else 0) + revBits n (x / 2)

/-! ### Bytes, little-endian (00/R1) -/

/-- The low `n` bytes of a number, least significant first. -/
def toBytes : Nat → Nat → List Byte
  | 0, _ => []
  | n + 1, x => BitVec.ofNat 8 x :: toBytes n (x / 256)

/-- The number whose bytes, least significant first, are given. -/
def ofBytes : List Byte → Nat
  | [] => 0
  | b :: r => b.toNat + 256 * ofBytes r

/-- The 64-bit word at byte offset `o` of a record. -/
def word64 (l : List Byte) (o : Nat) : W64 := BitVec.ofNat 64 (ofBytes ((l.drop o).take 8))

/-- A record of 64-bit words as bytes. -/
def wordsToBytes (l : List W64) : List Byte := l.flatMap fun w => toBytes 8 w.toNat

/-! ### Lanes and slices (06/R108) -/

/-- Lane L of a vector register. -/
def lane (v : VReg) (L : Nat) : W32 := v.extractLsb' (32 * L) 32

/-- A vector register with lane L replaced. -/
def setLane (v : VReg) (L : Nat) (x : W32) : VReg := putBits v (32 * L + 31) (32 * L) x.toNat

/-- The lanes whose bit is set, ascending. -/
def lanesOf (m : W32) : List Nat := (List.range 32).filter fun i => m.getLsbD i

/-- The slices whose bit is set, ascending. -/
def slicesOf (m : BitVec 8) : List Nat := (List.range 8).filter fun i => m.getLsbD i

/-- The lanes of a set of slices. -/
def sliceLanes (m : BitVec 8) : W32 :=
  (slicesOf m).foldl (fun a j => a ||| (BitVec.ofNat 32 (15 <<< (4 * j)))) 0

/-- The slices that have a lane in the mask. -/
def lanesSlices (m : W32) : BitVec 8 :=
  (List.range 8).foldl (fun a j => if bits m (4 * j + 3) (4 * j) = 0 then a else a ||| BitVec.ofNat 8 (1 <<< j)) 0

/-- One step of the LFSR x^32 + x^22 + x^2 + x + 1 (05/R105). -/
def lfsrStep (x : W32) : W32 :=
  let b := (xor (xor (bit x 31) (bit x 21)) (xor (bit x 1) (bit x 0)))
  (x <<< 1) ||| (if b then 1 else 0)

/-- The start of an LFSR: the seed XOR a number, or 1 if that is zero (05/R105, 14/R334). -/
def lfsrSeed (seed : W32) (n : Nat) : W32 :=
  let x := seed ^^^ BitVec.ofNat 32 n
  if x = 0 then 1 else x

/-! ### Code addresses (08/R167) -/

/-- The code address of linear slot index `n` as a register holds it. -/
def codeAddr (n : Nat) : W64 := BitVec.ofNat 64 (n / 5 * 64 + n % 5)

/-- The linear slot index of a code address, none when bits [63:56] or [5:3] are not zero or the slot exceeds 4. -/
def slotIndex (x : W64) : Option Nat :=
  if bits x 63 56 = 0 ∧ bits x 5 3 = 0 ∧ bits x 2 0 ≤ 4 then some (bits x 55 6 * 5 + bits x 2 0) else none

/-- `n` advanced by a signed count of slots; none when the result names no code address (08/R167). -/
def slotPlus (n : Nat) (d : Int) : Option Nat :=
  let t := (n : Int) + d
  if 0 ≤ t ∧ t < (2 ^ 50 * 5 : Nat) then some t.toNat else none

/-- VA of the fetch line of a slot. -/
def lineVa (n : Nat) : Nat := n / 5 * 64

/-- The element with a given number in a list of options with default. -/
def nth {α : Type} (d : α) (l : List α) (i : Nat) : α := l.getD i d

/-- Replace the element at `i`. -/
def setNth {α : Type} : List α → Nat → α → List α
  | [], _, _ => []
  | _ :: t, 0, x => x :: t
  | h :: t, n + 1, x => h :: setNth t n x

end Sys2Proof.Machine
end

