-- ==== Sys2Proof/Machine/Numbers.lean ====
section
/-! DEFINITION. Numbers: values of element codes (05/R83-R87), rounding and overflow (R100-R106), DM8 (R87-R89, R95), scales
(R90-R94), and the special functions within their bounds (R107). Values are exact rationals. -/

namespace Sys2Proof.Machine

/-- A value: NaN, an infinity, or a sign and a magnitude (a zero has a sign). -/
inductive Val where
  | nan
  | inf (neg : Bool)
  | fin (neg : Bool) (mag : Rat)
deriving DecidableEq, Repr

/-- 2 to an integer power. -/
def pow2 (e : Int) : Rat := if 0 ≤ e then ((2 ^ e.toNat : Nat) : Rat) else 1 / ((2 ^ (-e).toNat : Nat) : Rat)

/-- 10 to an integer power. -/
def pow10 (e : Int) : Rat := if 0 ≤ e then ((10 ^ e.toNat : Nat) : Rat) else 1 / ((10 ^ (-e).toNat : Nat) : Rat)

/-- floor(log2 q) of a positive rational. -/
def log2Rat (q : Rat) : Int :=
  let e : Int := (Nat.log2 q.num.natAbs : Int) - (Nat.log2 q.den : Int)
  if q < pow2 e then e - 1 else e

/-- The value as a signed rational; 0 for NaN and infinities. -/
def Val.rat : Val → Rat
  | .fin neg m => if neg then -m else m
  | _ => 0

def Val.isNan : Val → Bool
  | .nan => true
  | _ => false

def Val.isInf : Val → Bool
  | .inf _ => true
  | _ => false

def Val.neg : Val → Bool
  | .nan => false
  | .inf n => n
  | .fin n _ => n

def Val.isZero : Val → Bool
  | .fin _ m => m == 0
  | _ => false

/-- A rational as a value; `zneg` is the sign of a zero. -/
def ofRat (q : Rat) (zneg : Bool := false) : Val :=
  if q = 0 then .fin zneg 0 else if q < 0 then .fin true (-q) else .fin false q

def ofInt (i : Int) : Val := ofRat i

/-! ### Binary formats (05/R85) -/

/-- How the top exponent is used: as in IEEE 754, one NaN code (E4M3), or not at all. -/
inductive Top where
  | ieee | e4m3 | none
deriving DecidableEq, Repr

/-- A binary format. `shift` is the container's low bits that hold nothing (FP19). -/
structure BinFmt where
  e : Nat
  m : Nat
  bias : Nat
  top : Top
  shift : Nat := 0
deriving DecidableEq, Repr

def f32Fmt : BinFmt := ⟨8, 23, 127, .ieee, 0⟩
def fp19Fmt : BinFmt := ⟨8, 10, 127, .ieee, 13⟩
def bf16Fmt : BinFmt := ⟨8, 7, 127, .ieee, 0⟩
def f16Fmt : BinFmt := ⟨5, 10, 15, .ieee, 0⟩
def e4m3Fmt : BinFmt := ⟨4, 3, 7, .e4m3, 0⟩
def e5m2Fmt : BinFmt := ⟨5, 2, 15, .ieee, 0⟩
def e3m2Fmt : BinFmt := ⟨3, 2, 3, .none, 0⟩
def e2m3Fmt : BinFmt := ⟨2, 3, 1, .none, 0⟩
def e2m1Fmt : BinFmt := ⟨2, 1, 1, .none, 0⟩

/-- Least normal exponent. -/
def BinFmt.emin (F : BinFmt) : Int := 1 - (F.bias : Int)

/-- Largest finite magnitude. -/
def BinFmt.maxFin (F : BinFmt) : Rat :=
  match F.top with
  | .ieee => (((2 ^ (F.m + 1) - 1 : Nat) : Rat)) * pow2 ((2 ^ F.e - 2 : Nat) - F.bias - F.m)
  | .e4m3 => (((2 ^ (F.m + 1) - 2 : Nat) : Rat)) * pow2 ((2 ^ F.e - 1 : Nat) - F.bias - F.m)
  | .none => (((2 ^ (F.m + 1) - 1 : Nat) : Rat)) * pow2 ((2 ^ F.e - 1 : Nat) - F.bias - F.m)

/-- The value of a code. -/
def BinFmt.value (F : BinFmt) (code : Nat) : Val :=
  let x := code / 2 ^ F.shift
  let man := x % 2 ^ F.m
  let ex := x / 2 ^ F.m % 2 ^ F.e
  let neg := x / 2 ^ (F.m + F.e) % 2 == 1
  if F.top = .ieee ∧ ex = 2 ^ F.e - 1 then (if man = 0 then .inf neg else .nan)
  else if F.top = .e4m3 ∧ ex = 2 ^ F.e - 1 ∧ man = 2 ^ F.m - 1 then .nan
  else if ex = 0 then .fin neg ((man : Rat) * pow2 (F.emin - F.m))
  else .fin neg (((2 ^ F.m + man : Nat) : Rat) * pow2 ((ex : Int) - F.bias - F.m))

/-- The sign bit. -/
def BinFmt.sign (F : BinFmt) (neg : Bool) : Nat := if neg then 2 ^ (F.m + F.e + F.shift) else 0

/-- The code of a sign and a representable finite magnitude. -/
def BinFmt.code (F : BinFmt) (neg : Bool) (mag : Rat) : Nat :=
  F.sign neg + (2 ^ F.shift) *
    (if mag = 0 then 0
     else
       let e := log2Rat mag
       if e < F.emin then (mag / pow2 (F.emin - F.m)).floor.toNat
       else (e + F.bias).toNat * 2 ^ F.m + ((mag / pow2 (e - F.m)).floor.toNat - 2 ^ F.m))

def BinFmt.infCode (F : BinFmt) (neg : Bool) : Nat := F.sign neg + 2 ^ F.shift * ((2 ^ F.e - 1) * 2 ^ F.m)

/-- The canonical NaN that a result or a conversion writes (05/R101, R106). -/
def BinFmt.nanCode (F : BinFmt) : Nat :=
  match F.top with
  | .ieee => 2 ^ F.shift * ((2 ^ F.e - 1) * 2 ^ F.m + 2 ^ (F.m - 1))
  | .e4m3 => 2 ^ (F.m + F.e) - 1
  | .none => 0

/-! ### Rounding (05/R100, R102, R104) -/

/-- Whether a rounded-down significand goes up: `n` the lower neighbour, `frac` the rest in [0, 1). -/
def roundsUp (mode : Nat) (neg : Bool) (n : Nat) (frac : Rat) (draw : Nat) : Bool :=
  match mode with
  | 0 => 1 / 2 < frac || (frac == 1 / 2 && n % 2 == 1)
  | 1 => false
  | 2 => !neg && 0 < frac
  | 3 => neg && 0 < frac
  | 4 => 1 / 2 ≤ frac
  | _ => draw < (frac * 16777216).floor.toNat

/-- Round a magnitude to multiples of `quantum`. -/
def roundMag (mode : Nat) (neg : Bool) (mag quantum : Rat) (draw : Nat) : Rat :=
  let t := mag / quantum
  let n := t.floor.toNat
  ((n + (if roundsUp mode neg n (t - n) draw then 1 else 0) : Nat) : Rat) * quantum

/-- The spacing of a format's values at a magnitude, its exponent range unbounded above (05/R106). -/
def BinFmt.quantum (F : BinFmt) (mag : Rat) : Rat :=
  pow2 ((if mag = 0 then F.emin else max (log2Rat mag) F.emin) - F.m)

/-- Whether the conversion of a value is inexact in the format, so that stochastic rounding steps the LFSR (05/R104). -/
def BinFmt.inexact (F : BinFmt) : Val → Bool
  | .fin _ m => (m / F.quantum m).den != 1
  | _ => false

/-- The mode rounds away from zero on overflow. -/
def overflowsAway (mode : Nat) (neg : Bool) : Bool :=
  match mode with | 1 => false | 2 => !neg | 3 => neg | _ => true

/-- Round a value to a format (05/R100, R106). -/
def BinFmt.round (F : BinFmt) (mode : Nat) (sat : Bool) (draw : Nat) (v : Val) : Nat :=
  let big := fun neg => F.code neg F.maxFin
  match v with
  | .nan => F.nanCode
  | .inf neg =>
    match F.top with
    | .none => big neg
    | .ieee => if sat then big neg else F.infCode neg
    | .e4m3 => if sat then big neg else F.sign neg + F.nanCode
  | .fin neg m =>
    let r := roundMag mode neg m (F.quantum m) draw
    if F.maxFin < r then
      match F.top with
      | .none => big neg
      | .ieee => if sat || !overflowsAway mode neg then big neg else F.infCode neg
      | .e4m3 => if sat then big neg else F.sign neg + F.nanCode
    else F.code neg r

/-- A code is subnormal (05/R103). -/
def BinFmt.subnormal (F : BinFmt) (code : Nat) : Bool :=
  let x := code / 2 ^ F.shift
  x / 2 ^ F.m % 2 ^ F.e == 0 && x % 2 ^ F.m != 0

/-- Flush: a subnormal code becomes a zero of its sign. -/
def BinFmt.flush (F : BinFmt) (ftz : Bool) (code : Nat) : Nat :=
  if ftz && F.subnormal code then F.sign (code / 2 ^ (F.m + F.e + F.shift) % 2 == 1) else code

/-! ### DM8 (05/R87-R89) -/

/-- Exponent and mantissa of a finite non-zero DM8 code's low seven bits. -/
def dm8Parts (c : Nat) : Option (Int × Rat) :=
  if 64 ≤ c then some (0, 1 + 9 * ((c % 64 : Nat) : Rat) / 64)
  else if 32 ≤ c then some (if c / 16 % 2 = 0 then -1 else 1, 1 + 9 * ((c % 16 : Nat) : Rat) / 16)
  else if 16 ≤ c then some (([-3, -2, 2, 3] : List Int).getD (c / 4 % 4) 0, 1 + 9 * ((c % 4 : Nat) : Rat) / 4)
  else if 8 ≤ c then some (([-7, -6, -5, -4, 4, 5, 6, 7] : List Int).getD (c % 8) 0, 1)
  else if 4 ≤ c then some (([-8, -9, 8, 9] : List Int).getD (c % 4) 0, 1)
  else if c = 1 then some (-10, 1)
  else none

/-- The value of a DM8 code whose E has `shift` added (05/R87, R92 for id 25). -/
def dm8Value (shift : Int) (code : Nat) : Val :=
  let neg := code / 128 % 2 == 1
  let c := code % 128
  if c = 0 then .fin neg 0
  else if c = 2 then .inf neg
  else if c = 3 then .nan
  else match dm8Parts c with
    | some (e, m) => .fin neg (m * pow10 (e + shift))
    | none => .nan

/-- The positive finite codes. -/
def dm8Codes : List Nat := (List.range 128).filter fun c => c != 2 && c != 3

/-- The nearer of two codes to a magnitude; a tie goes to the smaller magnitude (05/R88). -/
def dm8Nearer (mag : Rat) (a b : Nat) : Nat :=
  let va := (dm8Value 0 a).rat
  let vb := (dm8Value 0 b).rat
  let da := if va < mag then mag - va else va - mag
  let db := if vb < mag then mag - vb else vb - mag
  if db < da || (db == da && vb < va) then b else a

/-- Conversion to DM8 (05/R88-R89). -/
def dm8Round (sat : Bool) (v : Val) (nanNeg : Bool := false) : Nat :=
  match v with
  | .nan => if nanNeg then 0x83 else 0x03
  | .inf neg => (if neg then 0x80 else 0) + (if sat then 0x07 else 0x02)
  | .fin neg m =>
    let s := if neg then 0x80 else 0
    if pow10 9 < m then s + (if sat then 0x07 else 0x02)
    else s + dm8Codes.foldl (fun a b => dm8Nearer m a b) 0

/-- The internal binary value of a DM8 value: 12 significant bits, to nearest even (05/R95). -/
def e8m11 : Val → Val
  | .fin neg m => if m = 0 then .fin neg 0 else .fin neg (roundMag 0 false m (pow2 (log2Rat m - 11)) 0)
  | v => v

/-! ### Element formats by code (05/R83, 12/R277) -/

/-- The binary format of a code, where it has one. -/
def binFmt (code : Nat) : Option BinFmt :=
  match code with
  | 0 => some f32Fmt | 1 => some fp19Fmt | 2 => some bf16Fmt | 3 => some f16Fmt | 4 => some e4m3Fmt | 5 => some e5m2Fmt
  | 6 => some e3m2Fmt | 7 => some e2m3Fmt | 8 => some e2m1Fmt | 0x24 => some e2m1Fmt
  | _ => none

/-- Width and signedness of an integer code. -/
def intFmt (code : Nat) : Option (Nat × Bool) :=
  match code with
  | 10 => some (16, true) | 11 => some (8, true) | 12 => some (8, false) | 13 => some (4, true) | 14 => some (4, false)
  | 0x20 => some (32, true) | 0x21 => some (32, false)
  -- the model's own code for the lane type of `.u16x2`
  | 0x100 => some (16, false)
  | _ => none

/-- The value of an integer code. -/
def intValue (w : Nat) (signed : Bool) (x : Nat) : Int := if signed then sextNat w x else ((x % 2 ^ w : Nat) : Int)

/-- Range of an integer type. -/
def intMin (w : Nat) (signed : Bool) : Int := if signed then -(2 ^ (w - 1) : Nat) else 0
def intMax (w : Nat) (signed : Bool) : Int := ((2 ^ (if signed then w - 1 else w) : Nat) : Int) - 1

/-- Clamp to a range. -/
def clampInt (lo hi x : Int) : Int := if x < lo then lo else if hi < x then hi else x

/-- The value of an element code under a format code of 12/R277: E8M0 and UE4M3 are not signed, an E2M1X escape is NaN where
no side list stands (12/R279). -/
def elemValue (fmt code : Nat) : Val :=
  match binFmt fmt with
  | some F => if fmt = 0x24 ∧ code % 16 = 8 then .nan else F.value code
  | none => match intFmt fmt with
    | some (w, signed) => ofInt (intValue w signed code)
    | none =>
      if fmt = 9 then dm8Value 0 code
      else if fmt = 0x22 then (if code % 256 = 255 then .nan else .fin false (pow2 ((code % 256 : Nat) - 127)))
      else if fmt = 0x23 then (if 127 ≤ code % 256 then .nan else e4m3Fmt.value (code % 128))
      else .nan

/-- Round a value to an integral value in a mode. -/
def roundInt (mode : Nat) (v : Val) (draw : Nat) : Int :=
  match v with
  | .fin neg m =>
    let n := (roundMag mode neg m 1 draw).floor
    if neg then -n else n
  | _ => 0

/-- Round the exponent of a magnitude to E8M0 (05/R106): the significand is the fraction between two powers of two. -/
def e8m0Round (mode : Nat) (draw : Nat) : Val → Nat
  | .nan => 0xFF
  | .inf _ => 0xFE
  | .fin _ m =>
    if m = 0 then 0 else
    let e := log2Rat m
    let frac := m / pow2 e - 1
    let r : Int := e + 127 + (if roundsUp mode false (e + 127).toNat frac draw then 1 else 0)
    if r < 0 then 0 else if 0xFE < r then 0xFE else r.toNat

/-- Conversion of a value to a format code: the element code it gives (05/R88, R93, R106; 12/R279). `nanNeg` is the sign of a
NaN source, which only DM8 keeps. -/
def elemRound (fmt mode : Nat) (sat : Bool) (draw : Nat) (v : Val) (nanNeg : Bool := false) : Nat :=
  if fmt = 9 then dm8Round sat v nanNeg
  else match intFmt fmt with
    | some (w, signed) =>
      let lo := intMin w signed
      let hi := intMax w signed
      let r : Int := match v with
        | .nan => 0
        | .inf neg => if neg then lo else hi
        | _ => clampInt lo hi (roundInt mode v draw)
      (toBits w r).toNat
    | none =>
      if fmt = 0x22 then e8m0Round mode draw v
      else if fmt = 0x23 then
        match v with
        | .nan => 0x7F
        | .inf _ => 0x7E
        | .fin _ m => e4m3Fmt.round mode true draw (.fin false m)
      else if fmt = 0x24 then
        let c := e2m1Fmt.round mode sat draw v
        if c = 8 then 0 else c
      else match binFmt fmt with
        | some F => F.round mode sat draw v
        | none => 0

/-- Whether stochastic rounding to a format code steps the LFSR for a value (05/R104). -/
def elemInexact (fmt : Nat) (v : Val) : Bool :=
  if fmt = 9 then false
  else match intFmt fmt with
    | some _ => (match v with | .fin _ m => m.den != 1 | _ => false)
    | none =>
      if fmt = 0x22 then (match v with | .fin _ m => m != 0 && m != pow2 (log2Rat m) | _ => false)
      else if fmt = 0x23 then e4m3Fmt.inexact v
      else match binFmt fmt with
        | some F => F.inexact v
        | none => false

/-! ### Exact arithmetic on values -/

/-- Sum of two values in a rounding mode (12/R267: the sign of an exact zero sum). -/
def addVal (mode : Nat) (x y : Val) : Val :=
  match x, y with
  | .nan, _ => .nan
  | _, .nan => .nan
  | .inf a, .inf b => if a = b then .inf a else .nan
  | .inf a, _ => .inf a
  | _, .inf b => .inf b
  | .fin a m, .fin b n =>
    let q := Val.rat (.fin a m) + Val.rat (.fin b n)
    ofRat q (if m = 0 ∧ n = 0 ∧ a = b then a else mode == 3)

def negVal : Val → Val
  | .nan => .nan
  | .inf a => .inf !a
  | .fin a m => .fin (!a) m

def mulVal (x y : Val) : Val :=
  match x, y with
  | .nan, _ => .nan
  | _, .nan => .nan
  | .inf a, .inf b => .inf (xor a b)
  | .inf a, .fin b n => if n = 0 then .nan else .inf (xor a b)
  | .fin a m, .inf b => if m = 0 then .nan else .inf (xor a b)
  | .fin a m, .fin b n => .fin (xor a b) (m * n)

/-- Ordering of values with −0 equal to +0: none when unordered. -/
def cmpVal (x y : Val) : Option Ordering :=
  match x, y with
  | .nan, _ => none
  | _, .nan => none
  | .inf a, .inf b => some (if a = b then .eq else if a then .lt else .gt)
  | .inf a, _ => some (if a then .lt else .gt)
  | _, .inf b => some (if b then .gt else .lt)
  | x, y => some (if x.rat < y.rat then .lt else if x.rat = y.rat then .eq else .gt)

/-- `fmin` (or `fmax`) of two codes (12/R271). -/
def BinFmt.minMax (F : BinFmt) (ftz isMax : Bool) (a b : Nat) : Nat :=
  let a := F.flush ftz a
  let b := F.flush ftz b
  let x := F.value a
  let y := F.value b
  F.flush ftz
    (if x.isNan && y.isNan then F.nanCode
     else if x.isNan then b
     else if y.isNan then a
     else
       let aLess := match cmpVal x y with
         | some .lt => true
         | some .gt => false
         | _ => x.neg
       if aLess = isMax then b else a)

/-- A result rounded once into a format under the steps of 12/R267. -/
def BinFmt.result (F : BinFmt) (mode : Nat) (sat ftz : Bool) (v : Val) : Nat :=
  let c := F.flush ftz (F.round mode false 0 v)
  if sat && (F.value c).isInf then F.code (F.value c).neg F.maxFin else c

/-! ### Scales and scaled elements (05/R90-R94) -/

/-- Kinds of scale (05/R83). -/
inductive Scale where
  | none | e8m0 | ue4m3 | ds8 | bf16
deriving DecidableEq, Repr

/-- Element format, scale and block length of a format id 0-27 (05/R83); MX-INT8 is an integer of weight 2^-6. -/
def fmtElem (id : Nat) : Nat :=
  match id with
  | 15 => 4 | 16 => 5 | 17 => 6 | 18 => 7 | 19 => 8 | 20 => 11 | 21 => 8 | 22 => 4 | 23 => 0x24 | 24 => 0x24 | 25 => 9
  | 26 => 13 | 27 => 14 | n => n

def fmtScale (id : Nat) : Scale :=
  if id < 15 then .none else if id ≤ 20 ∨ id = 23 then .e8m0 else if id ≤ 24 then .ue4m3 else if id = 25 then .ds8
  else if id ≤ 27 then .bf16 else .none

def fmtBlock (id : Nat) : Nat := if id < 15 then 0 else if id = 21 ∨ id = 22 ∨ id = 24 then 16 else 32

/-- Element width in bits (05/R83-R84); FP19 fills its 32-bit container. -/
def fmtBits (id : Nat) : Nat :=
  match id with
  | 0 => 32 | 1 => 32 | 2 => 16 | 3 => 16 | 6 => 6 | 7 => 6 | 8 => 4 | 10 => 16 | 13 => 4 | 14 => 4 | 17 => 6 | 18 => 6
  | 19 => 4 | 21 => 4 | 23 => 4 | 24 => 4 | 26 => 4 | 27 => 4 | _ => 8

/-- Class I ids (05/R83). -/
def fmtInt (id : Nat) : Bool := 10 ≤ id && id ≤ 14

/-- Reduction depth K of an id (05/R83). -/
def fmtK (id : Nat) : Nat :=
  match id with
  | 0 => 8 | 1 => 16 | 2 => 32 | 3 => 32 | 10 => 32 | _ => if fmtBits id = 4 then 128 else 64

/-- Reduction depth of an operation: that of the operand with the wider element (05/R96). -/
def opK (af bf : Nat) : Nat := min (fmtK af) (fmtK bf)

/-- The value of an element of a scaled format under its block record (05/R92, R94). `esc` is the side-list entry of an
escaped element. -/
def scaledValue (id : Nat) (code : Nat) (record : W32) (esc : Val) (dm8Internal : Bool) : Val :=
  match fmtScale id with
  | .none =>
    if id = 9 ∧ dm8Internal then e8m11 (dm8Value 0 code) else elemValue id code
  | .ds8 =>
    let n := sextNat 8 (bits record 7 0)
    if n < -20 ∨ 20 < n then .nan
    else if dm8Internal then e8m11 (dm8Value n code) else dm8Value n code
  | .bf16 =>
    let s := bf16Fmt.value (bits record 15 0)
    let n := elemValue (fmtElem id) code
    let d := if id = 27 then addVal 0 n (negVal (bf16Fmt.value (bits record 31 16))) else n
    if s.isZero then (match d with | .fin _ _ => .fin false 0 | _ => .nan) else mulVal d s
  | k =>
    let s : Val := if k = .e8m0 then elemValue 0x22 (bits record 7 0) else elemValue 0x23 (bits record 7 0)
    let e := fmtElem id
    if s.isNan then .nan
    else if e = 0x24 ∧ code % 16 = 8 then esc
    else
      let v := if id = 20 then mulVal (elemValue 11 code) (.fin false (1 / 64))
        else if e = 0x24 then e2m1Fmt.value code else elemValue e code
      mulVal v s

/-! ### Special functions within their bounds (05/R107) -/

/-- Partial sum of the exponential series: `n` terms from term `k` whose value is `term`. -/
def expSeries (t : Rat) : Nat → Nat → Rat → Rat
  | 0, _, _ => 0
  | n + 1, k, term => term + expSeries t n (k + 1) (term * t / ((k + 1 : Nat) : Rat))

/-- ln 2 to 2^-80, from below. -/
def ln2 : Rat := (837963523372001241319907 : Rat) / (1208925819614629174706176 : Rat)

/-- A rational within 2^-60 or so, relatively, of e^t, for any t. -/
def expApprox (t : Rat) : Rat :=
  let n := (t / ln2).floor
  expSeries (t - n * ln2) 28 0 1 * pow2 n

/-- A rational close to 2^x. -/
def exp2Approx (x : Rat) : Rat :=
  let n := x.floor
  expSeries ((x - n) * ln2) 28 0 1 * pow2 n

/-- Integer square root by bisection over `n` bits. -/
def isqrt (x : Nat) : Nat → Nat → Nat
  | 0, r => r
  | n + 1, r => isqrt x n (if (r + 2 ^ n) * (r + 2 ^ n) ≤ x then r + 2 ^ n else r)

/-- A rational close to log2 of a positive rational: the exponent and `n` bits found by squaring. -/
def log2Bits : Nat → Rat → Rat → Rat
  | 0, _, _ => 0
  | n + 1, m, w =>
    let m2 := (((m * m) * pow2 64).floor : Rat) / pow2 64
    if 2 ≤ m2 then w / 2 + log2Bits n (m2 / 2) (w / 2) else log2Bits n m2 (w / 2)

def log2Approx (q : Rat) : Rat :=
  let e := log2Rat q
  e + log2Bits 56 (q / pow2 e) 1

/-- π to 2^-100 or so. -/
def piApprox : Rat := (3141592653589793238462643383279502884 : Rat) / (1000000000000000000000000000000000000 : Rat)

/-- Terms of the sine or cosine series. -/
def trigSeries (t2 : Rat) : Nat → Nat → Rat → Rat
  | 0, _, _ => 0
  | n + 1, k, term => term + trigSeries t2 n (k + 2) (-(term * t2) / (((k + 1) * (k + 2) : Nat) : Rat))

def sinApprox (x : Rat) : Rat :=
  let n := (x / (2 * piApprox) + 1 / 2).floor
  let t := x - n * (2 * piApprox)
  trigSeries (t * t) 20 1 t

def cosApprox (x : Rat) : Rat :=
  let n := (x / (2 * piApprox) + 1 / 2).floor
  let t := x - n * (2 * piApprox)
  trigSeries (t * t) 20 0 1

/-- One ulp of binary32 at a value. -/
def ulp (q : Rat) : Rat := f32Fmt.quantum (if q < 0 then -q else q)

/-- A free result kept within a distance of the exact one; outside it, or not finite, the exact result rounded to nearest
stands instead. -/
def within (opc : Nat) (x : W32) (exact bound : Rat) : Nat :=
  let r := Config.specialFn opc x
  let d := (f32Fmt.value r.toNat).rat - exact
  let ok := (match f32Fmt.value r.toNat with | .fin _ _ => true | _ => false) && decide (-bound ≤ d) && decide (d ≤ bound)
  if ok then r.toNat else f32Fmt.round 0 false 0 (ofRat exact)

/-- The result of a special function (05/R107): the special inputs of its table, else a value within its bound. -/
def special (opc : Nat) (mode : Nat) (x : W32) : Nat :=
  let nan := f32Fmt.nanCode
  match f32Fmt.value x.toNat with
  | .nan => nan
  | .inf neg =>
    match opc with
    | 0x47 => f32Fmt.sign neg
    | 0x48 => if neg then nan else 0
    | 0x49 => if neg then nan else f32Fmt.infCode false
    | 0x4A => if neg then 0 else f32Fmt.infCode false
    | 0x4B => if neg then nan else f32Fmt.infCode false
    | 0x4E => f32Fmt.code neg 1
    | 0x4F => if neg then 0 else f32Fmt.code false 1
    | _ => nan
  | .fin neg m =>
    let q := Val.rat (.fin neg m)
    match opc with
    | 0x47 => if m = 0 then f32Fmt.infCode neg else
        if f32Fmt.maxFin < 1 / m then f32Fmt.round 0 false 0 (.fin neg (1 / m)) else within opc x (1 / q) (ulp (1 / q))
    | 0x48 =>
      if m = 0 then f32Fmt.infCode neg
      else if neg then nan
      else
        -- the radicand has about 160 bits whatever the exponent of m
        let e := pow2 (80 + (log2Rat m) / 2)
        let r := ((isqrt (e * e / m).floor.toNat 130 0 : Nat) : Rat) / e
        within opc x r (2 * ulp r)
    | 0x49 =>
      if m = 0 then f32Fmt.sign neg
      else if neg then nan
      else
        -- 80 bits of the root and a sticky bit decide every rounding exactly
        let k := 80 - (log2Rat m) / 2
        let t := (m * pow2 (2 * k)).floor.toNat
        let r := isqrt t 128 0
        let sticky : Rat := if ((r * r : Nat) : Rat) = m * pow2 (2 * k) then 0 else 1 / 4
        f32Fmt.round mode false 0 (.fin false (((r : Rat) + sticky) / pow2 k))
    | 0x4A =>
      if 130 < q then f32Fmt.infCode false
      else if q < -160 then within opc x (pow2 (-200)) (2 * ulp 0)
      else
        let r := exp2Approx q
        if f32Fmt.maxFin < r then f32Fmt.round 0 false 0 (.fin false r) else within opc x r (2 * ulp r)
    | 0x4B =>
      if m = 0 then f32Fmt.infCode true
      else if neg then nan
      else
        let r := log2Approx m
        within opc x r (if 1 / 2 ≤ m ∧ m ≤ 2 then pow2 (-22) else 2 * ulp r)
    | 0x4C => if m ≤ 1048576 then within opc x (sinApprox q) (pow2 (-21)) else within opc x 0 1
    | 0x4D => if m ≤ 1048576 then within opc x (cosApprox q) (pow2 (-21)) else within opc x 0 1
    | 0x4E =>
      if m = 0 then f32Fmt.sign neg
      else
        let r := if 20 < m then 1 - pow2 (-60) else if m < pow2 (-13) then m * (1 - m * m / 3) else
          let e := expApprox (2 * m)
          (e - 1) / (e + 1)
        within opc x (if neg then -r else r) (2 * ulp r)
    | _ =>
      let r := if 100 < q then 1 - pow2 (-100) else if q < -120 then pow2 (-200) else 1 / (1 + expApprox (-q))
      within opc x r (2 * ulp r)

end Sys2Proof.Machine
end

