-- ==== Sys2Proof/Syntax.lean ====
section
/-! DEFINITION. The syntax: one constructor of `Instr` per row of the opcode table. The 202 instructions carry the fields
of the 96-bit word (08/R173) with kinds and types already decoded; the 95 events carry what the outside, or the unit that
raises them, supplies. -/

namespace Sys2Proof

/-- Operand types (08/R176). -/
inductive Ty where
  | u32 | s32 | u64 | s64 | f32 | f16x2 | bf16x2 | u16x2 | s16x2 | u8x4 | s8x4 | b32 | b64 | mask
deriving DecidableEq, Repr

/-- Kind of operand A (08/R173, [61:60]); kind 3 is reserved. -/
inductive AKind where
  | reg | queue | special
deriving DecidableEq, Repr

/-- Kind of operand B (08/R173, [63:62]). -/
inductive BKind where
  | reg | imm | queue | special
deriving DecidableEq, Repr

/-- Line-flag tie (08/R169, R173 [13:12]); code 3 is illegal. -/
inductive Tie where
  | none | a | b
deriving DecidableEq, Repr

/-- The instruction word's fields but for OPC (08/R173), which the constructor stands for. -/
structure Fields where
  sub : BitVec 4 := 0
  cf : Tie := .none
  ru : Bool := false
  sc : Bool := false
  km : BitVec 3 := 0
  kn : Bool := false
  d : BitVec 8 := 0
  a : BitVec 8 := 0
  b : BitVec 8 := 0
  c : BitVec 8 := 0
  ty : Ty := .u32
  md : BitVec 4 := 0
  ak : AKind := .reg
  bk : BKind := .reg
  imm : W32 := 0
deriving DecidableEq, Repr

/-- Source of a machine check (17/R396). -/
inductive McSource where
  | fetchParity | uncorrectable | compressionCount | poisonedLoad
deriving DecidableEq, Repr

/-- What consumed the error of a machine check (17/R396): the block of a fetch, load or engine read, a walker, or nothing
(an eviction or a write-back). -/
inductive McConsumer where
  | block (id : Nat)
  | walker (id : Nat)
  | nothing
deriving DecidableEq, Repr

/-- A management request (26/R454): the connection it came on, OP, SEQ and the operands P0-P6. -/
structure MgmtReq where
  conn : Nat
  op : W16
  zero : W16 := 0
  seq : W32
  p0 : W64 := 0
  p1 : W64 := 0
  p2 : W64 := 0
  p3 : W64 := 0
  p4 : W64 := 0
  p5 : W64 := 0
  p6 : W64 := 0
deriving DecidableEq, Repr

/-- A boot image as the stage before it finds it (26/R456): its digest and whether its signature verifies. -/
structure BootImage where
  digest : Digest
  sigOk : Bool
deriving DecidableEq, Repr

/-- What a request through a peer window asks of the home (18/R415, 07/R163): bytes read or written, atomics of one address in
lane order (operation of 09/R205, type, operand and second operand of each), or operations on one cell in lane order (kind:
0 propose, 1 read, 2 recycle; generation; value). -/
inductive PeerOp where
  | read (len : Nat)
  | write (bytes : List Byte)
  | atomic (op : BitVec 4) (ty : Ty) (xs : List (W64 × W64))
  | cells (ops : List (BitVec 2 × W16 × BitVec 128))
deriving DecidableEq, Repr

/-- What a peer's reservation packet asks (14/R324): wait for the slots, or be refused when they are short (`.nowait`), or, at the
end of the peer's warp, give back what it has not spent. -/
inductive PeerReserve where
  | orWait | orRefuse | giveBack
deriving DecidableEq, Repr

/-- A peer-window request on VC 0 or VC 3 (18/R417): who sent it, its number there, the HBM address and layout attribute
(03/R49 check 6), and the operation. -/
structure PeerReq where
  peer : Nat
  id : Nat
  pa : Nat
  layout : BitVec 2
  op : PeerOp
deriving DecidableEq, Repr

/-- A contribution to a merge round (15/R362-R363, 18/R420). `loc` holds the result address and barrier of the local
contribution. -/
structure Contribution where
  tree : Nat
  round : W32
  k : Nat
  status : W32
  evals : W32
  snap : W32
  /-- (distance, id) -/
  entries : List (W32 × W32)
  /-- the local contribution's kmerge command, none for one that came over the fabric -/
  loc : Option Nat
  /-- the peer it came from, none for the local one -/
  sender : Option Nat
deriving DecidableEq, Repr

/-- One constructor for each row of spec/opcode_table.json: the instructions in the table's order, then the events. -/
inductive Instr where
  | nop (f : Fields)
  | bra (f : Fields)
  | brc (f : Fields)
  | brz (f : Fields)
  | brnz (f : Fields)
  | call (f : Fields)
  | ret (f : Fields)
  | jmpi (f : Fields)
  | regang (f : Fields)
  | exit (f : Fields)
  | yield (f : Fields)
  | trap (f : Fields)
  | brk (f : Fields)
  | waitf (f : Fields)
  | iadd (f : Fields)
  | isub (f : Fields)
  | imul (f : Fields)
  | imulh (f : Fields)
  | imad (f : Fields)
  | imin (f : Fields)
  | imax (f : Fields)
  | iabs (f : Fields)
  | ineg (f : Fields)
  | and (f : Fields)
  | or (f : Fields)
  | xor (f : Fields)
  | andn (f : Fields)
  | shl (f : Fields)
  | shr (f : Fields)
  | sar (f : Fields)
  | rot (f : Fields)
  | rotR (f : Fields)
  | bfx (f : Fields)
  | bfxs (f : Fields)
  | bfi (f : Fields)
  | popc (f : Fields)
  | clz (f : Fields)
  | brev (f : Fields)
  | sel (f : Fields)
  | icmp (f : Fields)
  | mov (f : Fields)
  | movS (f : Fields)
  | movi (f : Fields)
  | moviHi (f : Fields)
  | lea (f : Fields)
  | kand (f : Fields)
  | kor (f : Fields)
  | kxor (f : Fields)
  | knot (f : Fields)
  | kmov (f : Fields)
  | kmovVk (f : Fields)
  | kmovKv (f : Fields)
  | kpop (f : Fields)
  | kfirst (f : Fields)
  | shflIdx (f : Fields)
  | shflUp (f : Fields)
  | shflDown (f : Fields)
  | shflXor (f : Fields)
  | voteAny (f : Fields)
  | voteAll (f : Fields)
  | voteBallot (f : Fields)
  | redux (f : Fields)
  | scan (f : Fields)
  | bcast (f : Fields)
  | bcastS (f : Fields)
  | fadd (f : Fields)
  | fsub (f : Fields)
  | fmul (f : Fields)
  | ffma (f : Fields)
  | fmin (f : Fields)
  | fmax (f : Fields)
  | fcmp (f : Fields)
  | frcp (f : Fields)
  | frsq (f : Fields)
  | fsqrt (f : Fields)
  | fex2 (f : Fields)
  | flg2 (f : Fields)
  | fsin (f : Fields)
  | fcos (f : Fields)
  | ftanh (f : Fields)
  | fsig (f : Fields)
  | hadd2 (f : Fields)
  | hmul2 (f : Fields)
  | hfma2 (f : Fields)
  | cvt (f : Fields)
  | frnd (f : Fields)
  | fclass (f : Fields)
  | fscale (f : Fields)
  | ld (f : Fields)
  | st (f : Fields)
  | lds (f : Fields)
  | sts (f : Fields)
  | atom (f : Fields)
  | red (f : Fields)
  | cellp (f : Fields)
  | cellr (f : Fields)
  | cellc (f : Fields)
  | pref (f : Fields)
  | cclean (f : Fields)
  | cinv (f : Fields)
  | cdisc (f : Fields)
  | sealRange (f : Fields)
  | unsealRange (f : Fields)
  | pin (f : Fields)
  | unpin (f : Fields)
  | cpy (f : Fields)
  | cpyq (f : Fields)
  | chko (f : Fields)
  | chki (f : Fields)
  | chkiDrop (f : Fields)
  | bclose (f : Fields)
  | bwait (f : Fields)
  | decLut (f : Fields)
  | decRle0 (f : Fields)
  | decSp24 (f : Fields)
  | strm (f : Fields)
  | srun (f : Fields)
  | astop (f : Fields)
  | astopAll (f : Fields)
  | amovi (f : Fields)
  | amoviHi (f : Fields)
  | aadd (f : Fields)
  | aloop (f : Fields)
  | abr (f : Fields)
  | mma (f : Fields)
  | zclr (f : Fields)
  | drain (f : Fields)
  | atbl (f : Fields)
  | fmtset (f : Fields)
  | scpreLd (f : Fields)
  | scpreInv (f : Fields)
  | scpreAll (f : Fields)
  | opfence (f : Fields)
  | batonJoin (f : Fields)
  | batonTake (f : Fields)
  | batonPass (f : Fields)
  | fence (f : Fields)
  | fwait (f : Fields)
  | barArv (f : Fields)
  | barWait (f : Fields)
  | barArm (f : Fields)
  | barTst (f : Fields)
  | grow (f : Fields)
  | growTry (f : Fields)
  | shrink (f : Fields)
  | spawn (f : Fields)
  | spawnTry (f : Fields)
  | rsv (f : Fields)
  | rsvTry (f : Fields)
  | enq (f : Fields)
  | deq (f : Fields)
  | deqTry (f : Fields)
  | migrate (f : Fields)
  | routeSet (f : Fields)
  | routeSetFree (f : Fields)
  | routeAdmit (f : Fields)
  | routeAdmitClose (f : Fields)
  | routePop (f : Fields)
  | routeVerd (f : Fields)
  | routeStat (f : Fields)
  | srch (f : Fields)
  | kmerge (f : Fields)
  | nbcall (f : Fields)
  | csrr (f : Fields)
  | csrw (f : Fields)
  | syscall (f : Fields)
  | eret (f : Fields)
  | halt (f : Fields)
  | permit (f : Fields)
  | clkrd (f : Fields)
  | clkrdCore (f : Fields)
  | wnode (f : Fields)
  | wdist (f : Fields)
  | wpush (f : Fields)
  | wbound (f : Fields)
  | wnbr (f : Fields)
  | wseen (f : Fields)
  | wspawn (f : Fields)
  | whop (f : Fields)
  | wend (f : Fields)
  | wmovi (f : Fields)
  | wmoviHi (f : Fields)
  | wadd (f : Fields)
  | wsub (f : Fields)
  | wcmp (f : Fields)
  | wcmpF (f : Fields)
  | wbr (f : Fields)
  | wj (f : Fields)
  | wshr (f : Fields)
  | wand (f : Fields)
  | wld (f : Fields)
  | wcnt (f : Fields)
  | nbrow (f : Fields)
  | nbscale (f : Fields)
  | nbadd (f : Fields)
  | nbfma (f : Fields)
  | nbst (f : Fields)
  | nbloop (f : Fields)
  | nbend (f : Fields)
  | nbsig (f : Fields)
  | nbfmt (f : Fields)
  | nbclr (f : Fields)
  | sealComplete (ctx handle : Nat)
  | memoryResponse (id : Nat)
  | copyEngineFault (cmd : Nat)
  | copyCommandComplete (cmd : Nat)
  | checkoutPieceGrant (piece : Nat)
  | checkinComplete (cmd : Nat)
  | streamEntryIssue (warp queue : Nat)
  | streamEntryPush (warp queue : Nat)
  | accessTrapDeliver (warp : Nat)
  | matrixOpStart (op : Nat)
  | matrixSecondPass (op : Nat)
  | matrixOpComplete (op : Nat)
  | scaleRecordFetch (req : Nat)
  | drainComplete (op : Nat)
  | engineCompletionDelivery (id : Nat)
  | growGrant (core quad : Nat)
  | rsvGrant (id : Nat)
  | enqDelivery (id : Nat)
  | queryInstall (query : Nat)
  | walkerMessageArrive (msg : Nat)
  | heapPushArrive (push : Nat)
  | searchEnd (query : Nat)
  | nbInstanceStart (inst : Nat)
  | cellOpAtHome (id : Nat)
  | warpEnd (warp : Nat)
  | launchComplete (launch : Nat)
  | recordAccept (queue : Nat)
  | blockDispatch (launch : Nat)
  | permitGrant (die : Nat)
  | doorbellWrite (queue : Nat) (wrc : W64)
  | invalidate (ctx : Nat) (arg : BitVec 56) (arg2 : W64)
  | faultDone (ctx : Nat) (arg : BitVec 56) (arg2 : W64)
  | counterSet (ctx : Nat) (arg : BitVec 56) (arg2 : W64)
  | preemptBlock (ctx : Nat) (arg : BitVec 56) (arg2 : W64)
  | switchOut (ctx : Nat) (arg : BitVec 56) (arg2 : W64)
  | switchIn (ctx : Nat) (arg : BitVec 56) (arg2 : W64)
  | restartAfterHalt (ctx : Nat) (arg : BitVec 56) (arg2 : W64)
  | bindQueue (ctx : Nat) (arg : BitVec 56) (arg2 : W64)
  | unbindQueue (ctx : Nat) (arg : BitVec 56) (arg2 : W64)
  | contextMeasurementReport (ctx : Nat) (arg : BitVec 56) (arg2 : W64)
  | illegalInstruction (word : W96)
  | lineEntry
  | compatWritebackCommit
  | layoutFillDone
  | fragmentDetach (warp slice : Nat)
  | agingReserve (launch : Nat)
  | pendingWarpSwap (core quad : Nat)
  | growDeadlockDetect (core : Nat)
  | arbitrationWindowExpiry (chan : Nat)
  | sohornReplayTimeout (port vc : Nat) (seq : Nat)
  | kmergeResendTimer (id : Nat)
  | boundBroadcast (query : Nat)
  | profileChangeEffect (die : Nat)
  | matrixResetComplete (pair : Nat)
  | holdingStoreRetry (die set : Nat)
  | channelAccessServed (chan : Nat)
  | rowStepEnd (chan : Nat)
  | machineCheck (src : McSource) (pa va : Nat) (who : McConsumer)
  | governorRedistribute (die mhz : Nat)
  | dieTemperatureThreshold (die celsius : Nat)
  | overtempReset
  | watchdogReset (pair : Nat)
  | hostRdmaWrite (qp : Nat) (key : W32) (va : W64) (bytes : List Byte)
  | hostRdmaRead (qp : Nat) (key : W32) (va : W64) (len : Nat)
  | hostRdmaAtomic (qp : Nat) (key : W32) (va : W64)
  | congestionNotification (qp : Nat)
  | readRegister (q : MgmtReq)
  | writeRegister (q : MgmtReq)
  | lgrpWrite (q : MgmtReq)
  | lgrpstatWrite (q : MgmtReq)
  | profileWrite (q : MgmtReq)
  | treeWrite (q : MgmtReq)
  | createContext (q : MgmtReq)
  | destroyContext (q : MgmtReq)
  | registerMemoryKey (q : MgmtReq)
  | revokeMemoryKey (q : MgmtReq)
  | registerCellGranule (q : MgmtReq)
  | unregisterCellGranule (q : MgmtReq)
  | measurementReport (q : MgmtReq)
  | setOperatorKey (q : MgmtReq)
  | resetMatrixEngine (q : MgmtReq)
  | managementConnect (conn : Nat) (certDigest : Option Digest)
  | deviceBoot (images : List BootImage)
  | peerRequestArrive (q : PeerReq)
  | peerResponseArrive (id : Nat) (ok : Bool) (data : List Byte)
  | remoteEnqueueArrive (peer id desc : Nat) (ack : Bool) (msg : List Byte)
  | remoteReservationArrive (peer id desc n : Nat) (nowait : PeerReserve)
  | kmergeContributionArrive (k : Contribution)
  | sohornAck (port vc : Nat) (upTo : Nat)
  | sohornNak (port vc : Nat) (first : Nat)
  | peerAckTimeout (peer : Nat)
  | unknownOp (q : MgmtReq)
  | priorityFlowControlPause (port prio : Nat) (pause : Bool)
  | creditReturn (port vc n : Nat)
  | channelAccessArrive (chan pa : Nat)
deriving DecidableEq, Repr

end Sys2Proof
end

