-- ==== Sys2Proof/Machine/State.lean ====
section
/-! DEFINITION. The state of a CLV9400 package as plain data: memory at the homes, caches, contexts, launches, blocks,
warps, engines, base-die units, router, fabric, power and platform. Tables whose reset is empty hold the units that exist
only once something has created them. -/

namespace Sys2Proof.Machine

/-- A condition-code set (00, registers table). -/
structure Cond where
  z : Bool := false
  n : Bool := false
  c : Bool := false
  v : Bool := false
deriving DecidableEq, Repr

/-- Scopes (07/R135). -/
inductive Scope where
  | warp | block | cluster | die | device | system
deriving DecidableEq, Repr

/-- The layout codes of a group (02/R18). -/
inductive Layout where
  | fine | coarse | channelLocal | metadata
deriving DecidableEq, Repr

/-- The unit that issues (the model's own bookkeeping, log 1). -/
inductive Agent where
  | none
  | execute (warp : Nat)
  | access (warp : Nat)
  | walker (id : Nat)
  | bank (inst : Nat)
deriving DecidableEq, Repr

/-- How the last issue ended (the model's own bookkeeping, log 1): its instruction took effect, a trap or a fault with a
record was taken, or the unit waits at it. -/
inductive Issued where
  | retired | trapped | waited
deriving DecidableEq, Repr

/-! ### Warps -/

/-- How a unit came to its slot (08/R168, R170): inside an entered line; by falling through; by a control transfer from a
slot; by the `eret` in a slot; by resumption or because a parted group begins to run there. -/
inductive Entry where
  | inside (line : FetchLine)
  | fall
  | transfer (src : Nat)
  | returned (src : Nat)
  | resume
deriving DecidableEq, Repr

/-- What a PC group waits for. -/
inductive Wait where
  | none
  /-- flags of WAIT or of `waitf` (08/R168, 11/R254) -/
  | flags (mask : BitVec 12)
  /-- an untied copy command (10/R221) -/
  | copy (cmd : Nat)
  /-- a joint operation (13/R284), formed or still to be formed: its number within the quad -/
  | joint (block quad seq : Nat)
  /-- an access answered later: a cell operation or a peer access (09/R202) -/
  | access (id : Nat)
  /-- an untied `nbcall`, `srch`, or `enq.ack` (15/R364, R354, 14/R325) -/
  | nb (cmd : Nat)
  | query (id : Nat)
  | packet (id : Nat)
  /-- the oldest closed batch, at a ninth `bclose` (10/R232) -/
  | batch (num : W16)
  /-- a seal's completion (09/R214) -/
  | seal (ctx handle : Nat)
  /-- a granted reservation (14/R324) -/
  | grant (id : Nat)
  /-- a request of `grow`, of `permit` (06/R128, 15/R366) -/
  | grow
  | permits
  /-- the instruction is executed again when the unit is next chosen -/
  | retry
  /-- the same, as a long-latency stall (16/R385) -/
  | stall
  /-- parked on a fault identifier (03/R55) -/
  | parked (fid : Nat)
  /-- arrived at the join point (06/R120) -/
  | arrived
  /-- waiting at `migrate` for the block's other warps (06/R125) -/
  | migrate
deriving DecidableEq, Repr

/-- The place of a warp, or of a fragment, in its quadrant (06/R110, R122, 16/R385-R386): in the active set or the pending
set, the core clock at which it became ready, and, the model's own, the step after its latest issue (0 before it) and the step
at which it last issued or could not (for R123). -/
structure Place where
  active : Bool := true
  readySince : Nat := 0
  lastIssue : Nat := 0
  since : Nat := 0
  /-- its latest instruction is a `yield` (11/R254) -/
  yields : Bool := false
deriving DecidableEq, Repr

/-- A PC group (06/R117-R122): its slices, linear slot index, entry, wait, and the place of a detached fragment. `ready`: the
instruction that it waits at would go on now. `replay`: fault-buffer lines that its replay may use, PA and data (03/R56).
`part`: slices for which the present `bar.arv` has arrived (14/R317). -/
structure Group where
  slices : BitVec 8
  pc : Nat
  entry : Entry := .resume
  wait : Wait := .none
  frag : Option Place := none
  ready : Bool := true
  replay : List (Nat × VReg) := []
  part : BitVec 8 := 0
deriving DecidableEq, Repr

/-- A parting-stack entry (06/R119). -/
structure PartEntry where
  members : BitVec 8
  arrived : BitVec 8
  join : Nat
  fmts : List W32
  /-- the `regang` that arrived last has `.keep` (06/R120, the model's own) -/
  keep : Bool := false
deriving DecidableEq, Repr

/-- A slice (06/R108): active lanes, s-registers, condition codes, FMT. -/
structure Slice where
  active : BitVec 4
  s : Tab W64 := []
  /-- how many s-register writes it has made, and the number of the latest of each register (the model's own, for 09/R202) -/
  clock : Nat := 0
  stamp : Tab Nat := []
  c : Tab Cond := []
  fmt : W32 := 0
deriving DecidableEq, Repr

/-- State of a stream unit (10/R238). -/
inductive StreamSt where
  | idle | defined | running | closed
deriving DecidableEq, Repr

/-- A stream unit (10/R239-R241). `flight`: entries whose loads have been issued, in order, with their lane values. -/
structure Stream where
  st : StreamSt := .idle
  closing : Bool := false
  record : Nat := 0
  ty : Ty := .u32
  md : BitVec 4 := 0
  laneStride : W32 := 0
  base : W64 := 0
  counts : W64 := 0
  d01 : W64 := 0
  d23 : W64 := 0
  next : Nat := 0
  flight : List VReg := []
  parked : Option Nat := none
deriving DecidableEq, Repr

/-- A data queue (06/R132). -/
structure Queue where
  entries : List VReg := []
  stream : Stream := {}
deriving DecidableEq, Repr

/-- State of an access slice (10/R237, 17/R393). -/
inductive AccSt where
  | absent | running | ended
  | trapped (cause : Nat) (code : Nat)
deriving DecidableEq, Repr

/-- The access slice of a warp (06/R131). -/
structure Access where
  st : AccSt := .absent
  a : Tab W64 := []
  pc : Nat := 0
  entry : Entry := .resume
  wait : Wait := .none
  /-- the instruction that it waits at would go on now (the model's own) -/
  ready : Bool := true
deriving DecidableEq, Repr

/-- An outstanding fence (14/R312-R314): token, kinds, scope, the accesses and engine commands it covers. -/
structure Fence where
  token : W16
  kinds : BitVec 3
  scope : Scope
  accesses : List Nat
  engines : List Nat
  /-- joint operations of the warp below this number, none without the engine kind -/
  quads : Option Nat := none
deriving DecidableEq, Repr

/-- A closed batch (10/R232). -/
structure Batch where
  num : W16
  cmds : List Nat
deriving DecidableEq, Repr

/-- A quad instruction a warp has issued and that is not yet formed (13/R281): its number within the quad, the instruction
and its slot, to which a withdrawn operation resumes (R284). For an `mma`, the warp's eight registers from vA at issue, the
lanes of each written since its latest `opfence`, its register clock, the scratchpad writes before that `opfence` and the
scratchpad clock at the issue (R292). `marks`: registers that hold undefined values until the flag clears, with what they held (register, lane, mark, value). -/
structure QuadIssue where
  seq : Nat
  instr : Instr
  tied : Option Nat
  pc : Nat := 0
  aval : List VReg := []
  abad : List W32 := []
  stamp : Nat := 0
  fenced : Option (Tab Nat) := none
  spadAt : Nat := 0
  marks : List (Nat × Nat × W32 × W32) := []
deriving DecidableEq, Repr

/-- A reservation a warp holds on a message queue, named by the PA of its descriptor (14/R324). -/
structure Resv where
  desc : Nat
  n : Nat
deriving DecidableEq, Repr

/-- A warp (06/R108). -/
structure Warp where
  id : Nat
  block : Nat
  ctx : Nat
  /-- WARPID -/
  idx : Nat
  core : Nat
  quad : Nat
  limit : Nat := 64
  v : Tab VReg := []
  k : Tab W32 := []
  f : Tab Nat := []
  q : Tab Queue := []
  slices : Tab Slice
  groups : List Group
  /-- the slices of the group that the scheduler runs (06/R121) -/
  runs : BitVec 8
  stack : List PartEntry := []
  acc : Access := {}
  /-- the queue whose stream issued an entry last (10/R240, R242) -/
  strQueue : Nat := 7
  tvec : W64 := 0
  tepc : W64 := 0
  tcause : W64 := 0
  tinfo : W64 := 0
  /-- the slices of the group that runs the handler (17/R392) -/
  handler : BitVec 8 := 0
  fenceNo : W16 := 0
  fences : List Fence := []
  batchNo : W16 := 0
  openBatch : List Nat := []
  batches : List Batch := []
  /-- tied `bwait`s that wait: flag and the batches awaited (10/R233) -/
  bwaits : List (Nat × List W16) := []
  resv : List Resv := []
  permits : Nat := 0
  /-- how many register writes it has made, and for each register the numbers of its writes with the lanes that they left (the
  model's own, for 13/R292) -/
  vclock : Nat := 0
  vstamp : Tab (List (Nat × W32)) := []
  /-- its register clock at its latest `opfence`, and the scratchpad writes that came before it: for each writer the number up to
  which -/
  opf : Option (Nat × Tab Nat) := none
  quadSeq : Nat := 0
  quadQ : List QuadIssue := []
  /-- bytes answered by a peer for a load that waits (18/R415): PA and byte -/
  peerGot : List (Nat × Byte) := []
  /-- lanes of a stalled `route.admit` or `route.verd` that the router has taken (14/R340) -/
  routed : W32 := 0
  /-- order of dispatch to the core, counted by the model -/
  age : Nat := 0
  place : Place := {}
  resident : Bool := true
deriving DecidableEq, Repr

/-! ### Blocks, launches, queues -/

/-- A check-out a block holds (10/R230). -/
structure CheckOut where
  handle : Nat
  excl : Bool
  va : Nat
  len : Nat
  off : Nat
  complete : Bool
  /-- the `chko` that made it -/
  cmd : Nat
deriving DecidableEq, Repr

/-- Why a block ended other than by `exit` (16/R372). -/
inductive BlockFail where
  | fault | matrixReset
deriving DecidableEq, Repr

/-- A block (06/R108). `spadF` is the allocation on the follower of a pair-block (04/R74). -/
structure Block where
  id : Nat
  launch : Nat
  ctx : Nat
  idx : Nat
  core : Nat
  pair : Bool := false
  placed : Bool := true
  scr : Nat := 0
  spad : Tab Byte := []
  spadF : Tab Byte := []
  /-- how many scratchpad writes there have been, and for each byte (the follower's at odd keys) the number of its latest write
  and who made it, a warp at 2 × its number or its engines one above (the model's own, for 13/R292) -/
  spadClock : Nat := 0
  spadStamp : Tab (Nat × Nat) := []
  outs : List CheckOut := []
  /-- VA of its staged state slot (16/R382) -/
  slot : Option Nat := none
  fail : Option BlockFail := none
  ended : Bool := false
  /-- its warps have stopped and it is saved once its accesses and started operations are complete (17/R400) -/
  saving : Bool := false
  /-- placed in a deadline slot (16/R381) -/
  slotted : Bool := false
  /-- where its allocation lies in the scratchpad of its core, and in the follower's (04/R73) -/
  base : Nat := 0
  baseF : Nat := 0
deriving DecidableEq, Repr

/-- A kernel as the dispatcher read it (16/R367, 09/R193). -/
structure Kernel where
  entry : Nat
  access : Option Nat := none
  clus : Nat := 0
  scr : Nat := 0
  pair : Bool := false
  maxLimit : Nat := 64
  baton : BitVec 8 := 0
  /-- buffer records, five words each -/
  recs : List (List W64) := []
deriving DecidableEq, Repr

/-- What a block takes up on a core (06/R110, R127, 04/R73): whether its warps are there and in a deadline slot, the quadrants
of its warps with their registers and of its fragments, and its run of scratchpad. -/
structure Foot where
  core : Nat
  there : Bool
  slotted : Bool
  warps : List (Nat × Nat)
  frags : List Nat
  base : Nat
  scr : Nat
deriving DecidableEq, Repr

/-- A launch (16/R368-R374): accepted and not complete. -/
structure Launch where
  id : Nat
  ctx : Nat
  queue : Option Nat
  grid : Nat
  kernel : Kernel
  fuse : Bool := false
  cls : Nat
  nwarp : Nat
  nblk : Nat
  arg : W64 := 0
  wctr : Option Nat := none
  sctr : Option Nat := none
  aff : W64 := 0
  sslot : W64 := 0
  ssoff : Nat := 0
  ssize : Nat := 0
  crep : W64 := 0
  prio : Nat := 0
  deadline : Bool := false
  /-- first TASKID (16/R370) -/
  task : W32 := 0
  ready : Bool := false
  readyAt : Nat := 0
  /-- the die whose freed places it reserves (16/R378) -/
  reserves : Option Nat := none
  /-- what was taken on that die when it began to reserve, and since -/
  shadow : List Foot := []
  /-- the next block to place -/
  next : Nat := 0
  /-- a status decided before any block runs (malformed 2, cannot fit 1, not eligible 6) -/
  status : Option Nat := none
  fails : List (Nat × BlockFail) := []
  endedBlocks : Nat := 0
deriving DecidableEq, Repr

/-- A bound hardware queue (16/R375-R377). -/
structure HwQueue where
  num : Nat
  ctx : Nat
  rbase : Nat
  clog : Nat
  prio : Nat
  dl : Bool
  maxout : Nat
  en : Bool
  rdva : Nat
  rd : W64 := 0
  wrc : W64 := 0
  /-- unbound by command 9: accepts nothing more -/
  unbinding : Bool := false
deriving DecidableEq, Repr

/-- Whose barrier it is (14/R315). -/
inductive BarOwner where
  | warp (id : Nat)
  | block (id : Nat)
  | cluster (launch idx : Nat)
  | grid (launch : Nat)
deriving DecidableEq, Repr

/-- A hardware barrier that has been used (14/R316). Members are slices (warp level) or warps. -/
structure Barrier where
  owner : BarOwner
  idx : Nat
  p : W16 := 0
  arrived : List Nat := []
  /-- slices of a warp that have executed `bar.arv` in the open phase while others have not -/
  part : List (Nat × BitVec 8) := []
  a : Nat := 0
  e : Nat := 0
  nextA : Nat := 0
  /-- phases that engine completions were counted in -/
  eng : List W16 := []
deriving DecidableEq, Repr

/-- An engine completion on its way to a barrier (14/R316, R318). -/
structure Delivery where
  id : Nat
  owner : BarOwner
  idx : Nat
deriving DecidableEq, Repr

/-! ### Contexts -/

/-- A range entry: the four words of 03/R42. -/
structure RangeEntry where
  w0 : W64
  w1 : W64
  w2 : W64
  w3 : W64
deriving DecidableEq, Repr

/-- A translation that a TLB holds (03/R51): context, the page's first VA, its size in bytes, the leaf entry. -/
structure TlbEntry where
  ctx : Nat
  va : Nat
  size : Nat
  leaf : W64
deriving DecidableEq, Repr

/-- A table entry that the walk cache of a compute die holds (03/R51): context, the entry's PA, the entry. -/
structure WalkEntry where
  ctx : Nat
  pa : Nat
  entry : W64
deriving DecidableEq, Repr

/-- A seal (04/R80). -/
structure Seal where
  handle : Nat
  va : Nat
  len : Nat
  complete : Bool
deriving DecidableEq, Repr

/-- A fault that units are parked on (03/R55-R57). -/
structure Parked where
  fid : Nat
  page : Nat
  kind : Nat
deriving DecidableEq, Repr

/-- A context (03/R41, 18/R413). -/
structure Ctx where
  slot : Nat
  cfg : W64
  root : W64
  rng : W64
  fltq : W64
  ranges : List RangeEntry := []
  seals : List Seal := []
  cgFirst : Nat := 0
  cgCount : Nat := 1
  srseed : W32 := 1
  routeseed : W32 := 1
  taskCtr : W32 := 0
  gridCtr : Nat := 0
  cmdCount : W64 := 0
  loaded : Bool := true
  halted : Bool := false
  parked : List Parked := []
  nextFid : Nat := 1
  /-- retention registers that a context save keeps (04/R68): die, number, word -/
  savedRtn : List (Nat × Nat × W64) := []
deriving DecidableEq, Repr

/-- A memory key (18/R409): for a context's window, or for the doorbell window when `slot` is none. -/
structure MemKey where
  key : W32
  slot : Option Nat
  va : Nat
  len : Nat
deriving DecidableEq, Repr

/-! ### Caches -/

/-- A line of an L1 or an L2 (04/R60, R69). `writers`: the warps whose stores made bytes dirty; `fill`: the fill number. -/
structure CacheLine where
  pa : Nat
  data : VReg := 0
  valid : BitVec 128 := 0
  dirty : BitVec 128 := 0
  ef : Bool := false
  rtn : Option Nat := none
  code : Nat := 0
  /-- the mode of the context that last filled or changed it is compatibility (04/R62) -/
  compat : Bool := false
  writers : List Nat := []
  fill : Nat := 0
  /-- the context whose access allocated the line, for its mark (04/R66) -/
  ctx : Nat := 0
deriving DecidableEq, Repr

/-- The latest release of a warp (07/R139, the model's own for R141): its core, and the warps whose earlier stores it orders
before what follows an acquire that sees it: its own and those it had itself seen released. -/
structure Release where
  warp : Nat
  core : Nat
  set : List Nat
deriving DecidableEq, Repr

/-- Stores of other warps that a release at die scope (or, with `home`, at device scope) has ordered before itself: an acquire
of another warp at the scope sees them performed (07/R141, the model's own). -/
structure Owed where
  by_ : Nat
  core : Nat
  home : Bool
  set : List Nat
deriving DecidableEq, Repr

/-- A valid retention register (04/R65). -/
structure Retention where
  die : Nat
  num : Nat
  ctx : Nat
  word : W64
deriving DecidableEq, Repr

/-- A cached copy of a decided cell (07/R160): held in the L1 of a core or the L2 of a die. -/
structure CellCopy where
  core : Option Nat
  die : Nat
  pa : Nat
  gen : W16
  value : BitVec 128
deriving DecidableEq, Repr

/-- A cell (07/R156). -/
structure Cell where
  decided : Bool := false
  gen : W16 := 1
  value : BitVec 128 := 0
deriving DecidableEq, Repr

/-- A compatibility-mode write-back accepted and not yet committed (02/R39): block PA, byte mask, bytes. -/
structure Commit where
  pa : Nat
  mask : BitVec 256
  data : BitVec 2048
deriving DecidableEq, Repr

/-- A line of an LLC slice (02/R27). Its valid bytes are the home's, which `mem` holds; `dirty`: those not yet written to the
bank; `compat`: the context that wrote it last is in compatibility mode (02/R36). -/
structure LlcLine where
  pa : Nat
  valid : BitVec 128 := 0
  dirty : BitVec 128 := 0
  compat : Bool := false
deriving DecidableEq, Repr

/-- A piece of a check-out in a range table (04/R75-R76). -/
structure Piece where
  id : Nat
  base : Nat
  lo : Nat
  hi : Nat
  va : Nat
  excl : Bool
  /-- it has reached the base die's range table -/
  arrived : Bool := false
  held : Bool := false
  block : Nat
  cmd : Nat
deriving DecidableEq, Repr

/-- A fault-buffer entry of a core (03/R55). -/
structure FaultLine where
  core : Nat
  fid : Nat
  ctx : Nat
  pa : Nat
  data : VReg
deriving DecidableEq, Repr

/-! ### Accesses and engines -/

/-- What an outstanding access still has to do when its last answer arrives (08/R169, 09/R202): lane writes (register, lane,
value) and s writes (register, slice, value) with the values that stand there until then, the data registers of a tied
store with their values at issue (register, lane or slice, value), and the bytes it stored (lane or slice, VA or offset, PA;
for a scratchpad 1 for the follower's and 0 for the block's own). -/
structure Outstanding where
  id : Nat
  warp : Nat
  flag : Option Nat
  /-- answers still awaited from peers or from cell homes -/
  need : Nat := 0
  vwrites : List (Nat × Nat × W32) := []
  swrites : List (Nat × Nat × W64) := []
  vmarks : List (Nat × Nat × W32) := []
  smarks : List (Nat × Nat × W64) := []
  data : List (Nat × Nat × Nat) := []
  bytes : List (Nat × Nat × Nat) := []
  scalar : Bool := false
  spad : Bool := false
  acquire : Option Scope := none
  /-- loads (bit 0), stores (bit 1), and the slices of its lanes (14/R313) -/
  kinds : BitVec 2 := 3
  slices : BitVec 8 := 255
  /-- the register clocks of the slices and of the warp at issue, and how a store went out: bypassing the L1, with a release
  (09/R202) -/
  clocks : List Nat := []
  bypass : Bool := false
  release : Option Scope := none
  /-- a tied `dec`: the stream bytes that it reads (of the follower, offset), those that its warp's stores have written since,
  and its form, operand fields, sA and sB (10/R236) -/
  reads : List (Bool × Nat) := []
  spoiled : List (Bool × Nat) := []
  redo : Option (Nat × Fields × W64 × W64) := none
  /-- a `scpre.inv` or `scpre.all` of a pair's leader core: the tensor whose entries it removes, or all (13/R296) -/
  inv : Option (Nat × Option Nat) := none
  /-- a tied `deq`: PA and VA of its queue's descriptor, and sD (14/R326) -/
  deq : Option (Nat × Nat × Nat) := none
  /-- c0 of slices that hold a free value until the answer: slice, mark, what it becomes -/
  conds : List (Nat × Cond × Cond) := []
deriving DecidableEq, Repr

/-- A cell operation on its way to the cell's home (07/R158), in lane order within one instruction: what it asks (0 propose,
1 read, 2 recycle), and the outstanding access it answers with the lane and the first value and the generation register. -/
structure CellOp where
  id : Nat
  pa : Nat
  kind : Nat
  gen : W16
  x : BitVec 128
  out : Nat
  lane : Nat
  d : Nat
  a : Nat
  core : Nat
deriving DecidableEq, Repr

/-- Whether a heavy operation has its permit (16/R387). -/
inductive PermitSt where
  | notNeeded | waiting | held | reserved
deriving DecidableEq, Repr

/-- The operands of a copy command (10/R225-R231). -/
inductive CopyKind where
  | cpy (fsp tsp ef : Bool) (dst src d0 d1 d2 : W64)
  | cpyq (fsp tsp ef : Bool) (org : W64) (src row col : Nat) (ntx nty : Nat)
  /-- `chko`: handle, `.nowait` -/
  | chko (handle : Nat) (nowait : Bool)
  /-- `chki` of the check-out that a `chko` made -/
  | chki (out : Nat) (drop : Bool)
deriving DecidableEq, Repr

/-- A copy command issued and not completed (10/R220-R224). -/
structure CopyCmd where
  id : Nat
  warp : Nat
  block : Nat
  ctx : Nat
  core : Nat
  kind : CopyKind
  flag : Option Nat
  /-- WARPID of the warp that issued it -/
  widx : Nat := 0
  /-- the acquire stamp of its core at issue (07/R146) -/
  acq : Nat := 0
  /-- its batch, once closed -/
  batch : Option W16 := none
  /-- bytes completed (tiles, for `cpyq`) -/
  progress : Nat := 0
  /-- the cause of a check-out fault that it has met -/
  conflict : Option Nat := none
  /-- the faulting FID it pauses on -/
  parked : Option Nat := none
  permit : PermitSt := .notNeeded
  /-- bytes of its source or destination that another agent has written: in scratchpad, of the follower, address -/
  taint : List (Bool × Bool × Nat) := []
  /-- bytes that peers have answered: PA and byte -/
  got : List (Nat × Byte) := []
  /-- writes that peers have not acknowledged -/
  sent : Nat := 0
deriving DecidableEq, Repr

/-- State of a joint operation (13/R306-R307, R462). -/
inductive OpSt where
  | formed | started | secondPass
deriving DecidableEq, Repr

/-- A joint operation formed and not completed (13/R281-R307). The uniform operands are those of quad warp 0 (R282). For each
quad warp in order: flag, slot, A value, its undefined lanes (R292), register clock, marked registers. -/
structure JointOp where
  id : Nat
  block : Nat
  quad : Nat
  pair : Nat
  seq : Nat
  instr : Instr
  warps : List Nat
  flags : List (Option Nat)
  pcs : List Nat := []
  s : Tab W64 := []
  fmt : W32 := 0
  aval : List (List VReg) := []
  abad : List W32 := []
  stamps : List Nat := []
  marks : List (List (Nat × Nat × W32 × W32)) := []
  /-- the operation whose A value it takes: its own, or that of the latch (13/R291) -/
  src : Nat := 0
  /-- scratchpad writes that its warps' `opfence`s cover: for each writer the number up to which; and the number of the latest
  write when the first of them issued it (13/R292) -/
  covered : Option (Tab Nat) := none
  spadAt : Nat := 0
  /-- it drains a tile while an `mma` to the tile is in flight (07/R150) -/
  early : Bool := false
  st : OpSt := .formed
  /-- clk of the leader core when it started (17/R404) -/
  since : Nat := 0
  permit : PermitSt := .notNeeded
  parked : Option Nat := none
  /-- scale-cache entries in use: core, tensor, block, record -/
  recs : List (Nat × Nat × Nat × W32) := []
  /-- records of its first pass, no longer in use (13/R462) -/
  recs1 : List (Nat × Nat × Nat × W32) := []
  /-- a check of 13/R283 that it has failed, while the fault queue is full -/
  cause : Option Nat := none
  /-- the baton has changed hands since it was formed (13/R310) -/
  past : Bool := false
  /-- side-list bytes read: VA and byte -/
  side : List (Nat × Byte) := []
  /-- a started drain to memory: VA, PA and length of the parts of its rows, as translated at its start (13/R304) -/
  dst : List (Nat × Nat × Nat) := []
deriving DecidableEq, Repr

/-- The reuse latch of a pair (13/R291): quad, AF, A field, and the A value with the operation that loaded it. -/
structure Latch where
  block : Nat
  quad : Nat
  af : Nat
  afield : Nat
  aval : List (List VReg)
  abad : List W32
  src : Nat
deriving DecidableEq, Repr

/-- Matrix state of a pair (13/R299, R300, R309, 17/R404). Ring members are (block, quad), the holder first. -/
structure Pair where
  ring : List (Nat × Nat) := []
  /-- activation slots, 264 bytes each -/
  atbl : Tab (List Byte) := []
  latch : Option Latch := none
  resetting : Bool := false
deriving DecidableEq, Repr

/-- What a save keeps of a pair when its last pair-block leaves it (13/R308, 17/R400): the tiles by their keys, and the ring
and activation slots. -/
structure SavedPair where
  pair : Nat
  ctx : Nat
  tiles : List (Nat × Tile)
  state : Pair
deriving DecidableEq, Repr

/-- A scale-cache entry (13/R294). -/
structure ScaleEntry where
  tid : Nat
  blk : Nat
  record : W32
deriving DecidableEq, Repr

/-- A scale-cache fetch that is wanted (13/R295-R296): core, tensor, block, the context and launch whose records name SB,
the outstanding `scpre.ld` that wants it, if one does, and the FID it is parked on. -/
structure ScaleReq where
  id : Nat
  core : Nat
  ctx : Nat
  launch : Nat
  tid : Nat
  blk : Nat
  out : Option Nat
  /-- the warp and the slices of the group whose load asks for it, if one does -/
  asker : Option (Nat × BitVec 8) := none
  parked : Option Nat := none
deriving DecidableEq, Repr

/-- An `nbcall` command (15/R364). -/
structure NbCmd where
  id : Nat
  ctx : Nat
  warp : Nat
  block : Nat
  core : Nat
  flag : Option Nat
  /-- none with `.nobar` -/
  bar : Option (BarOwner × Nat)
  prog : Nat
  loops : Nat
  /-- VA and number of its frames -/
  va : Nat
  frames : Nat
  /-- IDS of the issuing warp -/
  ids : W64
  permit : PermitSt := .waiting
deriving DecidableEq, Repr

/-- A bank microprogram instance (15/R365, 17/R402). `pages`: the PAs of its frame's 4 KiB pages, as translated at issue. -/
structure NbInst where
  id : Nat
  cmd : Nat
  ctx : Nat
  chan : Nat
  pages : List Nat
  frameIdx : Nat
  started : Bool := false
  /-- a context save holds it (17/R401) -/
  saved : Bool := false
  /-- the lines read at its start, their PAs, and those whose read met an error -/
  lines : List FetchLine := []
  linePas : List Nat := []
  bad : List (Nat × McSource) := []
  pc : Nat := 0
  entry : Entry := .resume
  i : Nat := 0
  b : Tab Row := []
  fmt : Nat := 0
  rowSteps : Nat := 0
  /-- a row step is in progress -/
  inStep : Bool := false
  suspended : Bool := false
deriving DecidableEq, Repr

/-- A channel controller while ordinary accesses wait (17/R402, 23/R434): waiting line PAs in arrival order, the one
taken up, whether the window has passed, whether a row step is owed, open rows (bank, row). -/
structure Chan where
  chan : Nat
  waiting : List Nat := []
  serving : Option Nat := none
  windowPassed : Bool := false
  owesStep : Bool := false
  openRows : List (Nat × Nat) := []
deriving DecidableEq, Repr

/-! ### Searches -/

/-- A search (15/R353-R358): an entry of the query table of every base die that MAP names. The PAs of the pages of its query,
descriptor and result are those of its issue (15/R348). -/
structure Query where
  id : Nat
  ctx : Nat
  warp : Nat
  block : Nat
  core : Nat
  flag : Option Nat
  noprune : Bool
  qva : Nat
  qpas : List Nat
  dva : Nat
  dpas : List Nat
  k : Nat
  snap : W32
  resva : Nat
  rpas : List Nat
  owner : BarOwner
  bar : Nat
  prog : Nat
  budget : Nat
  /-- word 2 of the descriptor as read at issue -/
  word2 : W64
  /-- IDS of the issuing warp -/
  ids : W64
  permit : PermitSt := .waiting
  installed : Bool := false
  desc : List W64 := []
  qvec : List Byte := []
  /-- the lines copied, their PAs, and those whose read met an error -/
  lines : List FetchLine := []
  linePas : List Nat := []
  bad : List Nat := []
  home : Nat := 0
  /-- (distance encoding, id), ordered -/
  heap : List (W32 × W32) := []
  evals : Nat := 0
  status : BitVec 7 := 0
  /-- set nodes of the visited filter: (base die, node), and the base dies whose filter has overflowed -/
  seen : List (Nat × W32) := []
  full : List Nat := []
  /-- cached bound of each base die -/
  bounds : Tab (Option W64) := []
  /-- the budget has ended it -/
  ended : Bool := false
deriving DecidableEq, Repr

/-- A walker (15/R359). -/
structure Walker where
  id : Nat
  query : Nat
  base : Nat
  w : Tab W64 := []
  pc : Nat
  entry : Entry := .resume
  flags : Cond := {}
  node : Option W32 := none
  hops : Nat := 0
deriving DecidableEq, Repr

/-- A hop or spawn message (15/R361). -/
structure WalkerMsg where
  id : Nat
  query : Nat
  spawn : Bool
  base : Nat
  node : W64
  regs : List W64
  pc : Nat
  hops : Nat
deriving DecidableEq, Repr

/-- A heap push in flight (15/R355, R360). -/
structure Push where
  id : Nat
  query : Nat
  dist : W32
  node : W32
deriving DecidableEq, Repr

/-! ### Router, message queues, merge tree -/

/-- A ring of a stage set (14/R330, R463): capacity, the PAs of its 4 KiB pages, the slots that hold waiting records in
queue order, and the slots in use (waiting, or popped without a verdict). -/
structure Ring where
  cap : Nat := 0
  pages : List Nat := []
  waiting : List Nat := []
  used : List Nat := []
deriving DecidableEq, Repr

/-- A stage (14/R332, R338-R339). -/
structure Stage where
  eff : Bool := false
  eord : Nat := 0
  p : Nat := 32768
  c : Nat := 1
  /-- verdicts, passes and total clk of the open window -/
  wn : Nat := 0
  wpass : Nat := 0
  wtotal : Nat := 0
deriving DecidableEq, Repr

/-- State of a stage set (14/R334). -/
inductive SetSt where
  | opened | closed
deriving DecidableEq, Repr

/-- Where a record in the holding store is to go (14/R340-R341, R344). -/
inductive HoldDest where
  | route | drop | fault
deriving DecidableEq, Repr

/-- A stage set taken on a die's router (14/R330-R347). Rings: stages, then sink, drop and fault. -/
structure StageSet where
  die : Nat
  num : Nat
  ctx : Nat
  nwin : Nat
  dropq : Bool
  ord : Bool
  stages : List Stage
  rings : List Ring
  sink : Ring
  drop : Ring
  fault : Ring
  lfsr : W32
  st : SetSt := .opened
  seq : W32 := 0
  next : W32 := 0
  admitted : Nat := 0
  /-- records in the holding store, arrival order -/
  holding : List (HoldDest × List Byte) := []
  /-- early records of an ordered sink: (SEQ, record) -/
  reorder : List (W32 × List Byte) := []
  /-- SEQs above NEXT that are resolved -/
  resolved : List W32 := []
  /-- a context save holds it, and its number and queues are free for others (14/R347) -/
  saved : Bool := false
deriving DecidableEq, Repr

/-- A record popped without a verdict (14/R335): the router's place, its set, stage, slot, and the holding block. -/
structure HeldRec where
  die : Nat
  place : Nat
  set : Nat
  stage : Nat
  slot : Nat
  ctx : Nat
  block : Nat
  poppedAt : Nat
  /-- its ticket carries RETRY, so that its verdict is not counted (14/R344) -/
  retry : Bool := false
deriving DecidableEq, Repr

/-- A record returned to its queue under 14/R344 whose next ticket carries RETRY. -/
structure RetryMark where
  die : Nat
  set : Nat
  ctx : Nat
  stage : Nat
  slot : Nat
deriving DecidableEq, Repr

/-- A reservation waiting at a message queue's home (14/R324, 18/R418); `va`: where its warp named the descriptor. -/
structure RsvWait where
  id : Nat
  desc : Nat
  va : Nat := 0
  n : Nat
  warp : Option Nat
  peer : Option (Nat × Nat)
deriving DecidableEq, Repr

/-- An enqueue packet on its way (14/R325). -/
structure EnqPkt where
  id : Nat
  desc : Nat
  /-- where its warp named the descriptor -/
  va : Nat := 0
  ctx : Option Nat
  msg : List Byte
  warp : Nat
  block : Nat
  flag : Option Nat
  ack : Bool
deriving DecidableEq, Repr

/-- A `kmerge` command at its own package (15/R362). -/
structure KmCmd where
  id : Nat
  ctx : Nat
  resva : Nat
  rpas : List Nat
  owner : BarOwner
  bar : Nat
  k : Nat
deriving DecidableEq, Repr

/-- A tree of the merge unit (18/R419-R420): TREEn and the closed rounds after LASTR. -/
structure Tree where
  word : W64 := 0x00000000FFFFFFFF
  closed : List W32 := []
deriving DecidableEq, Repr

/-- An open round (18/R420). -/
structure Round where
  tree : Nat
  round : W32
  parts : List Contribution
deriving DecidableEq, Repr

/-- A refused contribution that its sender will resend (18/R420). -/
structure Resend where
  id : Nat
  k : Contribution
deriving DecidableEq, Repr

/-- A contribution in flight inside the package from `kmerge` to the merge unit (15/R362). -/
structure KmFlight where
  id : Nat
  k : Contribution
deriving DecidableEq, Repr

/-- What the device sends out (log 11): RDMA answers, management responses and reports, fabric traffic. -/
inductive Output where
  | rdmaAck (qp : Nat)
  | rdmaNak (qp : Nat) (invalidRequest : Bool)
  | rdmaData (qp : Nat) (data : List Byte)
  | mgmt (conn : Nat) (status : W16) (seq : W32) (v0 : W64)
  | report (conn : Nat) (data : List Byte)
  | peerRequest (q : PeerReq)
  | peerResponse (peer id : Nat) (ok : Bool) (data : List Byte)
  | peerReserve (peer id desc n : Nat) (nowait : Bool)
  | peerEnqueue (peer id desc : Nat) (ack : Bool) (msg : List Byte)
  | peerReturn (peer desc n : Nat)
  | merge (parent : Nat) (k : Contribution)
  | mergeNak (peer : Nat) (k : Contribution)
  | machineCheckLog (pa : Nat)
deriving DecidableEq, Repr

/-- A packet of a Sohorn hop (18/R416): sequence number and what it carries. -/
structure HopPkt where
  seq : Nat
  body : Output
deriving DecidableEq, Repr

/-- A hop's virtual channel (18/R416-R417): replay buffer, next sequence number, credits, packets waiting for credit. -/
structure Hop where
  port : Nat
  vc : Nat
  buffer : List HopPkt := []
  nextSeq : Nat := 0
  credits : Nat := 0
  waiting : List Output := []
deriving DecidableEq, Repr

/-- A request sent through a peer window and not answered (18/R415): the outstanding access it answers with the lanes or
slices and the destination registers (for an atomic `a` is 1 if the old values are returned), or the warp's load, the copy command or another unit that waits for its bytes. -/
structure PeerOut where
  id : Nat
  peer : Nat
  pa : Nat
  warp : Option Nat := none
  cmd : Option Nat := none
  unit : Option Nat := none
  out : Option Nat := none
  lanes : List Nat := []
  d : Nat := 0
  a : Nat := 0
  scalar : Bool := false
  /-- VA of its first byte, and the entry and walk level that translated it -/
  va : Nat := 0
  entry : W64 := 0
  level : Nat := 7
  op : PeerOp
deriving DecidableEq, Repr

/-! ### Power, platform, outputs -/

/-- Who asks for permits (16/R387): an operation, or a group of a warp with `permit`. -/
inductive PermOwner where
  | joint (id : Nat)
  | nb (id : Nat)
  | query (id : Nat)
  | copy (id : Nat)
  | warp (id : Nat) (slices : BitVec 8)
deriving DecidableEq, Repr

/-- A waiting permit request (16/R387): who, how many, and whether its block is of the deadline class. -/
structure PermReq where
  owner : PermOwner
  n : Nat
  deadline : Bool
deriving DecidableEq, Repr

/-- The governor and clock of a compute die (26/R448-R452). -/
structure Die where
  profile : Nat := 0
  clkMhz : Nat := 1900
  hot : Bool := false
  out : Nat := 0
  waiting : List PermReq := []
  /-- more permits were outstanding than a new profile allows, and none is granted until fewer are (26/R451) -/
  above : Bool := false
deriving DecidableEq, Repr

/-- A waiting `grow` (06/R128): the warp, the slices of its group, and the limit asked for. -/
structure GrowReq where
  warp : Nat
  slices : BitVec 8
  limit : Nat
deriving DecidableEq, Repr

/-- Reasons the machine stops with a fault. The device's own faults and traps are not here: they write records, take
handlers or kill blocks, and the machine goes on. -/
inductive Fault where
  /-- Raised by every instruction meaning when no unit of its stream is issuing (`cur` names none): a state that no run
  reaches. Safe. -/
  | noIssuer
deriving DecidableEq, Repr

/-- Reasons an instruction has no meaning. -/
inductive Refusal where
  /-- Raised by `exec` for a row that has no meaning yet. Safe. -/
  | notModelled (mnemonic : String)
deriving DecidableEq, Repr

/-- The package. -/
structure State where
  -- home memory and base dies
  /-- each byte as its home gives it: the LLC's where the LLC holds the byte, else the bank's -/
  mem : Tab Byte := []
  /-- the bytes of the banks that differ from the home's (02/R27, R39) -/
  stale : Tab (Option Byte) := []
  /-- LLC sets, least recently used first (02/R27) -/
  llc : Tab (List LlcLine) := []
  /-- blocks whose counts the metadata cache of a base die holds, most recent first (02/R37) -/
  mdc : Tab (List Nat) := []
  poison : List Nat := []
  lgrp : Tab W64 := []
  fillQueue : List Nat := []
  filled : List Nat := []
  mderr : Bool := false
  /-- a layout change has come to its end, so that BUSYG is not valid any more (02/R18) -/
  busygOpen : Bool := false
  counts : Tab (BitVec 4) := []
  commits : List Commit := []
  granules : List Nat := []
  cells : Tab Cell := []
  pieces : List Piece := []
  nbarb : Tab (BitVec 13) := []
  chans : List Chan := []
  -- caches and translation
  l1 : Tab (List CacheLine) := []
  l2 : Tab (List CacheLine) := []
  fillNo : Nat := 0
  acq : Tab Nat := []
  /-- for each warp, the warps whose stores it has seen released and that are not all performed; the latest releases; what is
  owed to acquires (the model's own, for 07/R141) -/
  hb : Tab (List Nat) := []
  rels : List Release := []
  owed : List Owed := []
  /-- scratchpad writes of a pair-block that its warps have released, and those that a warp has seen released: for each writer the
  number up to which (the model's own, for 13/R292) -/
  spadRel : Tab (Tab Nat) := []
  spadSeen : Tab (Tab Nat) := []
  cellCopies : List CellCopy := []
  rtn : List Retention := []
  l2cnt : Tab W64 := []
  /-- TLBs of the quadrants, by core × 4 + quadrant, 64 entries each; sets of the core TLBs, by core × 256 + set, 8 entries each;
  the walk caches of the compute dies, 4,096 entries each (03/R51) -/
  quadTlb : Tab (List TlbEntry) := []
  coreTlb : Tab (List TlbEntry) := []
  walkCache : Tab (List WalkEntry) := []
  fused : List Nat := []
  fbuf : List FaultLine := []
  -- contexts
  ctxs : List Ctx := []
  counters : Tab W32 := []
  keys : List MemKey := []
  -- launches and blocks
  queues : List HwQueue := []
  launches : List Launch := []
  blocks : List Block := []
  bars : List Barrier := []
  deliveries : List Delivery := []
  prevPlace : Nat := 383
  prioShift : Nat := 20
  dlres : Nat := 0
  dlscr : Nat := 0
  -- warps
  warps : List Warp := []
  growWait : List GrowReq := []
  growClk : Tab Nat := []
  /-- for each core, the warp whose access slice, and the warp whose stream, issued last (06/R131, 10/R240) -/
  accTurn : Tab Nat := []
  strTurn : Tab Nat := []
  outs : List Outstanding := []
  cellOps : List CellOp := []
  -- cores and pairs
  lfsr : Tab (Option W32) := []
  scale : Tab (List ScaleEntry) := []
  scaleReqs : List ScaleReq := []
  z : Tab Tile := []
  pairs : Tab Pair := []
  savedPairs : List SavedPair := []
  ops : List JointOp := []
  -- engines
  cmds : List CopyCmd := []
  nbcmds : List NbCmd := []
  insts : List NbInst := []
  queries : List Query := []
  walkers : List Walker := []
  msgs : List WalkerMsg := []
  pushes : List Push := []
  -- router, message queues, merge
  sets : List StageSet := []
  held : List HeldRec := []
  retries : List RetryMark := []
  mqStopped : List Nat := []
  /-- for each message queue used, what its home left in words 2-4 of its descriptor (the model's own, for 14/R323) -/
  queueLeft : List (Nat × List W64) := []
  rsvWaits : List RsvWait := []
  packets : List EnqPkt := []
  kmcmds : List KmCmd := []
  kmflight : List KmFlight := []
  trees : Tab Tree := []
  rounds : List Round := []
  resends : List Resend := []
  peers : Tab W64 := []
  silent : List Nat := []
  peerOuts : List PeerOut := []
  unitGot : List (Nat × Nat × Byte) := []
  hops : List Hop := []
  fabpfx : W64 := 0
  fabcfg : W64 := 0
  -- power, platform, host
  dies : Tab Die := []
  profile : Nat := 0
  mr : Tab Digest := []
  recovery : Bool := false
  boots : W32 := 0
  reports : W64 := 0
  opKey : Option Digest := none
  /-- open management connections and the digest of their client certificate's key (26/R453) -/
  conns : List (Nat × Option Digest) := []
  paused : List (Nat × Nat) := []
  rates : Tab Nat := []
  now : Nat := 0
  /-- clk cycles counted outside the cores: by the dispatcher (16/R378, R388) and the routers (14/R339) -/
  clk : Nat := 0
  coreClk : Tab Nat := []
  -- the model's own fields
  inputs : List Instr := []
  out : List Output := []
  /-- the input performed could not complete and stays among the inputs (log 1) -/
  deferred : Bool := false
  cur : Agent := .none
  last : Issued := .retired
  /-- the warp as it stood before a pair issued, and the queues its first operation popped (08/R180-R181) -/
  view : Option Warp := none
  popped : List Nat := []
  nextId : Nat := 0
  free : Nat := 0
  choice : Nat := 0
deriving DecidableEq, Repr

/-- The machine right after reset: the defaults above, each the reset value its rule gives, or the one its log entry names
(INVENTORY.md, State). -/
def State.reset : State := {}

end Sys2Proof.Machine
end

