-- ==== Sys2Proof/Machine/Flags.lean ====
section
/-! DEFINITION. Condition codes: the conditions of `brc` and `wbr` (11/R250), the flags of the scalar `icmp` (R259) and
`fcmp` (12/R272), and the comparisons of their vector forms. -/

namespace Sys2Proof.Machine

/-- The condition of a SUB code on a condition-code set (11/R250); code 15 is reserved and never reaches here. -/
def Cond.holds (c : Cond) (code : Nat) : Bool :=
  match code with
  | 0 => c.z
  | 1 => !c.z
  | 2 => c.c
  | 3 => !c.c
  | 4 => c.n
  | 5 => !c.n
  | 6 => c.v
  | 7 => !c.v
  | 8 => c.c && !c.z
  | 9 => !c.c || c.z
  | 10 => c.n == c.v
  | 11 => c.n != c.v
  | 12 => !c.z && c.n == c.v
  | 13 => c.z || c.n != c.v
  | _ => true

/-- The flags of x − y in a width (11/R259). -/
def subFlags (w : Nat) (x y : Nat) : Cond :=
  let a := x % 2 ^ w
  let b := y % 2 ^ w
  let r := (a + 2 ^ w - b) % 2 ^ w
  let d := sextNat w a - sextNat w b
  { z := r == 0, n := r.testBit (w - 1), c := decide (b ≤ a), v := decide (sextNat w r ≠ d) }

/-- The flags of a floating-point comparison (12/R272). -/
def fcmpFlags (x y : Val) : Cond :=
  match cmpVal x y with
  | some .lt => { n := true }
  | some .eq => { z := true, c := true }
  | some .gt => { c := true }
  | none => { c := true, v := true }

/-- The comparison of the vector `icmp` (11/R259). -/
def icmpHolds (code : Nat) (x y : Int) : Bool :=
  match code with
  | 0 => x == y
  | 1 => x != y
  | 2 => decide (x < y)
  | 3 => decide (x ≤ y)
  | 4 => decide (y < x)
  | _ => decide (y ≤ x)

/-- The comparison of the vector `fcmp` (12/R272). -/
def fcmpHolds (code : Nat) (x y : Val) : Bool :=
  match code, cmpVal x y with
  | 0, r => r == some .eq
  | 1, r => r != some .eq
  | 2, r => r == some .lt
  | 3, r => r == some .lt || r == some .eq
  | 4, r => r == some .gt
  | 5, r => r == some .gt || r == some .eq
  | 6, r => r.isNone
  | _, r => r.isSome

end Sys2Proof.Machine
end

