-- ==== Sys2Proof/Machine/Forms.lean ====
section
/-! DEFINITION. The legal forms of every instruction: the fields, types, modifiers, operand kinds and register spaces that
08/R173-R187 and each chapter's field rules allow. -/

namespace Sys2Proof.Machine

/-- The four instruction streams (08/R186). -/
inductive StreamKind where
  | execute | access | walker | bank
deriving DecidableEq, Repr

/-- What a register field holds when its operand kind is register (08/R174, R182). -/
inductive Use where
  | zero | v | s
  /-- v with SC = 0, s with SC = 1 -/
  | r
  | k
  /-- a mask destination: k1-k7 (11/R246) -/
  | kd
  | c | q | z | a | w | b
  /-- a record number or a control field, checked by the form itself -/
  | any
deriving DecidableEq, Repr

/-- Whether D is written, read, or both (08/R180 counts vector sources and destinations). -/
inductive Role where
  | dst | src | both
deriving DecidableEq, Repr

/-- A legal form. -/
structure Form where
  stream : StreamKind := .execute
  /-- types with SC = 0 and with SC = 1; an empty list excludes that form -/
  vecTy : List Ty := []
  scTy : List Ty := []
  sub : Fields → Bool := fun f => f.sub == 0
  md : Fields → Bool := fun f => f.md == 0
  imm : Fields → Bool := fun f => f.bk == .imm || f.imm == 0
  /-- what remains -/
  more : Fields → Bool := fun _ => true
  aks : List AKind := [.reg]
  bks : List BKind := [.reg]
  /-- KM and KN may be set -/
  pred : Bool := false
  /-- CF may be set (08/R169) -/
  tie : Bool := false
  ru : Bool := false
  d : Use := .zero
  a : Use := .zero
  b : Use := .zero
  c : Use := .zero
  dRole : Role := .dst
  /-- highest register that D and A name when they name a run of registers -/
  dTop : Fields → Nat := fun f => f.d.toNat
  aTop : Fields → Nat := fun f => f.a.toNat
  /-- may stand in a pair; is a memory operation; is a special function (08/R180) -/
  pairs : Bool := false
  mem : Bool := false
  special : Bool := false
  /-- LANEID may stand in the scalar form (12/R265) -/
  laneId : Bool := false

/-- Types whose value fills 32 bits. -/
def ty32 : List Ty := [.u32, .s32, .f32, .f16x2, .bf16x2, .u16x2, .s16x2, .u8x4, .s8x4, .b32]

/-- The 64-bit types. -/
def ty64 : List Ty := [.u64, .s64, .b64]

/-- Special operand numbers (06/R124). -/
def specialNumber (n : Nat) : Bool := n ≤ 8 || (0x10 ≤ n && n ≤ 0x13)

/-- Scope codes (07/R135): 6 and 7 are illegal. -/
def scopeCode (n : Nat) : Bool := n ≤ 5

/-- Whether a register number lies in the space of its use (08/R182). -/
def Use.holds (u : Use) (sc : Bool) (x : Nat) : Bool :=
  match u with
  | .zero => x == 0
  | .v => true
  | .s => x < 64
  | .r => !sc || x < 64
  | .k => x < 8
  | .kd => 1 ≤ x && x < 8
  | .c => x < 4
  | .q => x < 8
  | .z => x < 4
  | .a => x < 16
  | .w => x < 16
  | .b => x < 8
  | .any => true

/-- Operand A under its kind (08/R174; a per-lane special is illegal in the scalar form of an integer instruction, 11/R245). -/
def aHolds (F : Form) (f : Fields) : Bool :=
  match f.ak with
  | .reg => F.a.holds f.sc f.a.toNat
  | .queue => f.a.toNat < 8
  | .special => specialNumber f.a.toNat && !(f.sc && f.a == 0 && !F.laneId)

/-- Operand B under its kind (08/R174-R175). -/
def bHolds (F : Form) (f : Fields) : Bool :=
  match f.bk with
  | .reg => F.b.holds f.sc f.b.toNat
  | .imm => f.b == 0
  | .queue => f.b.toNat < 8
  | .special => specialNumber f.b.toNat && !(f.sc && f.b == 0 && !F.laneId)

/-- Steps 2 to 4 of 08/R187. -/
def Form.legal (F : Form) (f : Fields) : Bool :=
  F.sub f && (if f.sc then F.scTy else F.vecTy).contains f.ty && F.md f && F.aks.contains f.ak && F.bks.contains f.bk
    && F.imm f && (F.tie || f.cf == .none) && (F.ru || !f.ru) && (F.pred || (f.km == 0 && !f.kn))
    && F.d.holds f.sc f.d.toNat && aHolds F f && bHolds F f && F.c.holds f.sc f.c.toNat && F.more f

/-- Low bits of the immediate. -/
def immLow (f : Fields) (n : Nat) : Nat := f.imm.toNat % 2 ^ n

/-- The immediate fits in `n` bits. -/
def immFits (n : Nat) (f : Fields) : Bool := f.imm.toNat < 2 ^ n

def anyImm : Fields → Bool := fun _ => true

/-! ### Families -/

def fControl : Form := { vecTy := [.u32] }

def fInt (tv ts : List Ty) : Form :=
  { vecTy := tv, scTy := ts, aks := [.reg, .queue, .special], bks := [.reg, .imm, .queue, .special], pred := true
    d := .r, a := .r, b := .r, pairs := true }

def fUnary (tv ts : List Ty) : Form :=
  { vecTy := tv, scTy := ts, aks := [.reg, .queue, .special], pred := true, d := .r, a := .r, pairs := true }

/-- MD holds nothing but `.sat`. -/
def mdSat : Fields → Bool := fun f => f.md &&& 0xB == 0

def tyI : List Ty := [.u32, .s32, .u16x2, .s16x2, .u8x4, .s8x4]

def fMask : Form :=
  { vecTy := [.mask], bks := [.reg, .imm], pred := true, d := .kd, a := .k, b := .k, pairs := true }

def fCross : Form :=
  { vecTy := [.b32], aks := [.reg, .queue, .special], pred := true, d := .v, a := .v, pairs := true }

def fFloat : Form :=
  { fInt [.f32] [.f32] with md := fun _ => true, laneId := true }

def fSpecialFn : Form := { fUnary [.f32] [.f32] with md := fun _ => true, special := true, laneId := true }

/-- `ld`, `st`, `lds`, `sts` (09/R198): `ord` is the one order code that may stand in MD[57:56]. -/
def fMem (ord : Nat) (rec : Bool) : Form :=
  { vecTy := ty32, scTy := ty32 ++ ty64,
    sub := fun f => if bits f.md 1 0 = 0 then f.sub == 0 else scopeCode f.sub.toNat,
    md := fun f => (bits f.md 1 0 == 0 || bits f.md 1 0 == ord) && (rec || bits f.md 3 2 == 0),
    imm := anyImm, bks := [.reg, .queue, .special], pred := true, tie := true,
    d := .r, a := if rec then .any else .zero, b := .r, c := .s, dRole := if ord = 1 then .dst else .src,
    pairs := true, mem := true }

/-- Types of an atomic operation (09/R205). -/
def atomTypes (sc : Bool) (sub : Nat) : List Ty :=
  if sub ≤ 2 then [.u32, .s32, .f32, .f16x2, .bf16x2] ++ (if sc then [.u64, .s64] else [])
  else if sub ≤ 7 then [.b32] ++ (if sc then [.b64] else [])
  else []

def fAtom (red : Bool) : Form :=
  { vecTy := [.u32, .s32, .f32, .f16x2, .bf16x2, .b32], scTy := [.u32, .s32, .f32, .f16x2, .bf16x2, .b32] ++ ty64,
    sub := fun f => f.sub.toNat ≤ (if red then 5 else 7) && (atomTypes f.sc f.sub.toNat).contains f.ty,
    md := fun f => bits f.md 3 2 == 0 && (!red || bits f.md 0 0 == 0),
    imm := anyImm, bks := [.reg, .queue, .special], pred := true, tie := true,
    d := .r, a := .any, b := .r, c := .s, dRole := if red then .src else .both,
    more := fun f => scopeCode (bits f.a 2 0) && bits f.a 7 4 == 0
      && (f.sub != 7 || (f.d.toNat % 2 == 0 && (!f.sc || f.d.toNat ≤ 62))),
    dTop := fun f => if f.sub = 7 then f.d.toNat + 1 else f.d.toNat,
    pairs := true, mem := true }

def fCell (role : Role) : Form :=
  { vecTy := [.b32], imm := anyImm, bks := [.reg, .queue, .special], pred := true, tie := true,
    d := .v, a := .v, b := .v, c := .s, more := fun f => f.d.toNat % 4 == 0, dTop := fun f => f.d.toNat + 3,
    dRole := role, pairs := true, mem := true }

/-- The group instructions 0x6A-0x70 (09/R211). They have no vector form, so none can be paired (08/R180). -/
def fGroup : Form := { scTy := [.u64], pred := true }

def fCopy : Form := { scTy := [.u32] }

def fAccess : Form := { stream := .access, vecTy := [.u32] }

def fSync : Form := { scTy := [.u32], a := .s }

/-- An immediate operand written with BK = 1. -/
def fSyncImm : Form := { scTy := [.u32], bks := [.imm] }

/-- A barrier name's fixed checks (14/R315, R320). -/
def barName (n : Nat) : Bool :=
  n < 0x400 && n % 256 < 16 &&
    (match n / 256 with | 0 => n % 16 < 4 | 1 => true | 2 => n % 16 < 8 | _ => n % 16 < 4)

def fBar : Form := { fSyncImm with imm := fun f => barName f.imm.toNat }

/-- Limits that `grow` and `shrink` name (14/R321). -/
def limitValue (n : Nat) : Bool := [64, 96, 128, 160, 192, 224, 256].contains n

def fWalk : Form := { stream := .walker, vecTy := [.u32] }

def fBank : Form := { stream := .bank, vecTy := [.u32] }

/-- CSR numbers that name a register `csrr` can read (08/R183 and the chapters it names). -/
def csrKnown (n : Nat) : Bool :=
  [0x010, 0x011, 0x012, 0x013, 0x014, 0x0C0, 0x0C1, 0x0C2, 0x0C3, 0x0D0, 0x0D1, 0x0D2, 0x0D3, 0x0D4, 0x0D5, 0x0D6, 0x0D7, 0x0D8, 0x0D9, 0x0E0,
    0x100, 0x101, 0x200, 0x300, 0x301].contains n

/-- CSR numbers with an RW field (15/R366). -/
def csrWritable (n : Nat) : Bool := [0x010, 0x011, 0x012, 0x0D9, 0x0E0, 0x200].contains n

/-- Widths of the format codes of `cvt` (12/R277); none for a code that names no format. -/
def cvtWidth (code : Nat) : Option Nat :=
  match code with
  | 0 => some 32 | 1 => some 32 | 2 => some 16 | 3 => some 16 | 4 => some 8 | 5 => some 8 | 6 => some 8 | 7 => some 8
  | 8 => some 4 | 9 => some 8 | 10 => some 16 | 11 => some 8 | 12 => some 8 | 13 => some 4 | 14 => some 4
  | 0x20 => some 32 | 0x21 => some 32 | 0x22 => some 8 | 0x23 => some 8 | 0x24 => some 4
  | _ => none

/-- The IMM32 of `cvt` (12/R276-R278). -/
def cvtImm (f : Fields) : Bool :=
  match cvtWidth (bits f.imm 7 0), cvtWidth (bits f.imm 15 8) with
  | some ws, some wd =>
    let sel := bits f.imm 19 16
    bits f.imm 23 20 == 0 && bits f.imm 31 27 == 0 && bits f.imm 26 24 ≤ 5
      && sel < max (wd / ws) (ws / wd)
  | _, _ => false

/-- The form of each instruction with its fields; none for an event. -/
def form (i : Instr) : Option (Fields × Form) :=
  match i with
  -- control (11/R248-R255)
  | .nop f => some (f, fControl)
  | .bra f => some (f, { fControl with imm := anyImm })
  | .brc f => some (f, { fControl with sub := fun f => f.sub != 15, a := .c, imm := fun f => bits f.imm 31 16 != 0 })
  | .brz f | .brnz f => some (f, { fControl with a := .k, imm := fun f => bits f.imm 31 16 != 0 })
  | .call f => some (f, { fControl with d := .s, imm := anyImm })
  | .ret f => some (f, { fControl with a := .s })
  | .jmpi f => some (f, { fControl with a := .s, imm := anyImm })
  | .regang f => some (f, { fControl with sub := fun f => f.sub.toNat ≤ 1 })
  | .exit f | .yield f => some (f, fControl)
  | .trap f | .brk f => some (f, { fControl with imm := immFits 16 })
  | .waitf f => some (f, { fControl with imm := immFits 12 })
  -- integer and bit (11/R256-R260)
  | .iadd f | .isub f => some (f, { fInt tyI (tyI ++ [.u64, .s64]) with md := mdSat })
  | .imul f | .imulh f => some (f, fInt [.u32, .s32] [.u32, .s32, .u64, .s64])
  | .imad f => some (f, { fInt [.u32, .s32] [.u32, .s32, .u64, .s64] with md := mdSat, c := .r })
  | .imin f | .imax f => some (f, fInt tyI (tyI ++ [.u64, .s64]))
  | .iabs f | .ineg f => some (f, { fUnary [.s32, .s16x2, .s8x4] [.s32, .s16x2, .s8x4, .s64] with md := mdSat })
  | .and f | .or f | .xor f | .andn f | .shl f | .shr f => some (f, fInt [.b32] [.b32, .b64])
  | .sar f => some (f, fInt [.s32] [.s32, .s64])
  | .rot f => some (f, fInt [.b32] [.b32, .b64])
  | .rotR f => some (f, { fInt [.b32] [.b32, .b64] with sub := fun f => f.sub == 1 })
  | .bfx f => some (f, fInt [.u32] [.u32, .u64])
  | .bfxs f => some (f, fInt [.s32] [.s32, .s64])
  | .bfi f => some (f, { fInt [.b32] [.b32, .b64] with dRole := .both })
  | .popc f | .clz f | .brev f => some (f, fUnary [.b32] [.b32, .b64])
  | .sel f => some (f, { fInt [.b32] [] with c := .k })
  | .icmp f => some (f, { fInt [.u32, .s32] [.u32, .s32, .u64, .s64] with
      d := if f.sc then .c else .kd, sub := fun f => f.sub.toNat ≤ (if f.sc then 0 else 5) })
  | .mov f => some (f, fUnary ty32 (ty32 ++ ty64))
  | .movS f => some (f, { fUnary [.b32] [] with aks := [.reg], a := .s, sub := fun f => f.sub == 1 })
  | .movi f => some (f, { fInt ty32 (ty32 ++ ty64) with aks := [.reg], bks := [.imm], a := .zero, b := .zero })
  | .moviHi f => some (f, { fInt [] ty64 with
      aks := [.reg], bks := [.imm], a := .zero, b := .zero, sub := fun f => f.sub == 1 })
  | .lea f => some (f, { fInt [.u32] [.u32, .u64] with sub := fun f => f.sub.toNat < 8 })
  -- masks (11/R261)
  | .kand f | .kor f | .kxor f => some (f, fMask)
  | .knot f => some (f, { fMask with bks := [.reg], b := .zero })
  | .kmov f => some (f, { fMask with a := .zero })
  | .kmovVk f => some (f, { fMask with vecTy := [.b32], bks := [.reg], b := .zero, d := .v, sub := fun f => f.sub == 1 })
  | .kmovKv f => some (f, { fMask with
      vecTy := [.b32], bks := [.reg], b := .zero, a := .v, aks := [.reg, .queue, .special], sub := fun f => f.sub == 2 })
  | .kpop f | .kfirst f => some (f, { fMask with
      vecTy := [.u32], scTy := [.u32], bks := [.reg], b := .zero, d := .r })
  -- cross-lane (11/R262-R264)
  | .shflIdx f => some (f, { fCross with bks := [.reg, .imm, .queue, .special], b := .v, c := .k })
  | .shflUp f => some (f, { fCross with bks := [.reg, .imm, .queue, .special], b := .v, c := .k, sub := fun f => f.sub == 1 })
  | .shflDown f => some (f, { fCross with bks := [.reg, .imm, .queue, .special], b := .v, c := .k, sub := fun f => f.sub == 2 })
  | .shflXor f => some (f, { fCross with bks := [.reg, .imm, .queue, .special], b := .v, c := .k, sub := fun f => f.sub == 3 })
  | .voteAny f => some (f, { fCross with d := .kd })
  | .voteAll f => some (f, { fCross with d := .kd, sub := fun f => f.sub == 1 })
  | .voteBallot f => some (f, { fCross with sub := fun f => f.sub == 2 })
  | .redux f => some (f, { fCross with
      vecTy := if f.sub.toNat ≤ 2 then [.u32, .s32, .f32] else [.b32], sub := fun f => f.sub.toNat ≤ 5,
      md := fun f => f.md == 0 || (f.sub == 0 && f.ty == .f32 && !bit f.md 2) })
  | .scan f => some (f, { fCross with
      vecTy := if f.sub.toNat % 8 ≤ 2 then [.u32, .s32, .f32] else [.b32], sub := fun f => f.sub.toNat % 8 ≤ 5,
      md := fun f => f.md == 0 || (f.sub.toNat % 8 == 0 && f.ty == .f32 && !bit f.md 2) })
  | .bcast f => some (f, { fCross with bks := [.imm], imm := immFits 5, c := .k })
  | .bcastS f => some (f, { fCross with bks := [.imm], imm := immFits 5, c := .k, d := .s, sub := fun f => f.sub == 1 })
  -- floating point (12/R265-R279)
  | .fadd f | .fsub f | .fmul f | .fscale f => some (f, fFloat)
  | .ffma f => some (f, { fFloat with c := .r })
  | .fmin f | .fmax f => some (f, { fInt [.f32, .f16x2, .bf16x2] [.f32] with md := fun f => f.md &&& 7 == 0, laneId := true })
  | .fcmp f => some (f, { fInt [.f32] [.f32] with
      d := if f.sc then .c else .kd, sub := fun f => f.sub.toNat ≤ (if f.sc then 0 else 7), md := fun f => f.md &&& 7 == 0
      laneId := true })
  | .frcp f | .frsq f | .fsqrt f | .fex2 f | .flg2 f | .fsin f | .fcos f | .ftanh f | .fsig f => some (f, fSpecialFn)
  | .hadd2 f | .hmul2 f => some (f, { fInt [.f16x2, .bf16x2] [] with md := fun _ => true })
  | .hfma2 f => some (f, { fInt [.f16x2, .bf16x2] [] with md := fun _ => true, c := .v })
  | .cvt f => some (f, { fUnary [.b32] [] with
      md := fun f => bits f.md 1 0 == 0, imm := cvtImm,
      dRole := if (cvtWidth (bits f.imm 15 8)).getD 0 < (cvtWidth (bits f.imm 7 0)).getD 0 then .both else .dst })
  | .frnd f => some (f, { fUnary [.f32, .f16x2, .bf16x2] [.f32] with
      sub := fun f => f.sub.toNat ≤ 1, md := fun f => !bit f.md 2 && (f.sub == 0 || bits f.md 1 0 == 0), laneId := true })
  | .fclass f => some (f, { fUnary [.f32, .f16x2, .bf16x2] [.f32] with laneId := true })
  -- memory (09/R198-R210)
  | .ld f => some (f, fMem 1 true)
  | .st f => some (f, fMem 2 true)
  | .lds f => some (f, fMem 1 false)
  | .sts f => some (f, fMem 2 false)
  | .atom f => some (f, fAtom false)
  | .red f => some (f, fAtom true)
  | .cellp f => some (f, fCell .both)
  | .cellr f => some (f, fCell .dst)
  | .cellc f => some (f, { fCell .src with d := .zero, dTop := fun _ => 0 })
  | .pref f => some (f, { fCell .src with
      vecTy := [.u32], d := .zero, a := .zero, tie := false, dTop := fun _ => 0, sub := fun f => f.sub.toNat ≤ 1,
      md := fun f => bits f.md 2 0 == 0 })
  | .cclean f | .cinv f | .cdisc f => some (f, { fGroup with a := .s, b := .s, bks := [.reg, .imm] })
  | .sealRange f => some (f, { fGroup with d := .s, a := .s, b := .s, bks := [.reg, .imm] })
  | .unsealRange f | .unpin f => some (f, { fGroup with a := .s })
  | .pin f => some (f, { fGroup with d := .s, a := .s, b := .s, imm := fun f => 1 ≤ f.imm.toNat && f.imm.toNat ≤ 12 })
  -- copies (10/R219-R236)
  | .cpy f => some (f, { fCopy with
      sub := fun f => f.sub.toNat ≤ 3, md := fun f => bits f.md 2 0 == 0, tie := true, d := .s, a := .s, c := .s,
      more := fun f => f.c.toNat ≤ 61, dRole := .src })
  | .cpyq f => some (f, { fCopy with
      sub := fun f => f.sub.toNat ≤ 3, md := fun f => bits f.md 2 0 == 0, tie := true, d := .s, a := .any, b := .any,
      imm := fun f => immFits 24 f && 1 ≤ bits f.imm 15 8 && bits f.imm 15 8 ≤ 8 && 1 ≤ bits f.imm 23 16
        && bits f.imm 23 16 ≤ 8,
      dRole := .src })
  | .chko f => some (f, { fCopy with
      sub := fun f => f.sub.toNat ≤ 3, tie := true, bks := [.reg, .imm], d := .s, a := .s, b := .s, c := .s })
  | .chki f => some (f, { fCopy with tie := true, a := .s })
  | .chkiDrop f => some (f, { fCopy with tie := true, a := .s, sub := fun f => f.sub == 1 })
  | .bclose f => some (f, { fCopy with d := .s })
  | .bwait f => some (f, { fCopy with
      tie := true, bks := [.reg, .imm], b := .s, imm := fun f => if f.bk = .imm then immFits 16 f else f.imm == 0 })
  | .decLut f => some (f, {
      vecTy := [.b32], tie := true, d := .v, a := .s, b := .s,
      imm := fun f => immFits 5 f && 1 ≤ immLow f 4 && immLow f 4 ≤ 8,
      dTop := fun f => f.d.toNat + immLow f 4 - 1 })
  | .decRle0 f => some (f, {
      vecTy := [.b32], tie := true, d := .v, a := .s, sub := fun f => f.sub == 1,
      imm := fun f => immFits 4 f && 1 ≤ immLow f 4 && immLow f 4 ≤ 8,
      dTop := fun f => f.d.toNat + immLow f 4 - 1 })
  | .decSp24 f => some (f, {
      vecTy := [.b32], tie := true, d := .v, a := .s, b := .s, sub := fun f => f.sub == 2,
      imm := fun f => immFits 4 f && 1 ≤ immLow f 4 && immLow f 4 ≤ 8,
      dTop := fun f => f.d.toNat + immLow f 4 - 1 })
  -- access slice (10/R237-R244)
  | .strm f => some (f, { fAccess with
      vecTy := ty32, d := .q, a := .any, c := .any, more := fun f => f.c.toNat < 16 && f.c.toNat % 4 == 0,
      md := fun f => bits f.md 1 0 == 0, imm := anyImm })
  | .srun f => some (f, { fAccess with imm := immFits 8 })
  | .astop f => some (f, { fAccess with d := .q })
  | .astopAll f => some (f, { fAccess with sub := fun f => f.sub == 1 })
  | .amovi f => some (f, { fAccess with d := .a, bks := [.imm] })
  | .amoviHi f => some (f, { fAccess with d := .a, bks := [.imm], sub := fun f => f.sub == 1 })
  | .aadd f => some (f, { fAccess with
      d := .a, a := .a, b := .a, bks := [.reg, .imm, .special], more := fun f => f.bk != .special || 2 ≤ f.b.toNat })
  | .aloop f => some (f, { fAccess with d := .a, imm := anyImm })
  | .abr f => some (f, { fAccess with
      a := .a, b := .a, imm := anyImm, sub := fun f => f.sub.toNat ≤ 6,
      more := fun f => f.sub != 6 || (f.a == 0 && f.b == 0) })
  -- matrix (13/R280-R310)
  | .mma f => some (f, {
      vecTy := [.u32], tie := true, ru := true, sub := fun f => f.sub.toNat ≤ 1, imm := anyImm,
      md := fun f => f.md &&& 0xB == 0, d := .z, a := .v, b := .s, c := .s, more := fun f => f.c.toNat ≤ 62 })
  | .zclr f => some (f, { vecTy := [.u32], d := .z })
  | .drain f => some (f, {
      vecTy := [.u32], tie := true, sub := fun f => bits f.sub 1 0 != 3 && !(bits f.sub 1 0 == 0 && bit f.sub 3),
      md := fun f => !bit f.md 0, imm := immFits 15, d := .z, a := if bits f.sub 1 0 = 0 then .v else .s, b := .s, c := .s,
      more := fun f => (bits f.sub 1 0 == 0 || f.a.toNat ≤ 62) && (bit f.md 3 || f.b == 0) && (bit f.md 1 || f.c == 0),
      aTop := fun f => f.a.toNat + 31 })
  | .atbl f => some (f, { vecTy := [.u32], a := .s, imm := immFits 2 })
  | .fmtset f => some (f, {
      vecTy := [.u32], b := .s, bks := [.reg, .imm],
      imm := fun f => if f.bk = .imm then immFits 16 f && bits f.imm 7 0 ≤ 27 && bits f.imm 15 8 ≤ 27 else f.imm == 0 })
  | .scpreLd f => some (f, { vecTy := [.u32], tie := true, a := .s, b := .s, imm := fun f => 1 ≤ f.imm.toNat && f.imm.toNat ≤ 512 })
  | .scpreInv f => some (f, { vecTy := [.u32], tie := true, a := .s, sub := fun f => f.sub == 1 })
  | .scpreAll f => some (f, { vecTy := [.u32], tie := true, sub := fun f => f.sub == 2 })
  | .opfence f => some (f, { vecTy := [.u32] })
  | .batonJoin f => some (f, { vecTy := [.u32] })
  | .batonTake f => some (f, { vecTy := [.u32], sub := fun f => f.sub == 1 })
  | .batonPass f => some (f, { vecTy := [.u32], sub := fun f => f.sub == 2 })
  -- fences, barriers, tasks, router (14/R311-R346)
  | .fence f => some (f, { fSyncImm with d := .s, sub := fun f => scopeCode f.sub.toNat, imm := fun f => 1 ≤ f.imm.toNat && f.imm.toNat ≤ 7 })
  | .fwait f => some (f, fSync)
  | .barArv f => some (f, { fBar with d := .s })
  | .barWait f => some (f, { fBar with a := .s, sub := fun f => f.sub == 1 })
  | .barArm f => some (f, { fBar with a := .s, sub := fun f => f.sub == 2 })
  | .barTst f => some (f, { fBar with d := .s, a := .s, sub := fun f => f.sub == 3 })
  | .grow f => some (f, { fSyncImm with imm := fun f => limitValue f.imm.toNat })
  | .growTry f => some (f, { fSyncImm with imm := fun f => limitValue f.imm.toNat, sub := fun f => f.sub == 1 })
  | .shrink f => some (f, { fSyncImm with imm := fun f => limitValue f.imm.toNat })
  | .spawn f => some (f, { fSyncImm with d := .s, a := .s, imm := immFits 8 })
  | .spawnTry f => some (f, { fSyncImm with d := .s, a := .s, imm := immFits 8, sub := fun f => f.sub == 1 })
  | .rsv f => some (f, { fSyncImm with a := .s, imm := fun f => immFits 16 f && f.imm != 0 })
  | .rsvTry f => some (f, { fSyncImm with a := .s, imm := fun f => immFits 16 f && f.imm != 0, sub := fun f => f.sub == 1 })
  | .enq f => some (f, { fSync with
      d := .s, dRole := .src, tie := true, sub := fun f => f.sub.toNat ≤ 1,
      more := fun f => f.d.toNat ≤ 56 && (f.sub == 1 || f.cf == .none) })
  | .deq f => some (f, { fSync with d := .s, tie := true, more := fun f => f.d.toNat ≤ 56 })
  | .deqTry f => some (f, { fSync with d := .s, tie := true, more := fun f => f.d.toNat ≤ 56, sub := fun f => f.sub == 1 })
  | .migrate f => some (f, fSync)
  | .routeSet f => some (f, { fSync with d := .s })
  | .routeSetFree f => some (f, { fSync with imm := fun f => f.imm == 1 })
  | .routeAdmit f => some (f, { vecTy := [.u32], d := .v, a := .s, b := .s, sub := fun f => f.sub == 1 })
  | .routeAdmitClose f => some (f, { fSync with sub := fun f => f.sub == 1, imm := fun f => f.imm == 1 })
  | .routePop f => some (f, {
      vecTy := [.u32], d := .v, a := .s, b := .s, sub := fun f => f.sub == 2,
      imm := fun f => immFits 5 f && immLow f 4 ≤ 10 })
  | .routeVerd f => some (f, { vecTy := [.u32], a := .v, b := .v, c := .s, sub := fun f => f.sub == 3 })
  | .routeStat f => some (f, { fSync with
      d := .s, sub := fun f => f.sub == 4, imm := fun f => immFits 8 f && immLow f 4 ≤ 10 && bits f.imm 7 4 ≤ 9 })
  -- searches, near-bank and system (15/R348-R366)
  | .srch f => some (f, { fSync with tie := true, sub := fun f => f.sub.toNat ≤ 1, more := fun f => f.a.toNat ≤ 56 })
  | .kmerge f => some (f, { fSync with tie := true, more := fun f => f.a.toNat ≤ 59 })
  | .nbcall f => some (f, { fSync with tie := true, sub := fun f => f.sub.toNat ≤ 1, more := fun f => f.a.toNat ≤ 59 })
  | .csrr f => some (f, { fSyncImm with d := .s, imm := fun f => csrKnown f.imm.toNat })
  | .csrw f => some (f, { fSyncImm with a := .s, imm := fun f => csrWritable f.imm.toNat })
  | .syscall f | .halt f => some (f, { fSync with a := .zero, imm := immFits 16 })
  | .eret f => some (f, { fSync with a := .zero })
  | .permit f => some (f, { fSyncImm with imm := fun f => f.imm.toNat ≤ 64 })
  | .clkrd f => some (f, { fSync with a := .zero, d := .s })
  | .clkrdCore f => some (f, { fSync with a := .zero, d := .s, sub := fun f => f.sub == 1 })
  -- walkers (15/R359-R360)
  | .wnode f | .wnbr f => some (f, { fWalk with d := .w, a := .w })
  | .wdist f | .wbound f | .wseen f => some (f, { fWalk with d := .w })
  | .wpush f => some (f, { fWalk with a := .w, b := .w })
  | .wspawn f | .whop f => some (f, { fWalk with a := .w, imm := anyImm })
  | .wend f => some (f, fWalk)
  | .wmovi f => some (f, { fWalk with d := .w, bks := [.imm] })
  | .wmoviHi f => some (f, { fWalk with d := .w, bks := [.imm], sub := fun f => f.sub == 1 })
  | .wadd f | .wsub f | .wshr f | .wand f => some (f, { fWalk with d := .w, a := .w, b := .w, bks := [.reg, .imm] })
  | .wcmp f => some (f, { fWalk with a := .w, b := .w, bks := [.reg, .imm] })
  | .wcmpF f => some (f, { fWalk with a := .w, b := .w, bks := [.reg, .imm], sub := fun f => f.sub == 1 })
  | .wbr f => some (f, { fWalk with imm := anyImm, sub := fun f => f.sub != 15 })
  | .wj f => some (f, { fWalk with imm := anyImm })
  | .wld f => some (f, { fWalk with d := .w, a := .w, imm := anyImm })
  | .wcnt f => some (f, { fWalk with d := .w, imm := fun f => f.imm.toNat ≤ 2 })
  -- bank microprograms (15/R365)
  | .nbrow f => some (f, { fBank with d := .b, imm := anyImm })
  | .nbscale f => some (f, { fBank with d := .b, a := .b, bks := [.imm] })
  | .nbadd f | .nbfma f => some (f, { fBank with d := .b, a := .b, b := .b })
  | .nbst f => some (f, { fBank with a := .b, imm := anyImm })
  | .nbloop f => some (f, { fBank with imm := anyImm })
  | .nbend f | .nbsig f => some (f, fBank)
  | .nbfmt f => some (f, { fBank with imm := fun f => [0, 2, 3, 10, 11].contains f.imm.toNat })
  | .nbclr f => some (f, { fBank with d := .b })
  | _ => none

/-- Whether the instruction's own fields are legal: steps 2 to 4 of 08/R187. Events carry no word. -/
def legal (i : Instr) : Bool :=
  match form i with
  | some (f, F) => F.legal f
  | none => true

/-- Whether a stream accepts the instruction (step 1 of 08/R187, R186; the all-zero word is accepted by every stream). -/
def accepts (k : StreamKind) (i : Instr) : Bool :=
  match i with
  | .nop _ => true
  | _ => match form i with
    | some (_, F) => F.stream == k
    | none => false

/-- The vector registers that a use names, `top` the last of the run. -/
def useV (u : Use) (sc : Bool) (lo top : Nat) : List Nat :=
  if u = .v ∨ (u = .r ∧ sc = false) then (List.range (top + 1 - lo)).map (· + lo) else []

/-- The vector registers the instruction names (step 6 of 08/R187). -/
def vNamed (i : Instr) : List Nat :=
  match form i with
  | none => []
  | some (f, F) =>
    useV F.d f.sc f.d.toNat (F.dTop f) ++ (if f.ak = .reg then useV F.a f.sc f.a.toNat (F.aTop f) else [])
      ++ (if f.bk = .reg then useV F.b f.sc f.b.toNat f.b.toNat else []) ++ useV F.c f.sc f.c.toNat f.c.toNat

/-- The vector registers the instruction reads (08/R180). -/
def vSources (i : Instr) : List Nat :=
  match form i with
  | none => []
  | some (f, F) =>
    (if F.dRole = .dst then [] else useV F.d f.sc f.d.toNat (F.dTop f))
      ++ (if f.ak = .reg then useV F.a f.sc f.a.toNat (F.aTop f) else [])
      ++ (if f.bk = .reg then useV F.b f.sc f.b.toNat f.b.toNat else []) ++ useV F.c f.sc f.c.toNat f.c.toNat

/-- The bank an operation needs, by its vector destination (08/R180). -/
def bankOf (i : Instr) : Option Nat :=
  match i with
  | .cellc f => some (f.a.toNat % 2)
  | _ => match form i with
    | none => none
    | some (f, F) =>
      if F.dRole = .src then none else (useV F.d f.sc f.d.toNat f.d.toNat).head?.map (· % 2)

/-- The pairing rules (08/R180). -/
def pairLegal (x y : Instr) : Bool :=
  match form x, form y with
  | some (f, F), some (g, G) =>
    let srcs := (vSources x ++ vSources y).eraseDups
    F.pairs && G.pairs && !f.sc && !g.sc && !(F.mem && G.mem) && !(F.special && G.special)
      && (match bankOf x, bankOf y with | some a, some b => a != b | _, _ => true)
      && (srcs.filter (· % 2 == 0)).length ≤ 2 && (srcs.filter (· % 2 == 1)).length ≤ 2
  | _, _ => false

end Sys2Proof.Machine
end

