-- ==== Sys2Proof/WellFormed.lean ====
section
/-! DEFINITION. Well-formed instructions: the legality of an instruction's own fields (steps 2 to 4 of 08/R187), and, for
an event, that what it names lies in the range the manual gives. -/

namespace Sys2Proof

/-- Context commands name slots 0-15 (18/R412), per-core events cores 0-383 and quadrants 0-3, per-die events dies 0-3
(01/R8), hardware queues 0-255 (16/R375); every other event has no range to check. -/
def eventOk : Instr → Bool
  | .invalidate c _ _ | .faultDone c _ _ | .counterSet c _ _ | .preemptBlock c _ _ | .switchOut c _ _ | .switchIn c _ _
  | .restartAfterHalt c _ _ | .bindQueue c _ _ | .unbindQueue c _ _ | .contextMeasurementReport c _ _ => c < 16
  | .growGrant core quad | .pendingWarpSwap core quad => core < 384 && quad < 4
  | .growDeadlockDetect core => core < 384
  | .permitGrant die | .governorRedistribute die _ | .profileChangeEffect die | .dieTemperatureThreshold die _
  | .holdingStoreRetry die _ => die < 4
  | .doorbellWrite q _ | .recordAccept q => q < 256
  | _ => true

/-- An instruction is well formed when its fields are legal; an event when its operands lie in their ranges. -/
def Instr.wellFormed (i : Instr) : Bool := Machine.legal i && eventOk i

end Sys2Proof
end

