-- ==== Sys2Proof/Decode.lean ====
section
/-! DEFINITION. Decoding and encoding: the 96-bit word (08/R173), the opcode map (08/R184-R185), fetch lines (08/R165-R166),
the 16-byte context command (18/R412, 26/R459) and the 64-byte management request (26/R454). -/

namespace Sys2Proof

open Sys2Proof.Machine (bits bit word64 ofBytes toBytes)

/-- Why a word names no instruction. -/
inductive DecodeError where
  /-- no row of the opcode map has this OPC and SUB (08/R184-R185) -/
  | unassigned
  /-- TY 14 or 15 (08/R176) -/
  | reservedType
  /-- AK 3 (08/R173) -/
  | reservedKind
  /-- CF 3 (08/R179) -/
  | illegalTie
deriving DecidableEq, Repr

/-- The types in order of their codes (08/R176). -/
def tyOf : Nat → Option Ty
  | 0 => some .u32 | 1 => some .s32 | 2 => some .u64 | 3 => some .s64 | 4 => some .f32 | 5 => some .f16x2
  | 6 => some .bf16x2 | 7 => some .u16x2 | 8 => some .s16x2 | 9 => some .u8x4 | 10 => some .s8x4 | 11 => some .b32
  | 12 => some .b64 | 13 => some .mask | _ => none

def tyCode : Ty → Nat
  | .u32 => 0 | .s32 => 1 | .u64 => 2 | .s64 => 3 | .f32 => 4 | .f16x2 => 5 | .bf16x2 => 6 | .u16x2 => 7 | .s16x2 => 8
  | .u8x4 => 9 | .s8x4 => 10 | .b32 => 11 | .b64 => 12 | .mask => 13

def akOf : Nat → Option AKind
  | 0 => some .reg | 1 => some .queue | 2 => some .special | _ => none

def akCode : AKind → Nat
  | .reg => 0 | .queue => 1 | .special => 2

def bkOf : Nat → BKind
  | 0 => .reg | 1 => .imm | 2 => .queue | _ => .special

def bkCode : BKind → Nat
  | .reg => 0 | .imm => 1 | .queue => 2 | .special => 3

def tieOf : Nat → Option Tie
  | 0 => some .none | 1 => some .a | 2 => some .b | _ => none

def tieCode : Tie → Nat
  | .none => 0 | .a => 1 | .b => 2

/-- A row of the opcode map: OPC, the SUB that selects the mnemonic where one opcode carries several, the IMM32 that does
(0xAA SUB 0 and 1, 14/R334), and the instruction. -/
structure OpRow where
  opc : Nat
  sub : Option Nat
  imm : Option Nat
  make : Fields → Instr

def rowsControl : List OpRow := [
  ⟨0x00, none, none, .nop⟩, ⟨0x01, none, none, .bra⟩, ⟨0x02, none, none, .brc⟩, ⟨0x03, none, none, .brz⟩,
  ⟨0x04, none, none, .brnz⟩, ⟨0x05, none, none, .call⟩, ⟨0x06, none, none, .ret⟩, ⟨0x07, none, none, .jmpi⟩,
  ⟨0x08, none, none, .regang⟩, ⟨0x09, none, none, .exit⟩, ⟨0x0A, none, none, .yield⟩, ⟨0x0B, none, none, .trap⟩,
  ⟨0x0C, none, none, .brk⟩, ⟨0x0D, none, none, .waitf⟩]

def rowsInteger : List OpRow := [
  ⟨0x10, none, none, .iadd⟩, ⟨0x11, none, none, .isub⟩, ⟨0x12, none, none, .imul⟩, ⟨0x13, none, none, .imulh⟩,
  ⟨0x14, none, none, .imad⟩, ⟨0x15, none, none, .imin⟩, ⟨0x16, none, none, .imax⟩, ⟨0x17, none, none, .iabs⟩,
  ⟨0x18, none, none, .ineg⟩, ⟨0x19, none, none, .and⟩, ⟨0x1A, none, none, .or⟩, ⟨0x1B, none, none, .xor⟩,
  ⟨0x1C, none, none, .andn⟩, ⟨0x1D, none, none, .shl⟩, ⟨0x1E, none, none, .shr⟩, ⟨0x1F, none, none, .sar⟩,
  ⟨0x20, (some 0), none, .rot⟩, ⟨0x20, (some 1), none, .rotR⟩, ⟨0x21, none, none, .bfx⟩, ⟨0x22, none, none, .bfxs⟩,
  ⟨0x23, none, none, .bfi⟩, ⟨0x24, none, none, .popc⟩, ⟨0x25, none, none, .clz⟩, ⟨0x26, none, none, .brev⟩,
  ⟨0x27, none, none, .sel⟩, ⟨0x28, none, none, .icmp⟩, ⟨0x29, (some 0), none, .mov⟩, ⟨0x29, (some 1), none, .movS⟩,
  ⟨0x2A, (some 0), none, .movi⟩, ⟨0x2A, (some 1), none, .moviHi⟩, ⟨0x2B, none, none, .lea⟩]

def rowsMask : List OpRow := [
  ⟨0x30, none, none, .kand⟩, ⟨0x31, none, none, .kor⟩, ⟨0x32, none, none, .kxor⟩, ⟨0x33, none, none, .knot⟩,
  ⟨0x34, (some 0), none, .kmov⟩, ⟨0x34, (some 1), none, .kmovVk⟩, ⟨0x34, (some 2), none, .kmovKv⟩,
  ⟨0x35, none, none, .kpop⟩, ⟨0x36, none, none, .kfirst⟩, ⟨0x38, (some 0), none, .shflIdx⟩,
  ⟨0x38, (some 1), none, .shflUp⟩, ⟨0x38, (some 2), none, .shflDown⟩, ⟨0x38, (some 3), none, .shflXor⟩,
  ⟨0x39, (some 0), none, .voteAny⟩, ⟨0x39, (some 1), none, .voteAll⟩, ⟨0x39, (some 2), none, .voteBallot⟩,
  ⟨0x3A, none, none, .redux⟩, ⟨0x3B, none, none, .scan⟩, ⟨0x3C, (some 0), none, .bcast⟩,
  ⟨0x3C, (some 1), none, .bcastS⟩]

def rowsFloat : List OpRow := [
  ⟨0x40, none, none, .fadd⟩, ⟨0x41, none, none, .fsub⟩, ⟨0x42, none, none, .fmul⟩, ⟨0x43, none, none, .ffma⟩,
  ⟨0x44, none, none, .fmin⟩, ⟨0x45, none, none, .fmax⟩, ⟨0x46, none, none, .fcmp⟩, ⟨0x47, none, none, .frcp⟩,
  ⟨0x48, none, none, .frsq⟩, ⟨0x49, none, none, .fsqrt⟩, ⟨0x4A, none, none, .fex2⟩, ⟨0x4B, none, none, .flg2⟩,
  ⟨0x4C, none, none, .fsin⟩, ⟨0x4D, none, none, .fcos⟩, ⟨0x4E, none, none, .ftanh⟩, ⟨0x4F, none, none, .fsig⟩,
  ⟨0x50, none, none, .hadd2⟩, ⟨0x51, none, none, .hmul2⟩, ⟨0x52, none, none, .hfma2⟩, ⟨0x53, none, none, .cvt⟩,
  ⟨0x54, none, none, .frnd⟩, ⟨0x55, none, none, .fclass⟩, ⟨0x56, none, none, .fscale⟩]

def rowsMemory : List OpRow := [
  ⟨0x60, none, none, .ld⟩, ⟨0x61, none, none, .st⟩, ⟨0x62, none, none, .lds⟩, ⟨0x63, none, none, .sts⟩,
  ⟨0x64, none, none, .atom⟩, ⟨0x65, none, none, .red⟩, ⟨0x66, none, none, .cellp⟩, ⟨0x67, none, none, .cellr⟩,
  ⟨0x68, none, none, .cellc⟩, ⟨0x69, none, none, .pref⟩, ⟨0x6A, none, none, .cclean⟩, ⟨0x6B, none, none, .cinv⟩,
  ⟨0x6C, none, none, .cdisc⟩, ⟨0x6D, none, none, .sealRange⟩, ⟨0x6E, none, none, .unsealRange⟩,
  ⟨0x6F, none, none, .pin⟩, ⟨0x70, none, none, .unpin⟩]

def rowsCopy : List OpRow := [
  ⟨0x80, none, none, .cpy⟩, ⟨0x81, none, none, .cpyq⟩, ⟨0x82, none, none, .chko⟩, ⟨0x83, (some 0), none, .chki⟩,
  ⟨0x83, (some 1), none, .chkiDrop⟩, ⟨0x84, none, none, .bclose⟩, ⟨0x85, none, none, .bwait⟩,
  ⟨0x86, (some 0), none, .decLut⟩, ⟨0x86, (some 1), none, .decRle0⟩, ⟨0x86, (some 2), none, .decSp24⟩,
  ⟨0x87, none, none, .strm⟩, ⟨0x88, none, none, .srun⟩, ⟨0x89, (some 0), none, .astop⟩,
  ⟨0x89, (some 1), none, .astopAll⟩, ⟨0x8A, (some 0), none, .amovi⟩, ⟨0x8A, (some 1), none, .amoviHi⟩,
  ⟨0x8B, none, none, .aadd⟩, ⟨0x8C, none, none, .aloop⟩, ⟨0x8D, none, none, .abr⟩]

def rowsMatrix : List OpRow := [
  ⟨0x90, none, none, .mma⟩, ⟨0x91, none, none, .zclr⟩, ⟨0x92, none, none, .drain⟩, ⟨0x93, none, none, .atbl⟩,
  ⟨0x94, none, none, .fmtset⟩, ⟨0x95, (some 0), none, .scpreLd⟩, ⟨0x95, (some 1), none, .scpreInv⟩,
  ⟨0x95, (some 2), none, .scpreAll⟩, ⟨0x96, none, none, .opfence⟩, ⟨0x97, (some 0), none, .batonJoin⟩,
  ⟨0x97, (some 1), none, .batonTake⟩, ⟨0x97, (some 2), none, .batonPass⟩]

def rowsSync : List OpRow := [
  ⟨0xA0, none, none, .fence⟩, ⟨0xA1, none, none, .fwait⟩, ⟨0xA2, (some 0), none, .barArv⟩,
  ⟨0xA2, (some 1), none, .barWait⟩, ⟨0xA2, (some 2), none, .barArm⟩, ⟨0xA2, (some 3), none, .barTst⟩,
  ⟨0xA3, (some 0), none, .grow⟩, ⟨0xA3, (some 1), none, .growTry⟩, ⟨0xA4, none, none, .shrink⟩,
  ⟨0xA5, (some 0), none, .spawn⟩, ⟨0xA5, (some 1), none, .spawnTry⟩, ⟨0xA6, (some 0), none, .rsv⟩,
  ⟨0xA6, (some 1), none, .rsvTry⟩, ⟨0xA7, none, none, .enq⟩, ⟨0xA8, (some 0), none, .deq⟩,
  ⟨0xA8, (some 1), none, .deqTry⟩, ⟨0xA9, none, none, .migrate⟩, ⟨0xAA, (some 0), (some 0), .routeSet⟩,
  ⟨0xAA, (some 0), (some 1), .routeSetFree⟩, ⟨0xAA, (some 1), (some 0), .routeAdmit⟩,
  ⟨0xAA, (some 1), (some 1), .routeAdmitClose⟩, ⟨0xAA, (some 2), none, .routePop⟩,
  ⟨0xAA, (some 3), none, .routeVerd⟩, ⟨0xAA, (some 4), none, .routeStat⟩]

def rowsSystem : List OpRow := [
  ⟨0xB0, none, none, .srch⟩, ⟨0xB1, none, none, .kmerge⟩, ⟨0xB2, none, none, .nbcall⟩, ⟨0xB3, none, none, .csrr⟩,
  ⟨0xB4, none, none, .csrw⟩, ⟨0xB5, none, none, .syscall⟩, ⟨0xB6, none, none, .eret⟩, ⟨0xB7, none, none, .halt⟩,
  ⟨0xB8, none, none, .permit⟩, ⟨0xB9, (some 0), none, .clkrd⟩, ⟨0xB9, (some 1), none, .clkrdCore⟩]

def rowsWalker : List OpRow := [
  ⟨0xC0, none, none, .wnode⟩, ⟨0xC1, none, none, .wdist⟩, ⟨0xC2, none, none, .wpush⟩, ⟨0xC3, none, none, .wbound⟩,
  ⟨0xC4, none, none, .wnbr⟩, ⟨0xC5, none, none, .wseen⟩, ⟨0xC6, none, none, .wspawn⟩, ⟨0xC7, none, none, .whop⟩,
  ⟨0xC8, none, none, .wend⟩, ⟨0xC9, (some 0), none, .wmovi⟩, ⟨0xC9, (some 1), none, .wmoviHi⟩,
  ⟨0xCA, none, none, .wadd⟩, ⟨0xCB, none, none, .wsub⟩, ⟨0xCC, (some 0), none, .wcmp⟩,
  ⟨0xCC, (some 1), none, .wcmpF⟩, ⟨0xCD, none, none, .wbr⟩, ⟨0xCE, none, none, .wj⟩, ⟨0xCF, none, none, .wshr⟩,
  ⟨0xD0, none, none, .wand⟩, ⟨0xD1, none, none, .wld⟩, ⟨0xD2, none, none, .wcnt⟩]

def rowsBank : List OpRow := [
  ⟨0xE0, none, none, .nbrow⟩, ⟨0xE1, none, none, .nbscale⟩, ⟨0xE2, none, none, .nbadd⟩, ⟨0xE3, none, none, .nbfma⟩,
  ⟨0xE4, none, none, .nbst⟩, ⟨0xE5, none, none, .nbloop⟩, ⟨0xE6, none, none, .nbend⟩, ⟨0xE7, none, none, .nbsig⟩,
  ⟨0xE8, none, none, .nbfmt⟩, ⟨0xE9, none, none, .nbclr⟩]

/-- The rows under an opcode (08/R184). -/
def rowsOf (opc : Nat) : List OpRow :=
  if opc < 0x10 then rowsControl
  else if opc < 0x30 then rowsInteger
  else if opc < 0x40 then rowsMask
  else if opc < 0x60 then rowsFloat
  else if opc < 0x80 then rowsMemory
  else if opc < 0x90 then rowsCopy
  else if opc < 0xA0 then rowsMatrix
  else if opc < 0xB0 then rowsSync
  else if opc < 0xC0 then rowsSystem
  else if opc < 0xE0 then rowsWalker
  else rowsBank

/-- Whether a row names a word with these fields. -/
def OpRow.names (r : OpRow) (opc : Nat) (f : Fields) : Bool :=
  r.opc == opc && (match r.sub with | none => true | some n => f.sub.toNat == n)
    && (match r.imm with | none => true | some n => f.imm.toNat == n)

/-- The word's fields (08/R173). -/
def unpack (w : W96) : Except DecodeError (Nat × Fields) :=
  match tyOf (bits w 55 52), akOf (bits w 61 60), tieOf (bits w 13 12) with
  | some ty, some ak, some cf =>
    .ok (bits w 7 0, { sub := w.extractLsb' 8 4, cf, ru := bit w 14, sc := bit w 15, km := w.extractLsb' 16 3, kn := bit w 19
                       d := w.extractLsb' 20 8, a := w.extractLsb' 28 8, b := w.extractLsb' 36 8, c := w.extractLsb' 44 8
                       ty, md := w.extractLsb' 56 4, ak, bk := bkOf (bits w 63 62), imm := w.extractLsb' 64 32 })
  | none, _, _ => .error .reservedType
  | _, none, _ => .error .reservedKind
  | _, _, none => .error .illegalTie

/-- The word of an opcode and fields (08/R173). -/
def pack (opc : Nat) (f : Fields) : W96 :=
  f.imm ++ BitVec.ofNat 2 (bkCode f.bk) ++ BitVec.ofNat 2 (akCode f.ak) ++ f.md ++ BitVec.ofNat 4 (tyCode f.ty) ++ f.c ++ f.b
    ++ f.a ++ f.d ++ BitVec.ofBool f.kn ++ f.km ++ BitVec.ofBool f.sc ++ BitVec.ofBool f.ru ++ BitVec.ofNat 2 (tieCode f.cf)
    ++ f.sub ++ BitVec.ofNat 8 opc

/-- The instruction that a word names. An opcode or SUB without a row, and a reserved code, is refused by name; whether the
other fields are legal is `Instr.wellFormed`. A word with OPC 0xAA whose IMM32 selects no form is refused as unassigned. -/
def decode (w : W96) : Except DecodeError Instr :=
  match unpack w with
  | .error e => .error e
  | .ok (opc, f) =>
    match (rowsOf opc).find? (·.names opc f) with
    | some r => .ok (r.make f)
    | none => .error .unassigned

/-- The opcode and fields of an instruction; none for an event. -/
def parts (i : Instr) : Option (Nat × Fields) :=
  match i with
  | .nop f => some (0x00, f)
  | .bra f => some (0x01, f)
  | .brc f => some (0x02, f)
  | .brz f => some (0x03, f)
  | .brnz f => some (0x04, f)
  | .call f => some (0x05, f)
  | .ret f => some (0x06, f)
  | .jmpi f => some (0x07, f)
  | .regang f => some (0x08, f)
  | .exit f => some (0x09, f)
  | .yield f => some (0x0A, f)
  | .trap f => some (0x0B, f)
  | .brk f => some (0x0C, f)
  | .waitf f => some (0x0D, f)
  | .iadd f => some (0x10, f)
  | .isub f => some (0x11, f)
  | .imul f => some (0x12, f)
  | .imulh f => some (0x13, f)
  | .imad f => some (0x14, f)
  | .imin f => some (0x15, f)
  | .imax f => some (0x16, f)
  | .iabs f => some (0x17, f)
  | .ineg f => some (0x18, f)
  | .and f => some (0x19, f)
  | .or f => some (0x1A, f)
  | .xor f => some (0x1B, f)
  | .andn f => some (0x1C, f)
  | .shl f => some (0x1D, f)
  | .shr f => some (0x1E, f)
  | .sar f => some (0x1F, f)
  | .rot f => some (0x20, f)
  | .rotR f => some (0x20, f)
  | .bfx f => some (0x21, f)
  | .bfxs f => some (0x22, f)
  | .bfi f => some (0x23, f)
  | .popc f => some (0x24, f)
  | .clz f => some (0x25, f)
  | .brev f => some (0x26, f)
  | .sel f => some (0x27, f)
  | .icmp f => some (0x28, f)
  | .mov f => some (0x29, f)
  | .movS f => some (0x29, f)
  | .movi f => some (0x2A, f)
  | .moviHi f => some (0x2A, f)
  | .lea f => some (0x2B, f)
  | .kand f => some (0x30, f)
  | .kor f => some (0x31, f)
  | .kxor f => some (0x32, f)
  | .knot f => some (0x33, f)
  | .kmov f => some (0x34, f)
  | .kmovVk f => some (0x34, f)
  | .kmovKv f => some (0x34, f)
  | .kpop f => some (0x35, f)
  | .kfirst f => some (0x36, f)
  | .shflIdx f => some (0x38, f)
  | .shflUp f => some (0x38, f)
  | .shflDown f => some (0x38, f)
  | .shflXor f => some (0x38, f)
  | .voteAny f => some (0x39, f)
  | .voteAll f => some (0x39, f)
  | .voteBallot f => some (0x39, f)
  | .redux f => some (0x3A, f)
  | .scan f => some (0x3B, f)
  | .bcast f => some (0x3C, f)
  | .bcastS f => some (0x3C, f)
  | .fadd f => some (0x40, f)
  | .fsub f => some (0x41, f)
  | .fmul f => some (0x42, f)
  | .ffma f => some (0x43, f)
  | .fmin f => some (0x44, f)
  | .fmax f => some (0x45, f)
  | .fcmp f => some (0x46, f)
  | .frcp f => some (0x47, f)
  | .frsq f => some (0x48, f)
  | .fsqrt f => some (0x49, f)
  | .fex2 f => some (0x4A, f)
  | .flg2 f => some (0x4B, f)
  | .fsin f => some (0x4C, f)
  | .fcos f => some (0x4D, f)
  | .ftanh f => some (0x4E, f)
  | .fsig f => some (0x4F, f)
  | .hadd2 f => some (0x50, f)
  | .hmul2 f => some (0x51, f)
  | .hfma2 f => some (0x52, f)
  | .cvt f => some (0x53, f)
  | .frnd f => some (0x54, f)
  | .fclass f => some (0x55, f)
  | .fscale f => some (0x56, f)
  | .ld f => some (0x60, f)
  | .st f => some (0x61, f)
  | .lds f => some (0x62, f)
  | .sts f => some (0x63, f)
  | .atom f => some (0x64, f)
  | .red f => some (0x65, f)
  | .cellp f => some (0x66, f)
  | .cellr f => some (0x67, f)
  | .cellc f => some (0x68, f)
  | .pref f => some (0x69, f)
  | .cclean f => some (0x6A, f)
  | .cinv f => some (0x6B, f)
  | .cdisc f => some (0x6C, f)
  | .sealRange f => some (0x6D, f)
  | .unsealRange f => some (0x6E, f)
  | .pin f => some (0x6F, f)
  | .unpin f => some (0x70, f)
  | .cpy f => some (0x80, f)
  | .cpyq f => some (0x81, f)
  | .chko f => some (0x82, f)
  | .chki f => some (0x83, f)
  | .chkiDrop f => some (0x83, f)
  | .bclose f => some (0x84, f)
  | .bwait f => some (0x85, f)
  | .decLut f => some (0x86, f)
  | .decRle0 f => some (0x86, f)
  | .decSp24 f => some (0x86, f)
  | .strm f => some (0x87, f)
  | .srun f => some (0x88, f)
  | .astop f => some (0x89, f)
  | .astopAll f => some (0x89, f)
  | .amovi f => some (0x8A, f)
  | .amoviHi f => some (0x8A, f)
  | .aadd f => some (0x8B, f)
  | .aloop f => some (0x8C, f)
  | .abr f => some (0x8D, f)
  | .mma f => some (0x90, f)
  | .zclr f => some (0x91, f)
  | .drain f => some (0x92, f)
  | .atbl f => some (0x93, f)
  | .fmtset f => some (0x94, f)
  | .scpreLd f => some (0x95, f)
  | .scpreInv f => some (0x95, f)
  | .scpreAll f => some (0x95, f)
  | .opfence f => some (0x96, f)
  | .batonJoin f => some (0x97, f)
  | .batonTake f => some (0x97, f)
  | .batonPass f => some (0x97, f)
  | .fence f => some (0xA0, f)
  | .fwait f => some (0xA1, f)
  | .barArv f => some (0xA2, f)
  | .barWait f => some (0xA2, f)
  | .barArm f => some (0xA2, f)
  | .barTst f => some (0xA2, f)
  | .grow f => some (0xA3, f)
  | .growTry f => some (0xA3, f)
  | .shrink f => some (0xA4, f)
  | .spawn f => some (0xA5, f)
  | .spawnTry f => some (0xA5, f)
  | .rsv f => some (0xA6, f)
  | .rsvTry f => some (0xA6, f)
  | .enq f => some (0xA7, f)
  | .deq f => some (0xA8, f)
  | .deqTry f => some (0xA8, f)
  | .migrate f => some (0xA9, f)
  | .routeSet f => some (0xAA, f)
  | .routeSetFree f => some (0xAA, f)
  | .routeAdmit f => some (0xAA, f)
  | .routeAdmitClose f => some (0xAA, f)
  | .routePop f => some (0xAA, f)
  | .routeVerd f => some (0xAA, f)
  | .routeStat f => some (0xAA, f)
  | .srch f => some (0xB0, f)
  | .kmerge f => some (0xB1, f)
  | .nbcall f => some (0xB2, f)
  | .csrr f => some (0xB3, f)
  | .csrw f => some (0xB4, f)
  | .syscall f => some (0xB5, f)
  | .eret f => some (0xB6, f)
  | .halt f => some (0xB7, f)
  | .permit f => some (0xB8, f)
  | .clkrd f => some (0xB9, f)
  | .clkrdCore f => some (0xB9, f)
  | .wnode f => some (0xC0, f)
  | .wdist f => some (0xC1, f)
  | .wpush f => some (0xC2, f)
  | .wbound f => some (0xC3, f)
  | .wnbr f => some (0xC4, f)
  | .wseen f => some (0xC5, f)
  | .wspawn f => some (0xC6, f)
  | .whop f => some (0xC7, f)
  | .wend f => some (0xC8, f)
  | .wmovi f => some (0xC9, f)
  | .wmoviHi f => some (0xC9, f)
  | .wadd f => some (0xCA, f)
  | .wsub f => some (0xCB, f)
  | .wcmp f => some (0xCC, f)
  | .wcmpF f => some (0xCC, f)
  | .wbr f => some (0xCD, f)
  | .wj f => some (0xCE, f)
  | .wshr f => some (0xCF, f)
  | .wand f => some (0xD0, f)
  | .wld f => some (0xD1, f)
  | .wcnt f => some (0xD2, f)
  | .nbrow f => some (0xE0, f)
  | .nbscale f => some (0xE1, f)
  | .nbadd f => some (0xE2, f)
  | .nbfma f => some (0xE3, f)
  | .nbst f => some (0xE4, f)
  | .nbloop f => some (0xE5, f)
  | .nbend f => some (0xE6, f)
  | .nbsig f => some (0xE7, f)
  | .nbfmt f => some (0xE8, f)
  | .nbclr f => some (0xE9, f)
  | _ => none

/-- The word of an instruction; none for an event. -/
def encode (i : Instr) : Option W96 := (parts i).map fun p => pack p.1 p.2

/-! ### Fetch lines (08/R165-R166) -/

/-- Slot i of a line. -/
def slotWord (l : FetchLine) (i : Nat) : W96 := l.extractLsb' (96 * i) 96

/-- The line word. -/
def lineWord (l : FetchLine) : W32 := l.extractLsb' 480 32

/-- Both parity bits of the line agree with their halves (R166). -/
def lineParity (l : FetchLine) : Bool :=
  Machine.parity 254 (bits l 509 256) == bit l 511 && Machine.parity 256 (bits l 255 0) == bit l 510

def lineWait (l : FetchLine) : BitVec 12 := l.extractLsb' 480 12
def lineSetA (l : FetchLine) : Option Nat := if bit l 496 then some (bits l 495 492) else none
def lineSetB (l : FetchLine) : Option Nat := if bit l 501 then some (bits l 500 497) else none
def lineBtgt (l : FetchLine) (slot : Nat) : Bool := bit l (502 + slot)

/-- The first slots of the pairs that PAIR forms. -/
def linePairs (l : FetchLine) : List Nat :=
  match bits l 509 507 with
  | 0 => [] | 1 => [0] | 2 => [1] | 3 => [2] | 4 => [3] | 5 => [0, 2] | 6 => [0, 3] | _ => [1, 3]

/-- The illegal-line rules (08/R172). -/
def lineLegal (k : Machine.StreamKind) (l : FetchLine) : Bool :=
  (match lineSetA l with | some n => n < 12 | none => true) && (match lineSetB l with | some n => n < 12 | none => true)
    && (match lineSetA l, lineSetB l with | some a, some b => a != b | _, _ => true)
    && (List.range 5).all (fun i => match bits (slotWord l i) 13 12 with
        | 1 => bit l 496 | 2 => bit l 501 | _ => true)
    && (k == .execute || (bits l 491 480 == 0 && !bit l 496 && !bit l 501 && bits l 509 507 == 0))

/-- A line of five words and a line word, with the parity bits put in (08/R191). -/
def mkLine (w0 w1 w2 w3 w4 : W96) (lw : BitVec 30) : FetchLine :=
  let body : BitVec 510 := lw ++ w4 ++ w3 ++ w2 ++ w1 ++ w0
  BitVec.ofBool (Machine.parity 254 (bits body 509 256)) ++ BitVec.ofBool (Machine.parity 256 (bits body 255 0)) ++ body

/-! ### Host and management records -/

/-- The context command of a 16-byte write to context slot `c`'s page (18/R412; command 10 in 26/R459); none when CMD is
not in the tables. -/
def decodeCommand (c : Nat) (w0 w1 : W64) : Option Instr :=
  let arg : BitVec 56 := w0.extractLsb' 8 56
  match bits w0 7 0 with
  | 1 => some (.invalidate c arg w1)
  | 2 => some (.faultDone c arg w1)
  | 3 => some (.counterSet c arg w1)
  | 4 => some (.preemptBlock c arg w1)
  | 5 => some (.switchOut c arg w1)
  | 6 => some (.switchIn c arg w1)
  | 7 => some (.restartAfterHalt c arg w1)
  | 8 => some (.bindQueue c arg w1)
  | 9 => some (.unbindQueue c arg w1)
  | 10 => some (.contextMeasurementReport c arg w1)
  | _ => none

/-- A 64-byte management request record (26/R454). -/
def requestOf (conn : Nat) (r : List Byte) : MgmtReq :=
  { conn, op := (word64 r 0).extractLsb' 0 16, zero := (word64 r 0).extractLsb' 16 16, seq := (word64 r 0).extractLsb' 32 32
    p0 := word64 r 8, p1 := word64 r 16, p2 := word64 r 24, p3 := word64 r 32, p4 := word64 r 40, p5 := word64 r 48
    p6 := word64 r 56 }

/-- The decoder on a word numbered as spec/opcode_table.json numbers it: bits of the first word first. The table gives its
rows no bits, so `nbits` says how much of `w` counts; the bits above it are zero. -/
def decodeTableWord (nbits w : Nat) : Option Instr :=
  match decode (BitVec.ofNat 96 (w % 2 ^ nbits)) with
  | .ok i => some i
  | .error _ => none

end Sys2Proof
end

