-- ==== Sys2Proof/Machine/Home.lean ====
section
/-! DEFINITION. Memory at the home (02/R17-R30, R34-R40): layouts, bytes, the LLC and the banks, sector counts, poison, and every wider access,
each built from single bytes in little-endian order. -/

namespace Sys2Proof.Machine

/-! ### Layouts (02/R17-R25) -/

/-- The layout code of a group. -/
def layoutOf (s : State) (g : Nat) : Nat := bits (tabGet 0 s.lgrp (g / 32)) (2 * (g % 32) + 1) (2 * (g % 32))

/-- HBM addresses (02/R17). -/
def isHbm (pa : Nat) : Bool := pa < 2 ^ 40

/-- The group of an HBM address. -/
def groupOf (pa : Nat) : Nat := pa / 2 ^ 31

/-- The stack that a layout gives an offset (02/R22). -/
def stackUnder (lay o : Nat) : Nat :=
  match lay with
  | 0 => o / 2 ^ 12 % 16
  | 1 => o / 2 ^ 16 % 16
  | _ => o / 2 ^ 27 % 16

/-- The channel within its stack (02/R22). -/
def channelUnder (lay o : Nat) : Nat :=
  match lay with
  | 0 => o / 2 ^ 16 % 32
  | 1 => o / 2 ^ 11 % 32
  | _ => o / 2 ^ 22 % 32

/-- The home base die of an HBM address (02/R26). -/
def homeOf (s : State) (pa : Nat) : Nat := stackUnder (layoutOf s (groupOf pa)) (pa % 2 ^ 31)

/-- The channel of an HBM address, numbered over the device. -/
def chanOf (s : State) (pa : Nat) : Nat := homeOf s pa * 32 + channelUnder (layoutOf s (groupOf pa)) (pa % 2 ^ 31)

/-- Bank and row of an HBM address on its pseudo-channel, the pseudo-channel folded into the bank number (02/R22). -/
def bankRow (s : State) (pa : Nat) : Nat × Nat :=
  let o := pa % 2 ^ 31
  let g := groupOf pa
  match layoutOf s g with
  | 0 => (o / 2 ^ 10 % 2 * 64 + o / 2 ^ 21 % 32 * 2 + o / 2 ^ 11 % 2, 32 * g + o / 2 ^ 26 % 32)
  | 1 => (o / 2 ^ 10 % 2 * 64 + o / 2 ^ 20 % 64, 32 * g + o / 2 ^ 26 % 32)
  | _ => (o / 2 ^ 21 % 2 * 64 + o / 2 ^ 10 % 64, 32 * g + o / 2 ^ 16 % 32)

/-! ### Bytes -/

/-- What a byte of HBM that nothing has written reads as (log 2). -/
def unwritten : Byte := 0

/-- The canonical form of memory: addresses strictly rising, and no entry that an unlisted address reads as. -/
def Memory.wf (m : Tab Byte) : Bool := tabWf unwritten m

/-- LGRPSTAT.BUSY: a layout change is in progress, its groups those filled and those to be filled. -/
def layoutBusy (s : State) : Bool := s.fillQueue != []

/-- A group under a layout change: its bytes read as zero and stores to it are discarded until BUSY falls (02/R19). -/
def busyGroup (s : State) (pa : Nat) : Bool :=
  layoutBusy s && (s.fillQueue.contains (groupOf pa) || s.filled.contains (groupOf pa))

/-- The byte at an HBM address as the home performs a read: the LLC's where the LLC holds the byte, else the bank's. -/
def homeByte (s : State) (pa : Nat) : Byte := if busyGroup s pa then 0 else tabGet unwritten s.mem pa

/-- The byte that the bank stores: another one than the home's only while the home's is dirty in the LLC or stands in an
accepted write-back (02/R27, R39). -/
def bankByte (s : State) (pa : Nat) : Byte := (tabGet none s.stale pa).getD (tabGet unwritten s.mem pa)

/-- A byte written to the bank. -/
def setBankByte (s : State) (pa : Nat) (b : Byte) : State :=
  { s with stale := tabSet none s.stale pa (if b = tabGet unwritten s.mem pa then none else some b) }

/-- A write of one byte performed at the home, in the LLC: the bank keeps what it has. -/
def setHomeByte (s : State) (pa : Nat) (b : Byte) : State :=
  if busyGroup s pa then s
  else setBankByte { s with mem := tabSet unwritten s.mem pa b } pa (bankByte s pa)

/-- Writes of bytes performed at the home, in order. -/
def homeWrite (s : State) : List (Nat × Byte) → State
  | [] => s
  | (pa, b) :: r => homeWrite (setHomeByte s pa b) r

/-- The poison of lines that a store of the whole 128-byte line covers is cleared (02/R30). -/
def clearPoison (s : State) (bytes : List (Nat × Byte)) : State :=
  { s with poison := s.poison.filter fun l => !(List.range 128).all fun i => bytes.any fun p => p.1 == l + i }

/-- The registered cell granule that holds an address (02/R29). -/
def granuleOf (s : State) (pa : Nat) : Option Nat := s.granules.find? fun g => g ≤ pa && pa < g + 65536

/-- The 128-byte line that holds an address. -/
def lineOf (pa : Nat) : Nat := pa / 128 * 128

/-! ### Sector counts (02/R34-R38) -/

/-- Some group holds the sector counts. -/
def hasMetadata (s : State) : Bool :=
  s.lgrp.any fun p => (List.range 32).any fun i => bits p.2 (2 * i + 1) (2 * i) == 3

/-- A block with a meaningful count: in fine or coarse layout, outside the cell granules (02/R34). -/
def hasCount (s : State) (pa : Nat) : Bool :=
  layoutOf s (groupOf pa) < 2 && (granuleOf s pa).isNone && hasMetadata s

/-- A count looked up in the 512 KiB metadata cache of the block's base die, 1,048,576 counts: it is the most recent now, and
the one looked up longest ago makes room (02/R37, log 65). -/
def mdTouch (s : State) (pa : Nat) : State :=
  if !hasCount s pa then s
  else
    let base := homeOf s pa
    { s with mdc := tabSet [] s.mdc base ((pa / 256 :: (tabGet [] s.mdc base).filter (· != pa / 256)).take (2 ^ 20)) }

/-- Sectors of a block: 0, raw, for a block with no count and where the result needs 8 or more (02/R34-R36). -/
def sectorCount (s : State) (pa : Nat) (data : BitVec 2048) : BitVec 4 :=
  let n := max 1 (Config.sectors data)
  if !hasCount s pa ∨ 8 ≤ n then 0 else BitVec.ofNat 4 n

/-- A block whose count a fault has broken is written in part: what the write does not cover cannot be decoded, so its lines
are poisoned, and the address is logged (02/R38, 17/R396). -/
def spoilBlock (s : State) (pa : Nat) (mask : BitVec 256) : State :=
  if (tabGet 0 s.counts (pa / 256)).toNat < 8 then s
  else
    let block := pa / 256 * 256
    let whole := fun (i : Nat) => (mask >>> (128 * i)).setWidth 128 == BitVec.allOnes 128
    let bad := (([0, 1] : List Nat).filter fun i => !whole i && !s.poison.contains (block + 128 * i)).map fun i => block + 128 * i
    if bad = [] then s else { s with poison := bad ++ s.poison, out := s.out ++ [.machineCheckLog block] }

/-- The bytes that a block mask names, from the block upwards. -/
def blockBytes (block : Nat) (mask : BitVec 256) : List Nat :=
  (List.range 256).filterMap fun i => if bit mask i then some (block + i) else none

/-- The first accepted write-back is merged into its block and commits the block's sectors and its count as one unit
(02/R39-R40). -/
def commitOne (s : State) : State :=
  match s.commits with
  | [] => s
  | c :: r =>
    let s1 := spoilBlock (mdTouch { s with commits := r } c.pa) c.pa c.mask
    let s2 := (blockBytes c.pa c.mask).foldl (fun s pa => setBankByte s pa (c.data.extractLsb' (8 * (pa % 256)) 8)) s1
    let whole : BitVec 2048 := BitVec.ofNat 2048 (ofBytes ((List.range 256).map fun i => bankByte s2 (c.pa + i)))
    { s2 with counts := tabSet 0 s2.counts (c.pa / 256) (sectorCount s2 c.pa whole) }

/-- Every accepted write-back committed, in order. -/
def commitAll : Nat → State → State
  | 0, s => s
  | n + 1, s => commitAll n (commitOne s)

/-! ### The memory-side LLC (02/R26-R29) -/

/-- The set of a line, numbered over the slices of the device: each channel of each stack has 4,096 (log 64). -/
def llcKey (s : State) (pa : Nat) : Nat :=
  let r := bankRow s pa
  chanOf s pa * 4096 + ((r.2 * 128 + r.1) * 8 + pa / 128 % 8) % 4096

def llcSet (s : State) (pa : Nat) : List LlcLine := tabGet [] s.llc (llcKey s pa)

def putLlcSet (s : State) (pa : Nat) (ls : List LlcLine) : State := { s with llc := tabSet [] s.llc (llcKey s pa) ls }

def llcLine (s : State) (pa : Nat) : Option LlcLine := (llcSet s pa).find? (·.pa == lineOf pa)

/-- Ways of a set: 12, less what the base die's cell partition takes, 640 lines for each granule, taken from its 131,072 sets
in turn (02/R29, log 64). -/
def llcWays (s : State) (pa : Nat) : Nat :=
  let base := homeOf s pa
  let gone := 640 * (s.granules.filter fun g => homeOf s g == base).length
  12 - (gone / 131072 + if llcKey s pa % 131072 < gone % 131072 then 1 else 0)

/-- Dirty bytes of an LLC line written to the bank: compressed with its block, as an accepted write-back, if the context that
wrote them last is in compatibility mode, else raw (02/R27, R36). -/
def llcWriteBack (s : State) (l : LlcLine) : State :=
  if l.dirty = 0 then s
  else
    let block := l.pa / 256 * 256
    let mask : BitVec 256 := l.dirty.setWidth 256 <<< (l.pa % 256)
    if l.compat && hasCount s l.pa then
      { s with commits := s.commits ++ [{ pa := block, mask
                                          data := BitVec.ofNat 2048 (ofBytes ((List.range 256).map fun i =>
                                            if bit mask i then tabGet unwritten s.mem (block + i) else 0)) }] }
    else
      let s1 := spoilBlock (commitAll s.commits.length s) block mask
      let s2 := (blockBytes block mask).foldl (fun s pa => setBankByte s pa (tabGet unwritten s.mem pa)) s1
      { s2 with counts := tabSet 0 s2.counts (block / 256) 0 }

/-- Least recently used lines replaced until a set has fewer than `ways` lines (02/R27). -/
def llcEvict (ways : Nat) : List LlcLine → State → State × List LlcLine
  | [], s => (s, [])
  | l :: r, s => if r.length + 1 < ways then (s, l :: r) else llcEvict ways r (llcWriteBack s l)

/-- An access that the home performs in its LLC slice: bytes `m` of the line written, or, with none, the line read. A line that
is not there is filled; the line is the most recently used (02/R27). -/
def llcTouch (s : State) (pa : Nat) (m : BitVec 128) (compat : Bool) : State :=
  if !isHbm pa || busyGroup s pa then s
  else
    let read := m == 0
    match llcLine s pa with
    | some l =>
      let l1 := if read then { l with valid := BitVec.allOnes 128 }
                else { l with valid := l.valid ||| m, dirty := l.dirty ||| m, compat }
      putLlcSet s pa ((llcSet s pa).filter (·.pa != l.pa) ++ [l1])
    | none =>
      let p := llcEvict (llcWays s pa) (llcSet s pa) (if read then mdTouch s pa else s)
      putLlcSet p.1 pa (p.2 ++ [{ pa := lineOf pa, valid := if read then BitVec.allOnes 128 else m, dirty := m, compat }])

/-- Lines read at the home: each passes through its LLC slice. -/
def llcRead (s : State) (pas : List Nat) : State := ((pas.map lineOf).eraseDups).foldl (fun s l => llcTouch s l 0 false) s

/-- The lines of a row: its dirty bytes written to the bank, before a row step reads or writes it (02/R28). -/
def cleanRow (s : State) (row : Nat) : State :=
  (List.range 8).foldl (fun s i =>
    match llcLine s (row + 128 * i) with
    | none => s
    | some l => let s1 := llcWriteBack s l
                putLlcSet s1 l.pa ((llcSet s1 l.pa).map fun x => if x.pa = l.pa then { x with dirty := 0 } else x)) s

/-- The LLC copies of a row's lines invalidated, after a row step has written it (02/R28). -/
def dropRow (s : State) (row : Nat) : State :=
  (List.range 8).foldl (fun s i => putLlcSet s (row + 128 * i) ((llcSet s (row + 128 * i)).filter (·.pa != row + 128 * i))) s

/-- A row step writes a whole row to the bank: the LLC holds none of its lines any more (02/R28). -/
def rowWrite (s : State) (row : Nat) (bytes : List Byte) : State :=
  if busyGroup s row then s
  else
    let s1 := dropRow (cleanRow s row) row
    let puts := bytes.mapIdx fun i b => (row + i, b)
    clearPoison (puts.foldl (fun s p => { s with mem := tabSet unwritten s.mem p.1 p.2, stale := tabSet none s.stale p.1 none }) s1) puts

/-! ### Accesses at the home -/

/-- A mask of the bytes of a line that a list of writes names. -/
def bytesMask (line : Nat) (bytes : List (Nat × Byte)) : BitVec 128 :=
  bytes.foldl (fun m p => if lineOf p.1 = line then m ||| BitVec.ofNat 128 (1 <<< (p.1 % 128)) else m) 0

/-- A write performed at the home by a context in one of the two modes (02/R27, R30, R36). -/
def homeStoreAs (s : State) (compat : Bool) (bytes : List (Nat × Byte)) : State :=
  ((bytes.map fun p => lineOf p.1).eraseDups).foldl (fun s l => llcTouch s l (bytesMask l bytes) compat)
    (clearPoison (homeWrite s bytes) bytes)

/-- A write that is stored raw: by a context in native mode, the host, a peer, a microprogram or a Charon controller. -/
def homeStore (s : State) (bytes : List (Nat × Byte)) : State := homeStoreAs s false bytes

/-- `n` bytes from an HBM address. -/
def homeBytes (s : State) (pa n : Nat) : List Byte := (List.range n).map fun i => homeByte s (pa + i)

/-- The 64-bit word at an HBM address. -/
def home64 (s : State) (pa : Nat) : W64 := BitVec.ofNat 64 (ofBytes (homeBytes s pa 8))

/-- `bytes` written from an HBM address upwards. -/
def homePut (s : State) (pa : Nat) (bytes : List Byte) : State :=
  homeStore s (bytes.mapIdx fun i b => (pa + i, b))

/-- A line as a 1,024-bit value. -/
def homeLine (s : State) (pa : Nat) : VReg := BitVec.ofNat 1024 (ofBytes (homeBytes s (lineOf pa) 128))

/-- The fetch line at an HBM address. -/
def homeFetch (s : State) (pa : Nat) : FetchLine := BitVec.ofNat 512 (ofBytes (homeBytes s pa 64))

/-- The LLC holds the whole line, so that a read of it does not go to the bank. -/
def llcHolds (s : State) (pa : Nat) : Bool := (llcLine s pa).any fun l => l.valid == BitVec.allOnes 128

/-- A read that meets an uncorrectable error mark, or that goes to a bank for a block with a bad sector count, raises a machine
check (02/R30, R38); one of a group under a layout change reads zero (02/R19). A commit that is accepted is seen with its
count (02/R39). -/
def badRead (s : State) (pa : Nat) : Option McSource :=
  if busyGroup s pa then none
  else if s.poison.contains (lineOf pa) then some .poisonedLoad
  else if 8 ≤ (tabGet 0 s.counts (pa / 256)).toNat && !llcHolds s pa then some .compressionCount
  else none

/-- The address that a machine check names: the line, or the block of a bad count (17/R396, 02/R38). -/
def checkPa (src : McSource) (pa : Nat) : Nat := if src = .compressionCount then pa / 256 * 256 else lineOf pa

/-! ### Free values (00/R4, log 12) -/

/-- A free number, and the state with the counter advanced. -/
def fresh (s : State) : Nat × State := (Config.freeNat s.free, { s with free := s.free + 1 })

/-- `n` free numbers. -/
def freshes : Nat → State → List Nat × State
  | 0, s => ([], s)
  | n + 1, s =>
    let p := fresh s
    let q := freshes n p.2
    (p.1 :: q.1, q.2)

/-- A free condition-code set. -/
def freshCond (s : State) : Cond × State :=
  let n := fresh s
  (⟨n.1.testBit 0, n.1.testBit 1, n.1.testBit 2, n.1.testBit 3⟩, n.2)

/-- A number for a new unit (the model's own). -/
def newId (s : State) : Nat × State := (s.nextId, { s with nextId := s.nextId + 1 })

/-! ### Lookups -/

def findWarp (s : State) (id : Nat) : Option Warp := s.warps.find? (·.id == id)
def findBlock (s : State) (id : Nat) : Option Block := s.blocks.find? (·.id == id)
def findLaunch (s : State) (id : Nat) : Option Launch := s.launches.find? (·.id == id)
def findCtx (s : State) (slot : Nat) : Option Ctx := s.ctxs.find? (·.slot == slot)

def setWarp (s : State) (w : Warp) : State := { s with warps := updWhere (·.id == w.id) (fun _ => w) s.warps }
def setBlock (s : State) (b : Block) : State := { s with blocks := updWhere (·.id == b.id) (fun _ => b) s.blocks }
def setLaunch (s : State) (l : Launch) : State := { s with launches := updWhere (·.id == l.id) (fun _ => l) s.launches }
def setCtx (s : State) (c : Ctx) : State := { s with ctxs := updWhere (·.slot == c.slot) (fun _ => c) s.ctxs }

/-- Compute die of a core, cluster of a core, pair of a core, and its position (01/R8): 96 cores to a die, 8 to a cluster,
the even core of a pair leading. -/
def dieOf (core : Nat) : Nat := core / 96
def clusterOf (core : Nat) : Nat := core / 8
def pairOf (core : Nat) : Nat := core / 2
def leaderOf (core : Nat) : Nat := core / 2 * 2

/-- The context's compression mode is compatibility (03/R41). -/
def Ctx.compat (c : Ctx) : Bool := bit c.cfg 1

/-- The context's fault mode is replayable. -/
def Ctx.replays (c : Ctx) : Bool := bit c.cfg 0

/-- The units of a context run: it is loaded and not halted (15/R366, 17/R401). -/
def ctxRuns (s : State) (slot : Nat) : Bool := (findCtx s slot).any fun c => c.loaded && !c.halted

/-- A byte of a context is sealed while a complete seal covers it (04/R80-R81). -/
def sealedAt (c : Ctx) (va : Nat) : Bool := c.seals.any fun l => l.complete && l.va ≤ va && va < l.va + l.len

end Sys2Proof.Machine
end

