-- ==== Sys2Proof/Machine/Translate.lean ====
section
/-! DEFINITION. Address translation and the checks on every access (03/R41-R52, 02/R21, 18/R414-R415). -/

namespace Sys2Proof.Machine

/-- A fault before it is recorded: the fields of 03/R53 that the access itself gives. `buf` names the lines of lanes that
translated (03/R55). -/
structure Flt where
  kind : Nat
  acc : Nat
  va : Nat
  entry : W64 := 0
  level : Nat := 7
  prog4 : W64 := 0
  prog5 : W64 := 0
  buf : List Nat := []
  /-- the spec names no address for it: the record's VA is a free value (log 23) -/
  vaFree : Bool := false
  /-- handled as in 03/R54 whatever FMODE holds -/
  fatal : Bool := false
deriving DecidableEq, Repr

/-- What a translation gives: the physical address, the layout attribute, the CELL attribute, XWR, and the entry. -/
structure Xlat where
  pa : Nat
  layout : Nat
  cell : Bool
  xwr : Nat
  entry : W64
  /-- 7 for a range entry, else the level of the leaf -/
  level : Nat
  /-- the virtual address -/
  va : Nat := 0
  /-- the page, for the translation caches -/
  page : Nat := 0
  size : Nat := 0
  /-- the page-table entries that the walk used, with their PAs, the leaf last -/
  path : List (Nat × W64) := []
deriving DecidableEq, Repr

/-- No translation. -/
def noXlat : Xlat := { pa := 0, layout := 0, cell := false, xwr := 0, entry := 0, level := 7 }

/-- A range entry's VA bounds match (03/R43). -/
def RangeEntry.matches (e : RangeEntry) (va : Nat) : Bool :=
  bit e.w0 0 && bits e.w0 55 12 ≤ va / 4096 && va / 4096 ≤ bits e.w1 55 12

/-- A range entry whose reserved bits are not zero, or whose layout is 0b11 (03/R42-R43). -/
def RangeEntry.malformed (e : RangeEntry) : Bool :=
  bits e.w0 63 56 != 0 || bits e.w0 11 1 != 0 || bits e.w1 63 56 != 0 || bits e.w1 11 0 != 0 || bits e.w2 63 52 != 0
    || bits e.w2 11 0 != 0 || bits e.w3 63 6 != 0 || bits e.w3 4 3 == 3

/-- Index of a VA at a level, and the span of one entry there (03/R44). -/
def levelSpan : Nat → Nat
  | 0 => 2 ^ 12 | 1 => 2 ^ 21 | 2 => 2 ^ 30 | 3 => 2 ^ 39 | _ => 2 ^ 48

def levelIndex (va level : Nat) : Nat := va / levelSpan level % (if level = 4 then 256 else 512)

/-- Page size of a SIZE code at its level (03/R46). -/
def pageSize (size level : Nat) : Option Nat :=
  if level = 0 ∧ size ≤ 4 then some (2 ^ (12 + 2 * size))
  else if level = 1 ∧ 5 ≤ size ∧ size ≤ 9 then some (2 ^ (if size = 5 then 21 else 22 + 2 * (size - 6)))
  else if level = 1 ∧ size = 10 then some (2 ^ 29)
  else if level = 2 ∧ size = 11 then some (2 ^ 30)
  else none

/-- One of `n` ways to serve an access where 03/R52 leaves the choice open: free for each 16 bytes of a page and each `k`. -/
def freeOf (s : State) (va k n : Nat) : Nat :=
  if n ≤ 1 then 0 else Config.pick s.choice / 2 ^ (64 * (va / 16 % 256) + 8 * k) % n

/-- Level of the leaf of a page of a size (03/R46). -/
def leafLevel (size : Nat) : Nat := if size ≤ 2 ^ 20 then 0 else if size ≤ 2 ^ 29 then 1 else 2

/-- A valid leaf of a page as a walk or a TLB gives it; a fault found on it names the level of the leaf (log 66). -/
def leafXlat (va size : Nat) (e : W64) : Xlat :=
  { pa := bits e 51 12 * 4096 + va % size, layout := bits e 59 58, cell := bit e 57, xwr := bits e 4 2, entry := e
    level := leafLevel size, va, page := va / size * size, size }

/-- The table entries of a context at a PA that walk caches hold. -/
def walkCached (s : State) (ctx pa : Nat) : List W64 :=
  s.walkCache.flatMap fun d => (d.2.filter fun e => e.ctx == ctx && e.pa == pa).map (·.entry)

/-- The walk from a level down (03/R44-R48): the table at `table`, read at its home; where a walk cache holds another value of
a table entry, either may be used (03/R52). LAYOUT and CELL must be zero in a table entry, as SIZE and XWR (log 66). The entry
at the VA's own index decides for a replicated page (log 66). -/
def walk (s : State) (ctx va acc : Nat) : Nat → Nat → Except Flt Xlat
  | table, level =>
    let at_ := table + 8 * levelIndex va level
    if !isHbm at_ then .error { kind := 7, acc, va, level } else
    let now := home64 s at_
    let old := (walkCached s ctx at_).filter (· != now)
    let e := nth now (now :: old) (freeOf s va level (old.length + 1))
    let leafBad := (bits e 63 60 != 0 && !bit e 5) || bits e 56 52 != 0 || bits e 11 6 != 0 || bit e 1
    if !bit e 0 then .error { kind := 1, acc, va, entry := e, level }
    else if leafBad then .error { kind := 5, acc, va, entry := e, level }
    else if bit e 5 then
      match pageSize (bits e 63 60) level with
      | none => .error { kind := 5, acc, va, entry := e, level }
      | some size =>
        if bits e 51 12 * 4096 % size ≠ 0 then .error { kind := 5, acc, va, entry := e, level }
        else .ok { leafXlat va size e with path := [(at_, e)] }
    else if bits e 59 57 != 0 || bits e 4 2 != 0 then .error { kind := 5, acc, va, entry := e, level }
    else match level with
      | 0 => .error { kind := 5, acc, va, entry := e, level }
      | l + 1 => match walk s ctx va acc (bits e 51 12 * 4096) l with
        | .ok x => .ok { x with path := (at_, e) :: x.path }
        | .error f => .error f

/-- The translations of a VA that TLBs hold for a context. -/
def tlbHits (s : State) (ctx va : Nat) : List TlbEntry :=
  let mine := fun (t : TlbEntry) => t.ctx == ctx && t.va ≤ va && va < t.va + t.size
  s.quadTlb.flatMap (fun p => p.2.filter mine) ++ s.coreTlb.flatMap fun p => p.2.filter mine

/-- Checks 1 and 2 of 03/R49. Where TLBs hold translations of the page that differ from what a walk now gives, any of them
may be used (03/R52): the choice is free. -/
def lookup (s : State) (c : Ctx) (va acc : Nat) : Except Flt Xlat :=
  if 2 ^ 56 ≤ va then .error { kind := 6, acc, va } else
  match c.ranges.find? (·.matches va) with
  | some e =>
    if e.malformed then .error { kind := 5, acc, va, entry := e.w3 }
    else .ok { pa := bits e.w2 51 12 * 4096 + (va - bits e.w0 55 12 * 4096), layout := bits e.w3 4 3, cell := bit e.w3 5
               xwr := bits e.w3 2 0, entry := e.w3, level := 7, va }
  | none =>
    let now := walk s c.slot va acc (bits c.root 51 12 * 4096) 4
    let olds := (((tlbHits s c.slot va).map fun t => leafXlat va t.size t.leaf).filter fun x =>
      match now with | .ok y => x.entry != y.entry | .error _ => true).eraseDups
    nth now (now :: olds.map .ok) (freeOf s va 5 (olds.length + 1))

/-- What an access needs: permission bits of XWR, whether it is a cell operation, and its ACC code (03/R49, R461). -/
structure Need where
  perm : Nat
  cell : Bool := false
  /-- check 4 is not made (09/R213) -/
  anyCell : Bool := false
  acc : Nat
  /-- writes, so that seals are checked (04/R81) -/
  writes : Bool := false
  /-- may go through a peer window (18/R415) -/
  peer : Bool := true
deriving DecidableEq, Repr

def needLoad : Need := { perm := 1, acc := 0 }
def needStore : Need := { perm := 2, acc := 1, writes := true }
def needAtomic : Need := { perm := 3, acc := 2, writes := true }
def needFetch : Need := { perm := 4, acc := 3, peer := false }

/-- The peer entry behind a peer-window address, when it names a peer that answers (18/R414-R415). -/
def peerOf (s : State) (pa : Nat) : Option Nat :=
  let p := pa / 2 ^ 40 % 256
  if pa / 2 ^ 48 = 1 ∧ bit (tabGet 0 s.peers p) 63 ∧ !s.silent.contains p then some p else none

/-- The checks of 03/R49 on one byte, in order, and the seal check of 04/R81. -/
def checkByte (s : State) (c : Ctx) (n : Need) (va : Nat) : Except Flt Xlat :=
  match lookup s c va n.acc with
  | .error e => .error e
  | .ok x =>
    let f : Flt := { kind := 0, acc := n.acc, va, entry := x.entry, level := x.level }
    if x.xwr &&& n.perm ≠ n.perm then .error { f with kind := 2 }
    else if n.anyCell = false ∧ x.cell ≠ n.cell then .error { f with kind := 3 }
    else if !(isHbm x.pa || (n.peer && (peerOf s x.pa).isSome)) then .error { f with kind := 7 }
    else if isHbm x.pa && (x.layout ≠ layoutOf s (groupOf x.pa) || layoutOf s (groupOf x.pa) = 3) then .error { f with kind := 4 }
    else if n.writes && sealedAt c va then .error { f with kind := 8 }
    else .ok x

/-- The checks on `len` bytes, byte by byte, the lowest failing VA deciding (03/R50). -/
def checkBytes (s : State) (c : Ctx) (n : Need) (va : Nat) : Nat → Except Flt (List Xlat)
  | 0 => .ok []
  | len + 1 =>
    match checkByte s c n va with
    | .error e => .error e
    | .ok x =>
      match checkBytes s c n (va + 1) len with
      | .error e => .error e
      | .ok r => .ok (x :: r)

/-- The checks on a long range: one byte in each 4 KiB page, since attributes, permissions and mappings are constant within
a page, and every byte of a range that a seal touches. -/
def checkRange (s : State) (c : Ctx) (n : Need) (va len : Nat) : Except Flt Unit :=
  let pages := (List.range ((va + len + 4095) / 4096 - va / 4096)).map fun i => max va ((va / 4096 + i) * 4096)
  let seals := if n.writes then (c.seals.filter fun l => l.complete && l.va < va + len && va < l.va + l.len).map fun l => max va l.va else []
  let bad := (pages ++ seals).filterMap fun a =>
    match checkByte s c n a with | .error e => if a < va + len then some e else none | .ok _ => none
  match bad with
  | [] => .ok ()
  | e :: r => .error (r.foldl (fun m x => if x.va < m.va then x else m) e)

/-- An entry put into a cache of `n` entries; a full one gives up a free choice of its entries (log 67). -/
def cachePut {α : Type} [DecidableEq α] (s : State) (k n : Nat) (x : α) (l : List α) : List α :=
  if l.contains x then l else if l.length < n then x :: l else x :: l.eraseIdx (freeOf s 0 k n)

/-- A translation kept by the quadrant's TLB and the core's, and its table entries by the walk cache of the die; the entries
that no cache held are read at their homes through the LLC (03/R48, R51). -/
def remember (s : State) (core quad ctx : Nat) (x : Xlat) : State :=
  if x.size = 0 then s
  else
    let t : TlbEntry := ⟨ctx, x.page, x.size, x.entry⟩
    let kq := core * 4 + quad
    let kc := core * 256 + x.page / x.size % 256
    let kd := core / 96
    let inQuad := (tabGet [] s.quadTlb kq).contains t
    let inCore := (tabGet [] s.coreTlb kc).contains t
    if inQuad && inCore then s
    else
      let ws := tabGet [] s.walkCache kd
      let tables := x.path.dropLast.map fun p => (⟨ctx, p.1, p.2⟩ : WalkEntry)
      let s1 := if inQuad || inCore then s
                else llcRead s ((x.path.map (·.1)).filter fun pa => !ws.any fun e => e.ctx == ctx && e.pa == pa)
      { s1 with
        quadTlb := tabSet [] s1.quadTlb kq (cachePut s 6 64 t (tabGet [] s1.quadTlb kq))
        coreTlb := tabSet [] s1.coreTlb kc (cachePut s 7 8 t (tabGet [] s1.coreTlb kc))
        walkCache := tabSet [] s1.walkCache kd (tables.foldl (fun l e => cachePut s 4 4096 e l) ws) }

/-- Translations of a context removed from every cache: those of pages that touch a range, and the table entries that lead to
them, of which none is known to lead elsewhere only (03/R52). -/
def dropXlats (s : State) (ctx lo hi : Nat) : State :=
  let keep := fun (t : TlbEntry) => !(t.ctx == ctx && t.va < hi && lo < t.va + t.size)
  let prune := fun (m : Tab (List TlbEntry)) => (m.map fun p => (p.1, p.2.filter keep)).filter (·.2 != [])
  { s with
    quadTlb := prune s.quadTlb
    coreTlb := prune s.coreTlb
    walkCache := (s.walkCache.map fun p => (p.1, p.2.filter (·.ctx != ctx))).filter (·.2 != []) }

/-- The range table read at its home (03/R42). -/
def readRanges (s : State) (rng : W64) : List RangeEntry :=
  (List.range 64).map fun i =>
    let b := bits rng 51 11 * 2048 + 32 * i
    ⟨home64 s b, home64 s (b + 8), home64 s (b + 16), home64 s (b + 24)⟩

/-- Bytes of a context's memory read at the home, none where a check fails or a read is bad. -/
def vaBytes (s : State) (c : Ctx) (n : Need) (va len : Nat) : Except Flt (List Byte) :=
  match checkBytes s c n va len with
  | .error e => .error e
  | .ok xs => .ok (xs.map fun x => homeByte s x.pa)

end Sys2Proof.Machine
end

