-- ==== Sys2Proof/Machine/Cache.lean ====
section
/-! DEFINITION. The L2 of a die and the L1 of a core (04/R59-R72), write-back (R69-R70), and what a release and an acquire do
to them (07/R135-R140). Sets hold their lines least recently used first. -/

namespace Sys2Proof.Machine

/-! ### Lines -/

/-- A byte mask spread over the bits of a line. -/
def spread (m : BitVec 128) : VReg :=
  BitVec.ofNat 1024 ((List.range 128).foldl (fun a i => if bit m i then a + 255 <<< (8 * i) else a) 0)

/-- `old` with the bytes of `new` that the mask names. -/
def mergeLine (old new : VReg) (m : BitVec 128) : VReg := (old &&& ~~~ spread m) ||| (new &&& spread m)

/-- The masked bytes of a line, with their addresses. -/
def maskedBytes (pa : Nat) (data : VReg) (m : BitVec 128) : List (Nat × Byte) :=
  (List.range 128).filterMap fun i => if bit m i then some (pa + i, (data.extractLsb' (8 * i) 8 : Byte)) else none

/-- Bytes at an offset of a line as data and mask. -/
def placeBytes (off : Nat) (bytes : List Byte) : VReg × BitVec 128 :=
  (BitVec.ofNat 1024 (ofBytes bytes <<< (8 * off)), BitVec.ofNat 128 ((2 ^ bytes.length - 1) <<< off))

def allBytes : BitVec 128 := BitVec.allOnes 128

/-- Elements of a width in bytes. -/
def elements (data : VReg) (w : Nat) : List Nat := (List.range (128 / w)).map fun i => bits data (8 * w * i + 8 * w - 1) (8 * w * i)

/-- A base and signed deltas of `d` bytes represent the line (04/R61). -/
def deltasFit (data : VReg) (w d : Nat) : Bool :=
  let es := elements data w
  es.all fun e =>
    let x := sextNat (8 * w) (e + 2 ^ (8 * w) - es.headD 0)
    decide (-(2 ^ (8 * d - 1) : Int) ≤ x) && decide (x < (2 ^ (8 * d - 1) : Int))

/-- The encoding code of a line (04/R61-R62): 0 for a partial line and in compatibility mode. -/
def lineCode (data : VReg) (valid : BitVec 128) (compat : Bool) : Nat :=
  if compat || valid != allBytes then 0
  else if data = 0 then 1
  else if (elements data 8).all (· == (elements data 8).headD 0) then 2
  else if deltasFit data 8 1 then 3
  else if deltasFit data 4 1 then 4
  else if deltasFit data 8 2 then 5
  else if deltasFit data 4 2 then 6
  else if deltasFit data 8 4 then 7
  else 0

/-- Data halves that a code uses (04/R61). -/
def codeHalves (code : Nat) : Nat := if code = 0 then 2 else if code ≤ 2 then 0 else 1

def CacheLine.halves (l : CacheLine) : Nat := codeHalves l.code

/-! ### Write-back to the home (04/R70, 02/R36-R40) -/

/-- Dirty bytes of a line performed at the home, in the mode of the context that changed them. -/
def writeHome (s : State) (l : CacheLine) : State :=
  if l.dirty = 0 then s else homeStoreAs s l.compat (maskedBytes l.pa l.data l.dirty)

/-! ### The L2 -/

def l2Key (die pa : Nat) : Nat := die * 32768 + pa / 128 % 32768

def l2Set (s : State) (die pa : Nat) : List CacheLine := tabGet [] s.l2 (l2Key die pa)

def putL2Set (s : State) (die pa : Nat) (ls : List CacheLine) : State :=
  { s with l2 := tabSet [] s.l2 (l2Key die pa) ls }

def l2Line (s : State) (die pa : Nat) : Option CacheLine := (l2Set s die pa).find? (·.pa == lineOf pa)

/-- WAYS of a die's retention register, 0 when it is not valid. -/
def rtnWays (s : State) (die num : Nat) : Nat :=
  match s.rtn.find? (fun r => r.die == die && r.num == num) with
  | some r => bits r.word 62 59
  | none => 0

/-- Ways reserved on a die. -/
def reservedWays (s : State) (die : Nat) : Nat :=
  ((s.rtn.filter (·.die == die)).map fun r => bits r.word 62 59).foldl (· + ·) 0

/-- The retention register of a context whose range holds a VA (04/R66); where two hold it, the one set last (log 66). -/
def rtnFor (s : State) (die ctx va : Nat) : Option Nat :=
  (s.rtn.find? fun r => r.die == die && r.ctx == ctx && bits r.word 39 0 * 65536 ≤ va
    && va < (bits r.word 39 0 + bits r.word 55 40 + 1) * 65536).map (·.num)

/-- The register is valid for the context on the die. -/
def rtnValid (s : State) (die ctx num : Nat) : Bool := s.rtn.any fun r => r.die == die && r.ctx == ctx && r.num == num

def halvesOf (ls : List CacheLine) : Nat := (ls.map (·.halves)).foldl (· + ·) 0

/-- Evict least recently used unreserved lines until a line with `h` halves fits beside them (04/R64). -/
def evictL2 (s : State) (die h : Nat) : Nat → List CacheLine → State × List CacheLine
  | 0, ls => (s, ls)
  | n + 1, ls =>
    let free := ls.filter (·.rtn.isNone)
    let cap := 32 - 2 * reservedWays s die
    if free.length + 1 ≤ cap ∧ halvesOf free + h ≤ cap then (s, ls)
    else match free with
      | [] => (s, ls)
      | v :: _ => evictL2 (writeHome s v) die h n (ls.filter fun l => l.pa != v.pa)

/-- Unreserved lines, least recently used first: those that go until the others take no more than `cap` tags and halves, and
the others (04/R64). -/
def trimLines (cap : Nat) : List CacheLine → List CacheLine × List CacheLine
  | [] => ([], [])
  | l :: r =>
    if r.length + 1 ≤ cap ∧ halvesOf (l :: r) ≤ cap then ([], l :: r) else (l :: (trimLines cap r).1, (trimLines cap r).2)

/-- What a set keeps beside the reserved ways of its die. -/
def trimSet (cap : Nat) (ls : List CacheLine) : List CacheLine :=
  let p := trimLines cap (ls.filter (·.rtn.isNone))
  if p.1.isEmpty then ls else ls.filter (·.rtn.isSome) ++ p.2

/-- Every set of a die frees the tags and halves that its retention registers reserve (25/R442). -/
def freeReserved (s : State) (die : Nat) : State :=
  let cap := 32 - 2 * reservedWays s die
  let gone := (s.l2.filter (·.1 / 32768 == die)).flatMap fun p => (trimLines cap (p.2.filter (·.rtn.isNone))).1
  { gone.foldl writeHome s with l2 := s.l2.map fun p => if p.1 / 32768 = die then (p.1, trimSet cap p.2) else p }

/-- Put a line, absent from its set, into the set: into its reserved part if it fits there, else among the unreserved lines
(04/R63-R64, R67). -/
def placeL2 (s : State) (die : Nat) (l : CacheLine) (ef : Bool) : State :=
  let ls := l2Set s die l.pa
  let kept : Bool := match l.rtn with
    | none => false
    | some r =>
      let part := ls.filter (·.rtn == some r)
      let w := rtnWays s die r
      part.length + 1 ≤ 2 * w && halvesOf part + l.halves ≤ 2 * w
  if kept then putL2Set s die l.pa (ls ++ [{ l with ef := false }])
  else
    let l := { l with rtn := none, ef }
    let p := evictL2 s die l.halves 33 ls
    putL2Set p.1 die l.pa (if ef then l :: p.2 else p.2 ++ [l])

/-- Change a line where it stands: re-encode it; a reserved part it no longer fits in lets it go (04/R62, R67). An access with
the hint leaves the line where it stands in the order (04/R63). -/
def changeL2 (s : State) (die : Nat) (l : CacheLine) (ef : Bool) : State :=
  let l := { l with code := lineCode l.data l.valid l.compat }
  let set := l2Set s die l.pa
  let rest := set.filter fun x => x.pa != l.pa
  let here := fun (keep : List CacheLine) =>
    (set.map fun x => if x.pa = l.pa then l else x).filter fun x => x.pa = l.pa || keep.any (·.pa == x.pa)
  match l.rtn with
  | some r =>
    let part := rest.filter (·.rtn == some r)
    let w := rtnWays s die r
    if part.length + 1 ≤ 2 * w ∧ halvesOf part + l.halves ≤ 2 * w then
      putL2Set s die l.pa (if ef then here rest else rest ++ [{ l with ef := false }])
    else placeL2 (putL2Set s die l.pa rest) die { l with rtn := none } false
  | none =>
    let p := evictL2 s die l.halves 33 rest
    putL2Set p.1 die l.pa (if ef then here p.2 else p.2 ++ [{ l with ef := false }])

/-- Who makes an access: core, context, and the warp whose stores are being tracked. -/
structure Who where
  core : Nat
  ctx : Nat
  compat : Bool
  warp : Nat
  quad : Nat := 0
deriving DecidableEq, Repr

def Who.die (w : Who) : Nat := dieOf w.core

/-- A write of bytes performed in a die's L2: merged, dirty and valid (04/R70). -/
def storeL2 (s : State) (w : Who) (pa : Nat) (data : VReg) (m : BitVec 128) (ef : Bool) (rtn : Option Nat)
    (writers : List Nat) : State :=
  match l2Line s w.die pa with
  | some l => changeL2 s w.die { l with
      data := mergeLine l.data data m, valid := l.valid ||| m, dirty := l.dirty ||| m, compat := w.compat
      writers := (l.writers ++ writers).eraseDups } ef
  | none =>
    let valid := m
    placeL2 { s with fillNo := s.fillNo + 1 } w.die
      { pa := lineOf pa, data := mergeLine 0 data m, valid, dirty := m, rtn, compat := w.compat, writers
        code := lineCode (mergeLine 0 data m) valid w.compat, fill := s.fillNo } ef

/-- A line filled from the home, over the dirty bytes of a copy that the set holds: a fill whose VA is pinned is marked, else
a copy's mark stays (04/R63, R66-R67). The line's bytes. -/
def fillL2 (s : State) (w : Who) (va pa : Nat) (old : Option CacheLine) (ef : Bool) : State × VReg :=
  let data := match old with
    | some l => mergeLine (homeLine s pa) l.data l.dirty
    | none => homeLine s pa
  let base : CacheLine := old.getD { pa := lineOf pa }
  let rtn := match rtnFor s w.die w.ctx va with
    | some r => some r
    | none => base.rtn
  let line := { base with
    data, valid := allBytes, rtn, compat := w.compat, code := lineCode data allBytes w.compat, fill := s.fillNo, ctx := w.ctx }
  let s1 := llcRead { putL2Set s w.die pa ((l2Set s w.die pa).filter fun x => x.pa != lineOf pa) with fillNo := s.fillNo + 1 } [pa]
  -- a line that leaves its reserved part stands at the most recently used end (R67)
  (placeL2 s1 w.die line (ef && base.rtn.isNone), data)

/-- A line read through a die's L2 for a core: a hit when every byte needed is valid, else filled from the home; under an
acquire of device scope a line filled before it counts as absent, but for its dirty bytes (04/R62-R63, 07/R140). Returns the
line's bytes, which of them are valid, and whether it hit. -/
def loadL2 (s : State) (w : Who) (va pa : Nat) (need : BitVec 128) (ef keep : Bool) : State × VReg × BitVec 128 × Bool :=
  let old := l2Line s w.die pa
  match old.filter fun l => l.valid &&& need == need && (keep || tabGet 0 s.acq w.core ≤ l.fill) with
  | some l =>
    (if ef then s else
      let rest := (l2Set s w.die pa).filter fun x => x.pa != l.pa
      putL2Set s w.die pa (rest ++ [{ l with ef := false }]), l.data, l.valid, true)
  | none =>
    let r := fillL2 s w va pa old ef
    (r.1, r.2, allBytes, false)

/-- Whether a read of bytes through a die's L2 goes on to the home. -/
def missesL2 (s : State) (w : Who) (pa : Nat) (need : BitVec 128) (keep : Bool) : Bool :=
  match l2Line s w.die pa with
  | some l => !(decide (l.valid &&& need = need)) || (!keep && l.fill < tabGet 0 s.acq w.core)
  | none => true

/-- Write back a line's dirty bytes from a die's L2; the line stays, clean. -/
def cleanL2 (s : State) (die : Nat) (l : CacheLine) : State :=
  let s1 := writeHome s l
  putL2Set s1 die l.pa ((l2Set s1 die l.pa).map fun x => if x.pa = l.pa then { x with dirty := 0, writers := [] } else x)

/-- Remove a line from a die's L2. -/
def dropL2 (s : State) (die pa : Nat) : State :=
  putL2Set s die pa ((l2Set s die pa).filter fun x => x.pa != lineOf pa)

/-! ### The L1 -/

/-- The core's cluster is fused. -/
def isFused (s : State) (core : Nat) : Bool := s.fused.contains (clusterOf core)

/-- The core that holds a line: a fused cluster slices its L1 by PA[9:7] (04/R72). -/
def l1Core (s : State) (core pa : Nat) : Nat := if isFused s core then clusterOf core * 8 + pa / 128 % 8 else core

/-- The set of a line: PA[14:7] in a private L1 (04/R69), PA[17:10] within a slice of a fused one, so that its 2 MiB are used
(log 66). -/
def l1Key (s : State) (core pa : Nat) : Nat :=
  l1Core s core pa * 256 + (if isFused s core then pa / 1024 % 256 else pa / 128 % 256)

def l1Set (s : State) (core pa : Nat) : List CacheLine := tabGet [] s.l1 (l1Key s core pa)

def putL1Set (s : State) (core pa : Nat) (ls : List CacheLine) : State :=
  { s with l1 := tabSet [] s.l1 (l1Key s core pa) ls }

def l1Line (s : State) (core pa : Nat) : Option CacheLine := (l1Set s core pa).find? (·.pa == lineOf pa)

/-- Dirty bytes of an L1 line of a core written back to the L2; the mark passes if the register is still valid for the context
that allocated the line (04/R66, R70). The write-back has the hint where the line is marked evict-first (log 66). -/
def writeL1Back (s : State) (core : Nat) (l : CacheLine) : State :=
  if l.dirty = 0 then s
  else
    let w : Who := { core, ctx := l.ctx, compat := l.compat, warp := 0 }
    storeL2 s w l.pa l.data l.dirty l.ef (l.rtn.filter (rtnValid s w.die l.ctx)) l.writers

/-- Put a line, absent from its L1 set, in, at the end that the hint gives; the least recently used of 8 ways goes first
(04/R63, R69). -/
def placeL1 (s : State) (w : Who) (l : CacheLine) (ef : Bool) : State :=
  let ls := l1Set s w.core l.pa
  let put := fun (ls : List CacheLine) => if ef then { l with ef } :: ls else ls ++ [{ l with ef }]
  match ls with
  | v :: rest =>
    if 8 ≤ ls.length then putL1Set (writeL1Back s w.core v) w.core l.pa (put rest) else putL1Set s w.core l.pa (put ls)
  | [] => putL1Set s w.core l.pa (put [])

/-- Replace a line of its L1 set; an access without the hint makes it most recently used (04/R63, R69). -/
def changeL1 (s : State) (core : Nat) (l : CacheLine) (ef : Bool) : State :=
  let ls := l1Set s core l.pa
  putL1Set s core l.pa (if ef then ls.map fun x => if x.pa = l.pa then l else x
    else (ls.filter fun x => x.pa != l.pa) ++ [{ l with ef := false }])

/-- Replace the set's line of the same address, where it stands; one with no valid byte leaves. -/
def keepL1 (s : State) (core : Nat) (l : CacheLine) : State :=
  let ls := l1Set s core l.pa
  putL1Set s core l.pa (if l.valid = 0 then ls.filter fun x => x.pa != l.pa else ls.map fun x => if x.pa = l.pa then l else x)

/-- Store bytes of one line in the core's L1 (04/R69). -/
def storeL1 (s : State) (w : Who) (va pa : Nat) (data : VReg) (m : BitVec 128) (ef : Bool) : State :=
  match l1Line s w.core pa with
  | some l => changeL1 s w.core { l with
      data := mergeLine l.data data m, valid := l.valid ||| m, dirty := l.dirty ||| m, compat := w.compat
      writers := (w.warp :: l.writers).eraseDups } ef
  | none => placeL1 s w { pa := lineOf pa, data := mergeLine 0 data m, valid := m, dirty := m, compat := w.compat
                          rtn := rtnFor s w.die w.ctx va, writers := [w.warp], ctx := w.ctx } ef

/-- A bypassing store goes to the L2; a copy in the L1 takes the bytes too and their dirty bits clear (04/R71). -/
def storeBypass (s : State) (w : Who) (va pa : Nat) (data : VReg) (m : BitVec 128) (ef : Bool) : State :=
  let s1 := storeL2 s w pa data m ef (rtnFor s w.die w.ctx va) [w.warp]
  match l1Line s1 w.core pa with
  | some l => keepL1 s1 w.core { l with data := mergeLine l.data data m, valid := l.valid ||| m, dirty := l.dirty &&& ~~~ m }
  | none => s1

/-- Bytes of a line that a load takes from the L2: those not valid in the L1, or, when it bypasses, those not dirty there
(04/R69, R71). -/
def wantsL2 (s : State) (w : Who) (pa : Nat) (need : BitVec 128) (bypass : Bool) : BitVec 128 :=
  match l1Line s w.core pa with
  | some l => need &&& ~~~ (if bypass then l.dirty else l.valid)
  | none => need

/-- A plain load of one line's bytes by a core (04/R69, R71): bytes fetched into the L1 are a fill there, also of a line it
holds. A bypassing load drops the clean bytes of the L1 that it has read past, so that no later load of a lane goes back to
them (07/R137). The last component: whether the L2 was looked up, and hit. -/
def loadLine (s : State) (w : Who) (va pa : Nat) (need : BitVec 128) (ef bypass keep : Bool) : State × VReg × Option Bool :=
  let want := wantsL2 s w pa need bypass
  match l1Line s w.core pa with
  | some l =>
    if want = 0 then (if bypass then s else changeL1 s w.core l ef, l.data, none)
    else
      let r := loadL2 s w va pa want ef keep
      if bypass then (keepL1 r.1 w.core { l with valid := l.valid &&& ~~~ want ||| l.dirty }, mergeLine r.2.1 l.data l.dirty, some r.2.2.2)
      else
        let data := mergeLine (mergeLine l.data r.2.1 r.2.2.1) l.data l.dirty
        let gone := putL1Set r.1 w.core pa ((l1Set r.1 w.core pa).filter fun x => x.pa != l.pa)
        (placeL1 gone w { l with data, valid := l.valid ||| r.2.2.1 } ef, data, some r.2.2.2)
  | none =>
    let r := loadL2 s w va pa want ef keep
    if bypass then (r.1, r.2.1, some r.2.2.2)
    else (placeL1 r.1 w { pa := lineOf pa, data := r.2.1, valid := r.2.2.1, compat := w.compat
                          rtn := rtnFor s w.die w.ctx va, ctx := w.ctx } ef, r.2.1, some r.2.2.2)

/-- A line as a load by the core would now see it, without a change to any cache. -/
def viewLine (s : State) (w : Who) (pa : Nat) : VReg :=
  let d2 := match l2Line s w.die pa with
    | some l => mergeLine (homeLine s pa) l.data (if l.fill < tabGet 0 s.acq w.core then l.dirty else l.valid)
    | none => homeLine s pa
  match l1Line s w.core pa with
  | some l => mergeLine d2 l.data l.valid
  | none => d2

/-- Write back one line of the core's L1; it stays, clean. -/
def cleanL1 (s : State) (core : Nat) (l : CacheLine) : State :=
  keepL1 (writeL1Back s core l) core { l with dirty := 0, writers := [] }

/-- Remove a line from the core's L1. -/
def dropL1 (s : State) (core pa : Nat) : State :=
  putL1Set s core pa ((l1Set s core pa).filter fun x => x.pa != lineOf pa)

/-- Every line of a core's L1. -/
def l1Lines (s : State) (core : Nat) : List CacheLine :=
  (s.l1.filter fun p => p.1 / 256 == core).flatMap (·.2)

/-- Every line of a die's L2. -/
def l2Lines (s : State) (die : Nat) : List CacheLine :=
  (s.l2.filter fun p => p.1 / 32768 == die).flatMap (·.2)

/-- The cores whose L1s may hold a core's stores: itself, or its fused cluster. -/
def l1Cores (s : State) (core : Nat) : List Nat :=
  if isFused s core then (List.range 8).map (clusterOf core * 8 + ·) else [core]

/-! ### Levels, releases and acquires (07/R135-R140) -/

/-- The level at which accesses of a scope are performed. -/
inductive Level where
  | l1 | l2 | home
deriving DecidableEq, Repr

def scopeOf : Nat → Scope
  | 0 => .warp | 1 => .block | 2 => .cluster | 3 => .die | 4 => .device | _ => .system

def scopeNum : Scope → Nat
  | .warp => 0 | .block => 1 | .cluster => 2 | .die => 3 | .device => 4 | .system => 5

/-- The level of a scope; block scope of a pair-block is performed in the L2 (07/R135). -/
def levelOf (sc : Scope) (pairBlock : Bool) : Level :=
  match sc with
  | .warp => .l1
  | .block => if pairBlock then .l2 else .l1
  | .cluster | .die => .l2
  | .device | .system => .home

/-- The lines of a core's L1 and of its die's L2 that hold stores of some warps are written back, to the L2 or the home. -/
def writeBackOf (s : State) (core : Nat) (lv : Level) (ws : List Nat) : State :=
  let mine := fun (l : CacheLine) => l.dirty != 0 && l.writers.any ws.contains
  let toL2 := fun (s : State) => (l1Cores s core).foldl (fun s k =>
    ((l1Lines s k).filter mine).foldl (fun s l => cleanL1 s k l) s) s
  match lv with
  | .l1 => s
  | .l2 => toL2 s
  | .home =>
    let s1 := toL2 s
    ((l2Lines s1 (dieOf core)).filter mine).foldl (fun s l => cleanL2 s (dieOf core) l) s1

/-- The warps with stores that are dirty in some cache. -/
def dirtyWriters (s : State) : List Nat :=
  let of := fun (t : Tab (List CacheLine)) => t.flatMap fun p => p.2.flatMap fun l => if l.dirty = 0 then [] else l.writers
  (of s.l1 ++ of s.l2).eraseDups

/-- Scratchpad writes that come before what a warp does now: its own, and those it has seen released (13/R292). -/
def spadBefore (s : State) (w : Warp) (b : Block) : Tab Nat := tabSet 0 (tabGet [] s.spadSeen w.id) (2 * w.id) b.spadClock

/-- A warp of a pair-block with its block: only there do operations of the matrix array read the scratchpad. -/
def pairWarp (s : State) (warp : Nat) : Option (Warp × Block) :=
  (findWarp s warp).bind fun w => (findBlock s w.block).bind fun b => if b.pair then some (w, b) else none

/-- A release orders the scratchpad writes before it. -/
def releaseSpad (s : State) (warp : Nat) : State :=
  match pairWarp s warp with
  | none => s
  | some (w, b) => { s with spadRel := tabSet [] s.spadRel b.id (tabMax (tabGet [] s.spadRel b.id) (spadBefore s w b)) }

/-- An acquire comes after the scratchpad writes that its block's warps have released (log 49). -/
def acquireSpad (s : State) (warp : Nat) : State :=
  match pairWarp s warp with
  | none => s
  | some (w, b) => { s with spadSeen := tabSet [] s.spadSeen w.id (tabMax (tabGet [] s.spadSeen w.id) (tabGet [] s.spadRel b.id)) }

/-- A warp sees that an engine's writes to its scratchpad are complete (07/R148). -/
def seeSpad (s : State) (warp by_ : Nat) : State :=
  match pairWarp s warp with
  | none => s
  | some (w, b) => { s with spadSeen := tabSet [] s.spadSeen w.id (tabSet 0 (tabGet [] s.spadSeen w.id) by_ b.spadClock) }

/-- Every earlier store of a warp is performed at a level (07/R139): the lines it dirtied are written back that far. The stores
it has seen released by others come before the release too, and are performed when another warp's acquire needs them (R141). -/
def releaseAt (s : State) (w : Who) (lv : Level) : State :=
  let s1 := releaseSpad (writeBackOf s w.core lv [w.warp]) w.warp
  let seen := tabGet [] s1.hb w.warp
  { s1 with
    rels := { warp := w.warp, core := w.core, set := w.warp :: seen } :: s1.rels.filter (·.warp != w.warp)
    owed := if lv = .l1 || seen.isEmpty then s1.owed else s1.owed ++ [{ by_ := w.warp, core := w.core, home := lv == .home, set := seen }] }

/-- The L1 drops its clean bytes and keeps its dirty ones (07/R140). -/
def dropClean (s : State) (core : Nat) : State :=
  { s with l1 := s.l1.filterMap fun p =>
      if p.1 / 256 = core then
        let ls := (p.2.filter (·.dirty != 0)).map fun l => { l with valid := l.dirty, code := 0 }
        if ls = [] then none else some (p.1, ls)
      else some p }

/-- What earlier releases of other warps owe to an acquire is performed: at die level those of its die, at the home all. -/
def settleOwed (s : State) (w : Who) (lv : Level) : State :=
  let near := fun (core : Nat) => dieOf core == w.die
  let due := fun (o : Owed) => o.by_ != w.warp && (near o.core && lv != .l1 || lv == .home && o.home)
  let s1 := (s.owed.filter due).foldl (fun s o => writeBackOf s o.core (if o.home && lv == .home then .home else .l2) o.set) s
  { s1 with owed := s1.owed.filter fun o => !(due o && (!o.home || lv == .home)) }

/-- A warp has seen the releases made where its acquire looks: on its core, on its die, or anywhere. Only warps that still have
dirty stores matter. -/
def seeReleases (s : State) (w : Who) (lv : Level) : State :=
  let dirty := dirtyWriters s
  let reach := fun (core : Nat) => match lv with
    | .l1 => (l1Cores s w.core).contains core
    | .l2 => dieOf core == w.die
    | .home => true
  let rels := s.rels.filter fun r => r.set.any dirty.contains
  let seen := tabGet [] s.hb w.warp ++ (rels.filter fun r => reach r.core).flatMap (·.set)
  { s with rels, hb := tabSet [] s.hb w.warp ((seen.eraseDups).filter fun x => x != w.warp && dirty.contains x) }

/-- An acquire of a warp at a level (07/R140): every core of a fused cluster shares its L1. -/
def acquireAt (s : State) (w : Who) (lv : Level) : State :=
  let s0 := settleOwed s w lv
  let s1 := if lv = .l1 then s0 else (l1Cores s0 w.core).foldl dropClean s0
  let s2 := if lv = .home then { s1 with acq := (l1Cores s1 w.core).foldl (fun t k => tabSet 0 t k s1.fillNo) s1.acq } else s1
  acquireSpad (seeReleases s2 w lv) w.warp

/-- An engine write performed at the home: a copy in the L2 of the engine's die takes the bytes where they are clean or not
valid, as an access of its context (07/R146, 04/R62). -/
def engineWrite (s : State) (die : Nat) (compat ef : Bool) (bytes : List (Nat × Byte)) : State :=
  ((bytes.map fun p => lineOf p.1).eraseDups).foldl (fun s line =>
    match l2Line s die line with
    | none => s
    | some l =>
      let mine := bytes.filter fun p => lineOf p.1 == line
      let m := bytesMask line mine &&& ~~~ l.dirty
      if m = 0 then s
      else
        let data := mine.foldl (fun (d : VReg) p => putBits d (8 * (p.1 % 128) + 7) (8 * (p.1 % 128)) p.2.toNat) 0
        changeL2 s die { l with data := mergeLine l.data data m, valid := l.valid ||| m, compat } ef)
    (homeStoreAs s compat bytes)

/-- Write back and invalidate every copy of a line in a core's L1 and in its die's L2 (07/R151). -/
def flushLine (s : State) (w : Who) (pa : Nat) : State :=
  let s1 := match l1Line s w.core pa with | some l => dropL1 (writeL1Back s w.core l) w.core pa | none => s
  match l2Line s1 w.die pa with | some l => dropL2 (writeHome s1 l) w.die pa | none => s1

/-- Write back the dirty bytes under a mask from the core's L1 and make the bytes under it invalid. -/
def dropBytesL1 (s : State) (w : Who) (pa : Nat) (m : BitVec 128) : State :=
  match l1Line s w.core pa with
  | none => s
  | some l => keepL1 (writeL1Back s w.core { l with dirty := l.dirty &&& m }) w.core
      { l with valid := l.valid &&& ~~~ m, dirty := l.dirty &&& ~~~ m }

/-- The same for a die's L2, towards the home. -/
def dropBytesL2 (s : State) (die pa : Nat) (m : BitVec 128) : State :=
  match l2Line s die pa with
  | none => s
  | some l =>
    let s1 := writeHome s { l with dirty := l.dirty &&& m }
    if l.valid &&& ~~~ m = 0 then dropL2 s1 die pa
    else changeL2 s1 die { l with valid := l.valid &&& ~~~ m, dirty := l.dirty &&& ~~~ m } true

/-- Discard the dirty bytes under a mask in the core's L1 and the die's L2, write the others back, and invalidate the line in
both (07/R154). -/
def discardLine (s : State) (w : Who) (pa : Nat) (m : BitVec 128) : State :=
  let s1 := match l1Line s w.core pa with
    | some l => dropL1 (writeL1Back s w.core { l with dirty := l.dirty &&& ~~~ m }) w.core pa
    | none => s
  match l2Line s1 w.die pa with
  | some l => dropL2 (writeHome s1 { l with dirty := l.dirty &&& ~~~ m }) w.die pa
  | none => s1

/-- Write back the core's and the die's copies of a line; they stay, clean (07/R154). -/
def cleanLine (s : State) (w : Who) (pa : Nat) : State :=
  let s1 := match l1Line s w.core pa with | some l => cleanL1 s w.core l | none => s
  match l2Line s1 w.die pa with | some l => cleanL2 s1 w.die l | none => s1

/-- A line written through to a level (07/R139). -/
def throughTo (s : State) (w : Who) (pa : Nat) (lv : Level) : State :=
  match lv with
  | .l1 => s
  | .l2 => match l1Line s w.core pa with | some l => cleanL1 s w.core l | none => s
  | .home => cleanLine s w pa

/-- The bytes of a line that an access performs at a level are written back that far from the caches above it, which lose
them (07/R140, R151). -/
def dropAbove (s : State) (w : Who) (pa : Nat) (m : BitVec 128) (lv : Level) : State :=
  match lv with
  | .l1 => s
  | .l2 => dropBytesL1 s w pa m
  | .home => dropBytesL2 (dropBytesL1 s w pa m) w.die pa m

/-- Write back and invalidate a core's whole L1, its cell copies with it (04/R72). -/
def flushL1 (s : State) (core : Nat) : State :=
  let s1 := (l1Lines s core).foldl (fun s l => dropL1 (writeL1Back s core l) core l.pa) s
  { s1 with cellCopies := s1.cellCopies.filter fun c => c.core != some core }

end Sys2Proof.Machine
end

