-- ==== Sys2Proof/Machine/Routing.lean ====
section
/-! DEFINITION. How records move in a stage router (14/R330-R344): rings, headers, the lottery, the ordered sink, the holding
store, and the return of held records. -/

namespace Sys2Proof.Machine

/-! ### Rings of the stage router (14/R330, R463) -/

/-- PA of a slot of a ring. -/
def Ring.slotPa (r : Ring) (slot : Nat) : Nat := r.pages.getD (slot / 64) 0 + slot % 64 * 64

/-- The lowest free slot, none when the ring is full (14/R330). -/
def Ring.freeSlot (r : Ring) : Option Nat := (List.range r.cap).find? fun i => !r.used.contains i

def Ring.full (r : Ring) : Bool := r.cap ≤ r.used.length

/-- A record enters a ring: its slot holds the record's bytes. -/
def ringPush (s : State) (r : Ring) (bytes : List Byte) : State × Ring :=
  match r.freeSlot with
  | none => (s, r)
  | some i => (homePut s (r.slotPa i) bytes, { r with waiting := r.waiting ++ [i], used := i :: r.used })

def ringRead (s : State) (r : Ring) (slot : Nat) : List Byte := homeBytes s (r.slotPa slot) 64

/-- The slot is free again. -/
def Ring.release (r : Ring) (slot : Nat) : Ring := { r with used := r.used.filter (· != slot) }

def findSet (s : State) (die num : Nat) : Option StageSet := s.sets.find? fun x => x.die == die && x.num == num && !x.saved
def putSet (s : State) (x : StageSet) : State :=
  { s with sets := updWhere (fun y => y.die == x.die && y.num == x.num && y.ctx == x.ctx) (fun _ => x) s.sets }

/-! ### Record headers (14/R331) -/

def recHead (r : List Byte) : W64 := word64 r 0
def setHead (r : List Byte) (h : W64) : List Byte := toBytes 8 h.toNat ++ r.drop 8
def headSeq (h : W64) : W32 := h.extractLsb' 16 32
def headDone (h : W64) (i : Nat) : Bool := bit h i

/-- HOPS counts each queue that a record enters. -/
def hop (r : List Byte) : List Byte := let h := recHead r; setHead r (putBits h 63 48 (bits h 63 48 + 1))

/-- A stage has passed the record: DONE and LAST. -/
def passHead (r : List Byte) (i : Nat) : List Byte :=
  let h := recHead r
  setHead r (putBits (putBits h i i 1) 15 13 i)

def markEfx (r : List Byte) : List Byte := setHead r (putBits (recHead r) 12 12 1)

/-! ### Stages, weights and the lottery (14/R338) -/

def StageSet.stage (t : StageSet) (i : Nat) : Stage := t.stages.getD i {}
def StageSet.ring (t : StageSet) (i : Nat) : Ring := t.rings.getD i {}
def StageSet.count (t : StageSet) : Nat := t.stages.length
def StageSet.setStage (t : StageSet) (i : Nat) (x : Stage) : StageSet := { t with stages := setNth t.stages i x }

/-- The queue of a selector: stages, 8 the sink, 9 the drop ring, 10 the fault ring. -/
def StageSet.queue (t : StageSet) (sel : Nat) : Ring :=
  match sel with | 8 => t.sink | 9 => t.drop | 10 => t.fault | i => t.ring i

def StageSet.setQueue (t : StageSet) (sel : Nat) (r : Ring) : StageSet :=
  match sel with
  | 8 => { t with sink := r }
  | 9 => { t with drop := r }
  | 10 => { t with fault := r }
  | i => { t with rings := setNth t.rings i r }

/-- The weight of a stage. -/
def StageSet.weight (t : StageSet) (i : Nat) : Nat :=
  let g := t.stage i
  let q := t.ring i
  ((65536 - g.p) * 65536 / max g.c 1) * (q.cap - q.used.length) / q.cap

/-- The first candidate whose running sum of weights exceeds `r`. -/
def draw (t : StageSet) (r : Nat) : List Nat → Nat → Nat
  | [], _ => 0
  | [i], _ => i
  | i :: rest, sum => if r < sum + t.weight i then i else draw t r rest (sum + t.weight i)

/-- The lottery among candidates in ascending order. -/
def lottery (t : StageSet) (cands : List Nat) : StageSet × Nat :=
  match cands with
  | [] => (t, 0)
  | [i] => (t, i)
  | _ =>
    let x := lfsrStep t.lfsr
    let t := { t with lfsr := x }
    let sum := (cands.map t.weight).foldl (· + ·) 0
    if bits x 31 28 = 0 ∨ sum = 0 then (t, cands.getD (bits x 27 0 % cands.length) 0)
    else (t, draw t (x.toNat % sum) cands 0)

/-! ### Sinks (14/R341) -/

/-- Push to the queue of a selector; the caller has seen that it is not full. -/
def pushTo (s : State) (t : StageSet) (sel : Nat) (r : List Byte) : State × StageSet :=
  let p := ringPush s (t.queue sel) r
  (p.1, t.setQueue sel p.2)

/-- NEXT goes on over resolved numbers, and records of the reorder window enter the sink. -/
def advanceSink : Nat → State → StageSet → State × StageSet
  | 0, s, t => (s, t)
  | n + 1, s, t =>
    if t.resolved.contains t.next then
      advanceSink n s { t with resolved := t.resolved.filter (· != t.next), next := t.next + 1 }
    else match t.reorder.find? (·.1 == t.next) with
      | none => (s, t)
      | some r =>
        if t.sink.full then (s, t)
        else
          let p := pushTo s t 8 (hop r.2)
          advanceSink n p.1 { p.2 with reorder := p.2.reorder.filter (·.1 != t.next), next := t.next + 1 }

def settleSink (s : State) (t : StageSet) : State × StageSet :=
  advanceSink (t.resolved.length + t.reorder.length + 1) s t

/-- A sequence number is resolved. -/
def resolve (s : State) (t : StageSet) (seq : W32) : State × StageSet :=
  if t.ord then settleSink s { t with resolved := seq :: t.resolved } else (s, t)

/-- A record comes to the sink; none when it must wait. -/
def toSink (s : State) (t : StageSet) (r : List Byte) : Option (State × StageSet) :=
  let seq := headSeq (recHead r)
  if !t.ord then (if t.sink.full then none else some (pushTo s t 8 (hop r)))
  else if 4096 ≤ (seq - t.next).toNat then none
  else if seq = t.next ∧ t.sink.full = true then none
  else some (settleSink s { t with reorder := t.reorder ++ [(seq, r)] })

/-! ### Routing (14/R336) -/

/-- Stages with a clear DONE bit, pure or effectful. -/
def openStages (t : StageSet) (h : W64) (eff : Bool) : List Nat :=
  (List.range t.count).filter fun i => !headDone h i && (t.stage i).eff == eff

/-- Where a record goes next; none when it must wait at the router. -/
def routeRecord (s : State) (t : StageSet) (r : List Byte) : Option (State × StageSet) :=
  let h := recHead r
  match openStages t h false with
  | p :: ps =>
    match (p :: ps).filter fun i => !(t.ring i).full with
    | [] => none
    | cands =>
      let d := lottery t cands
      some (pushTo s d.1 d.2 (hop r))
  | [] =>
    match (openStages t h true).foldl (fun (m : Option Nat) i => match m with
      | none => some i
      | some j => if (t.stage i).eord < (t.stage j).eord then some i else some j) none with
    | some i => if (t.ring i).full then none else some (pushTo s t i (hop (markEfx r)))
    | none => toSink s t r

/-- A dropped record: freed, or in the drop ring. -/
def dropRecord (s : State) (t : StageSet) (r : List Byte) : Option (State × StageSet) :=
  if !t.dropq then some (s, t) else if t.drop.full then none else some (pushTo s t 9 (hop r))

/-- What the holding store does with a record, if it can go. -/
def leaveStore (s : State) (t : StageSet) (x : HoldDest × List Byte) : Option (State × StageSet) :=
  match x.1 with
  | .route => routeRecord s t x.2
  | .drop => dropRecord s t x.2
  | .fault =>
    if t.fault.full then none
    else
      let p := pushTo s t 10 x.2
      some (resolve p.1 p.2 (headSeq (recHead x.2)))

/-- The holding store tries its records in arrival order (14/R340). -/
def tryHolding (s : State) (t : StageSet) : State × StageSet :=
  let a := settleSink s t
  let r := a.2.holding.foldl (fun (b : State × StageSet × List (HoldDest × List Byte)) x =>
    match leaveStore b.1 b.2.1 x with
    | some p => (p.1, p.2, b.2.2)
    | none => (b.1, b.2.1, b.2.2 ++ [x])) (a.1, a.2, [])
  (r.1, { r.2.1 with holding := r.2.2 })

/-- A record goes to a destination or waits in the holding store; none when that is full. -/
def sendRecord (s : State) (t : StageSet) (x : HoldDest × List Byte) : Option (State × StageSet) :=
  match leaveStore s t x with
  | some p => some p
  | none => if 64 ≤ t.holding.length then none else some (s, { t with holding := t.holding ++ [x] })

/-! ### Held records that go back (14/R344) -/

/-- The set of a held record. -/
def heldSet (s : State) (h : HeldRec) : Option StageSet :=
  s.sets.find? fun x => x.die == h.die && x.num == h.set && x.ctx == h.ctx

/-- A held record of an effectful stage enters the fault ring, or the holding store while that is full, after what waits there
already; with no room in the store it keeps its slot until there is (log 69). -/
def faultHeld (s : State) (h : HeldRec) : State :=
  let gone := { s with held := s.held.filter fun x => !(x.die == h.die && x.place == h.place) }
  match heldSet s h with
  | none => gone
  | some t =>
    let ring := t.ring h.stage
    let bytes := ringRead s ring h.slot
    let a := tryHolding gone (t.setQueue h.stage (ring.release h.slot))
    match sendRecord a.1 a.2 (.fault, bytes) with
    | some q => putSet q.1 q.2
    | none => s

/-- A held record of a pure stage goes to the head of its queue; its next ticket carries RETRY. -/
def requeueHeld (s : State) (h : HeldRec) : State :=
  let s := { s with held := s.held.filter fun x => !(x.die == h.die && x.place == h.place) }
  match heldSet s h with
  | none => s
  | some t =>
    let ring := t.ring h.stage
    { putSet s (t.setQueue h.stage { ring with waiting := h.slot :: ring.waiting }) with
      retries := ⟨h.die, h.set, t.ctx, h.stage, h.slot⟩ :: s.retries }

/-- Held records in the order of their tags. -/
def byTag (hs : List HeldRec) : List HeldRec := hs.mergeSort fun a b => a.die < b.die || a.die == b.die && a.place ≤ b.place

/-- Held records go back: those of pure stages stand in tag order at the heads of their queues, those of effectful stages enter
the fault ring in that order. -/
def returnAll (s : State) (hs : List HeldRec) : State :=
  let eff := fun (h : HeldRec) => (heldSet s h).any fun t => (t.stage h.stage).eff
  let s1 := (byTag (hs.filter fun h => !eff h)).foldr (fun h s => requeueHeld s h) s
  (byTag (hs.filter eff)).foldl faultHeld s1

/-- Every record a block holds goes back. -/
def returnRecords (s : State) (block : Nat) : State := returnAll s (s.held.filter (·.block == block))

end Sys2Proof.Machine
end

