-- ==== Sys2Proof/Machine/Ops.lean ====
section
/-! DEFINITION. Shared operations: registers and lanes, waiting and retiring, fault records, killing, pre-emption, taking a
trap and returning from one (03/R53-R58, 17/R389-R401). -/

namespace Sys2Proof.Machine

/-- Why an instruction ends without its own effect. -/
inductive Stop where
  | trap (cause info code : Nat)
  | fault (f : Flt)
  | wait (w : Wait)
  /-- the unit waits in the state given, having sent requests -/
  | held (s : State)
deriving DecidableEq, Repr

/-- The illegal-instruction trap raised by an instruction chapter; its TINFO is put in where the trap is taken. -/
def illegal : Stop := .trap 1 0 0

/-! ### Registers and lanes (06/R108, R114) -/

def Warp.slice (w : Warp) (j : Nat) : Slice := tabGet { active := 0 } w.slices j

def Warp.setSlice (w : Warp) (j : Nat) (x : Slice) : Warp := { w with slices := tabSet { active := 0 } w.slices j x }

/-- The active lanes: what k0 reads as (06/R108). -/
def Warp.activeLanes (w : Warp) : W32 :=
  BitVec.ofNat 32 ((List.range 8).foldl (fun a j => a + (w.slice j).active.toNat <<< (4 * j)) 0)

/-- A mask register (k0 reads as the active lanes). -/
def Warp.readK (w : Warp) (n : Nat) : W32 := if n = 0 then w.activeLanes else tabGet 0 w.k n

def Warp.writeK (w : Warp) (n : Nat) (x : W32) : Warp := if n = 0 then w else { w with k := tabSet 0 w.k n x }

def Warp.readV (w : Warp) (n : Nat) : VReg := tabGet 0 w.v n
/-- A register changed otherwise than by a write of the program. -/
def Warp.putV (w : Warp) (n : Nat) (x : VReg) : Warp := { w with v := tabSet 0 w.v n x }

/-- Lanes written by the write of a number; earlier writes keep the lanes that it leaves (the model's own, for 13/R292). -/
def stampLanes (l : List (Nat × W32)) (n : Nat) (m : W32) : List (Nat × W32) :=
  (n, m) :: l.filterMap fun p => if p.2 &&& ~~~m = 0 then none else some (p.1, p.2 &&& ~~~m)

/-- Lanes of a register written since a count of the warp's register clock. -/
def Warp.lanesSince (w : Warp) (r n : Nat) : W32 :=
  (tabGet [] w.vstamp r).foldl (fun a p => if n < p.1 then a ||| p.2 else a) 0

/-- A lane as a mask. -/
def laneMask (L : Nat) : W32 := BitVec.ofNat 32 (1 <<< L)

/-- A write of the lanes `m` of a register, which then holds `x`. -/
def Warp.writeV (w : Warp) (n : Nat) (m : W32) (x : VReg) : Warp :=
  { w with
    v := tabSet 0 w.v n x
    vclock := w.vclock + 1
    vstamp := tabSet [] w.vstamp n (stampLanes (tabGet [] w.vstamp n) (w.vclock + 1) m) }

/-- An s-register: s0 reads as zero and discards writes. -/
def Slice.readS (x : Slice) (n : Nat) : W64 := if n = 0 then 0 else tabGet 0 x.s n
def Slice.writeS (x : Slice) (n : Nat) (y : W64) : Slice :=
  if n = 0 then x else { x with s := tabSet 0 x.s n y, clock := x.clock + 1, stamp := tabSet 0 x.stamp n (x.clock + 1) }
def Slice.readC (x : Slice) (n : Nat) : Cond := tabGet {} x.c n
def Slice.writeC (x : Slice) (n : Nat) (y : Cond) : Slice := { x with c := tabSet {} x.c n y }

def Warp.readS (w : Warp) (j n : Nat) : W64 := (w.slice j).readS n
def Warp.writeS (w : Warp) (j n : Nat) (y : W64) : Warp := w.setSlice j ((w.slice j).writeS n y)
def Warp.writeC (w : Warp) (j n : Nat) (y : Cond) : Warp := w.setSlice j ((w.slice j).writeC n y)

/-- c0.Z of the slices named; the other conditions of c0 keep their values. -/
def Warp.setZ (w : Warp) (js : List Nat) (z : Bool) : Warp :=
  js.foldl (fun w j => w.writeC j 0 { (w.slice j).readC 0 with z }) w

/-- sD of the slices named. -/
def Warp.setS (w : Warp) (js : List Nat) (d : Nat) (x : W64) : Warp := js.foldl (fun w j => w.writeS j d x) w

/-- The count of a completion flag (08/R169). -/
def Warp.flag (w : Warp) (n : Nat) : Nat := tabGet 0 w.f n
def Warp.setFlag (w : Warp) (n x : Nat) : Warp := { w with f := tabSet 0 w.f n x }
def Warp.raise (w : Warp) : Option Nat → Warp
  | none => w
  | some n => w.setFlag n (w.flag n + 1)
def Warp.lower (w : Warp) : Option Nat → Warp
  | none => w
  | some n => w.setFlag n (w.flag n - 1)

/-- Active lanes of a group. -/
def groupLanes (w : Warp) (g : Group) : W32 := w.activeLanes &&& sliceLanes g.slices

/-- Slices of the group with an active lane, ascending. -/
def activeSlices (w : Warp) (g : Group) : List Nat := (slicesOf g.slices).filter fun j => (w.slice j).active != 0

/-- The lanes an operation's predicate lets through (08/R178). -/
def predicate (src : Warp) (f : Fields) : W32 :=
  let k := src.readK f.km.toNat
  if f.kn then ~~~ k else k

/-- The running group of a warp (06/R121). -/
def Warp.running (w : Warp) : Option Group := w.groups.find? (·.slices == w.runs)

/-- The groups of the warp that are still running: more than one PC group means the warp is parted (06/R117). -/
def Warp.parted (w : Warp) : Bool := 1 < w.groups.length

/-- The warp runs its trap handler (17/R391). -/
def Warp.hm (w : Warp) : Bool := bit w.tcause 8

def Warp.setGroup (w : Warp) (g : Group) : Warp := { w with groups := updWhere (·.slices == g.slices) (fun _ => g) w.groups }

/-- The slot after the group's own (08/R167). A wait that the instruction has put up stays. -/
def Group.next (g : Group) : Group :=
  { g with pc := g.pc + 1, entry := if g.pc % 5 = 4 then .fall else g.entry, replay := [], part := 0 }

/-- The group moved to a target by a control transfer from its slot (08/R170). -/
def Group.goto (g : Group) (pc : Nat) : Group := { g with pc, wait := .none, entry := .transfer g.pc, replay := [], part := 0 }

/-! ### The issuing unit -/

/-- The warp and group whose execute slice issues. -/
def issuer (s : State) : Option (Warp × Group) :=
  match s.cur with
  | .execute id => match findWarp s id with
    | some w => match w.running with
      | some g => some (w, g)
      | none => none
    | none => none
  | _ => none

/-- The warp whose access slice issues. -/
def accessIssuer (s : State) : Option Warp :=
  match s.cur with
  | .access id => findWarp s id
  | _ => none

/-- The source registers of an operation: a pair reads what stood before it issued (08/R181). -/
def sourceOf (s : State) (w : Warp) : Warp :=
  match s.view with
  | some v => if v.id = w.id then v else w
  | none => w

def whoOf (s : State) (w : Warp) : Who :=
  { core := w.core, ctx := w.ctx, compat := (findCtx s w.ctx).any (·.compat), warp := w.id, quad := w.quad }

/-- The warp retires the instruction of its group: the group moves to the next slot. -/
def retire (s : State) (w : Warp) (g : Group) : State := setWarp s (w.setGroup g.next)

/-! ### Permits (16/R387, 26/R451) -/

def getDie (s : State) (d : Nat) : Die := tabGet {} s.dies d
def putDie (s : State) (d : Nat) (x : Die) : State := if d < 4 then { s with dies := tabSet {} s.dies d x } else s

/-- Permits that a profile allows a die (26/R448). -/
def permax (profile : Nat) : Nat :=
  match profile with | 0 => 64 | 1 => 96 | 2 => 40 | _ => 56

/-- Permits returned to a die's governor. -/
def returnPermits (s : State) (d n : Nat) : State :=
  putDie s d { getDie s d with out := (getDie s d).out - n }

/-- Permits drawn from a die's governor. -/
def takePermits (s : State) (d n : Nat) : State := putDie s d { getDie s d with out := (getDie s d).out + n }

/-- A waiting request withdrawn. -/
def withdraw (s : State) (o : PermOwner) : State :=
  { s with dies := tabMap {} 4 (fun (d : Die) => { d with waiting := d.waiting.filter fun r => r.owner != o }) s.dies }

/-- A warp's own requests withdrawn. -/
def withdrawWarp (s : State) (id : Nat) : State :=
  let his := fun (r : PermReq) => match r.owner with | .warp i _ => i == id | _ => false
  { s with dies := tabMap {} 4 (fun (d : Die) => { d with waiting := d.waiting.filter fun r => !his r }) s.dies }

/-- A heavy operation of a warp asks for its permit when it comes to start: one that the warp has reserved, or a request to
its die's governor. -/
def requestPermit (s : State) (w : Warp) (o : PermOwner) : State × Warp × PermitSt :=
  if 0 < w.permits then (s, { w with permits := w.permits - 1 }, .reserved)
  else
    let d := getDie s (dieOf w.core)
    let deadline := ((findBlock s w.block).bind fun b => findLaunch s b.launch).any (·.deadline)
    (putDie s (dieOf w.core) { d with waiting := d.waiting ++ [{ owner := o, n := 1, deadline }] }, w, .waiting)

/-- One permit of an operation given back, if it holds one. -/
def dropPermit (s : State) (d : Nat) (p : PermitSt) : State :=
  match p with
  | .held | .reserved => returnPermits s d 1
  | _ => s

/-! ### Hardware barriers (14/R315-R319) -/

/-- The cluster of a block within its grid. -/
def clusterNo (s : State) (b : Block) : Nat :=
  match findLaunch s b.launch with
  | some l => if l.kernel.clus = 0 then 0 else b.idx / l.kernel.clus
  | none => 0

/-- Members of a barrier: slices with an active lane, or warps. -/
def barMembers (s : State) (o : BarOwner) : List Nat :=
  let warps := fun (p : Block → Bool) => (s.warps.filter fun w => (findBlock s w.block).any p).map (·.id)
  match o with
  | .warp id => match findWarp s id with
    | some w => (List.range 8).filter fun j => (w.slice j).active != 0
    | none => []
  | .block id => warps fun b => b.id == id
  | .cluster l i => warps fun b => b.launch == l && clusterNo s b == i
  | .grid l => warps fun b => b.launch == l

/-- The unit whose barrier it is is still there. -/
def barLive (s : State) : BarOwner → Bool
  | .warp id => (findWarp s id).isSome
  | .block id => (findBlock s id).any fun b => !b.ended
  | .cluster l _ => (findLaunch s l).isSome
  | .grid l => (findLaunch s l).isSome

/-- A barrier looked at again: warps all of whose active slices have arrived count as arrived, and the phase completes when
every member has arrived and E ≥ A (14/R315-R316, R319). -/
def settleBar (s : State) (b : Barrier) : Barrier :=
  let m := barMembers s b.owner
  let all := fun (p : Nat × BitVec 8) => match findWarp s p.1 with
    | some w => (List.range 8).all fun j => (w.slice j).active == 0 || bit p.2 j
    | none => false
  let b : Barrier := { b with arrived := b.arrived ++ (b.part.filter all).map (·.1), part := b.part.filter fun p => !all p }
  if m ≠ [] ∧ m.all b.arrived.contains = true ∧ b.a ≤ b.e then
    { b with p := b.p + 1, arrived := [], part := [], a := b.nextA, nextA := 0, e := b.e - b.a
             eng := if b.e = 0 then b.eng else b.p :: b.eng }
  else b

def settleBars (s : State) : State := { s with bars := (s.bars.filter fun b => barLive s b.owner).map (settleBar s) }

/-- A barrier that nothing has used yet is in phase 0. -/
def barAt (s : State) (o : BarOwner) (idx : Nat) : Barrier :=
  match s.bars.find? (fun b => b.owner == o && b.idx == idx) with
  | some b => b
  | none => { owner := o, idx }

def putBar (s : State) (b : Barrier) : State :=
  { s with bars := b :: s.bars.filter fun x => !(x.owner == b.owner && x.idx == b.idx) }

/-- An engine completion sets out for a barrier (14/R316). -/
def deliverTo (s : State) (o : BarOwner) (idx : Nat) : State :=
  let n := newId s
  { n.2 with deliveries := n.2.deliveries ++ [⟨n.1, o, idx⟩] }

/-- The grow count of a core starts again (06/R129-R130). -/
def restartGrow (s : State) (core : Nat) : State :=
  { s with growClk := tabSet 0 s.growClk core (tabGet 0 s.coreClk core) }

/-! ### Ending warps and blocks (11/R253, 03/R54) -/

/-- Reservation requests of warps that go: one that waits here is withdrawn, one sent to a peer stays unclaimed, so that its
grant can be returned. -/
def dropRsvWaits (s : State) (gone : Nat → Bool) : State :=
  { s with rsvWaits := s.rsvWaits.filterMap fun x => match x.warp with
      | some id => if gone id then (if isHbm x.desc then none else some { x with warp := none }) else some x
      | none => some x }

/-! ### The words of a message queue (14/R323) -/

/-- Word `i` of a descriptor. -/
def descWord (s : State) (desc i : Nat) : W64 := home64 s (desc + 8 * i)

def putDescWord (s : State) (desc i : Nat) (x : W64) : State := homePut s (desc + 8 * i) (toBytes 8 x.toNat)

/-- WR, RD and RSV. -/
def queueWords (s : State) (desc : Nat) : List W64 := [descWord s desc 2, descWord s desc 3, descWord s desc 4]

/-- The home has changed a queue's words: what it left is what it expects to find. -/
def queueDone (s : State) (desc : Nat) : State :=
  { s with queueLeft := (desc, queueWords s desc) :: s.queueLeft.filter (·.1 != desc) }

/-- An operation at a queue's home. Words 2-4 that are neither what the home left there nor initialised to zero have been
written while the queue was in use: from then on they are undefined (14/R323, 00/R5). -/
def queueEnter (s : State) (desc : Nat) : State :=
  match s.queueLeft.find? (·.1 == desc) with
  | none => s
  | some e =>
    let now := queueWords s desc
    if now = e.2 ∨ now.all (· == 0) = true then s
    else
      let v := freshes 3 s
      queueDone ((v.1.zipIdx).foldl (fun s x => putDescWord s desc (2 + x.2) (BitVec.ofNat 64 x.1)) v.2) desc

/-- A message queue's RSV falls by what a warp did not spend (14/R324). -/
def returnResv (s : State) (r : Resv) : State :=
  if isHbm r.desc then
    let s := queueEnter s r.desc
    queueDone (putDescWord s r.desc 4 (descWord s r.desc 4 - BitVec.ofNat 64 r.n)) r.desc
  else { s with out := s.out ++ [.peerReturn (r.desc / 2 ^ 40 % 256) (r.desc % 2 ^ 40) r.n] }

/-- A barrier loses a warp. A warp-level barrier counts the slices of its own warp, by their numbers: no other warp is in it. -/
def Barrier.lose (b : Barrier) (warp : Nat) : Barrier :=
  match b.owner with
  | .warp _ => b
  | _ => { b with arrived := b.arrived.filter (· != warp), part := b.part.filter (·.1 != warp) }

/-- A warp leaves the machine: reservations and permits go back, its registers return to the pool and its barriers lose it. -/
def removeWarp (s : State) (w : Warp) : State :=
  let s := dropRsvWaits (w.resv.foldl returnResv s) (· == w.id)
  let s := returnPermits (withdrawWarp s w.id) (dieOf w.core) w.permits
  let s := restartGrow s w.core
  settleBars { s with
    bars := s.bars.map (·.lose w.id)
    warps := s.warps.filter (·.id != w.id)
    peerOuts := s.peerOuts.filter (fun o => !(o.warp == some w.id && o.out.isNone))
    growWait := s.growWait.filter (·.warp != w.id)
    outs := s.outs.filter (·.warp != w.id)
    scaleReqs := s.scaleReqs.filter fun r => !(s.outs.any fun o => o.warp == w.id && r.out == some o.id) }

/-- A quad leaves the baton ring; the baton passes on (13/R309). -/
def leaveRings (s : State) (block : Nat) : State :=
  let out := fun (p : Pair) => { p with
    ring := p.ring.filter (·.1 != block)
    latch := p.latch.bind fun l => if l.block = block then none else some l }
  let pairs := s.pairs.filterMap fun p => if out p.2 = {} then none else some (p.1, out p.2)
  let held := s.pairs.filterMap fun p => if p.2.ring.head?.any (·.1 == block) then some p.1 else none
  { s with pairs, ops := updWhere (fun o => held.contains o.pair) (fun o => { o with past := true }) s.ops, savedPairs := s.savedPairs.map fun p => { p with state := out p.state } }

/-- A block's copy commands stop where they stand and its check-outs are released without write-back (10/R223, 04/R79). -/
def dropCommands (s : State) (block : Nat) : State :=
  let s := (s.cmds.filter (·.block == block)).foldl
    (fun s c => withdraw (dropPermit s (dieOf c.core) c.permit) (.copy c.id)) s
  { s with cmds := s.cmds.filter (·.block != block), pieces := s.pieces.filter (·.block != block) }

/-- A block's joint operations are discarded and their permits returned. -/
def dropOps (s : State) (block : Nat) : State :=
  let s := (s.ops.filter (·.block == block)).foldl
    (fun s o => withdraw (dropPermit s (o.pair / 48) o.permit) (.joint o.id)) s
  { s with ops := s.ops.filter (·.block != block) }

/-- When the last pair-block on a pair has left it and saved ones are to come back, the tiles, activation slots and ring are kept
with the save (13/R308). -/
def parkPair (s : State) (p : Nat) : State :=
  let on := fun (x : Block) => x.pair && !x.ended && pairOf x.core == p
  if s.blocks.any fun x => on x && x.placed then s
  else match s.blocks.find? fun x => on x && !x.placed with
    | none => s
    | some b =>
      if s.savedPairs.any fun x => x.pair == p && x.ctx == b.ctx then s
      else
        let old := tabGet {} s.pairs p
        { s with
          savedPairs := { pair := p, ctx := b.ctx, tiles := s.z.filter fun t => t.1 / 8 == p
                          state := { old with latch := none, resetting := false } } :: s.savedPairs
          z := s.z.filter fun t => t.1 / 8 != p
          pairs := tabSet {} s.pairs p { resetting := old.resetting } }

/-- The reuse latch of a pair emptied: a save or restore of a pair-block, and a baton's change of hands, do so (13/R291). -/
def emptyLatch (s : State) (p : Nat) : State :=
  { s with pairs := tabSet {} s.pairs p { tabGet {} s.pairs p with latch := none } }

/-- A block ends other than by `exit`. -/
def failBlock (s : State) (b : Block) (why : BlockFail) : State :=
  if b.ended then s else
  let s := (s.warps.filter (·.block == b.id)).foldl removeWarp s
  let s := leaveRings (dropOps (dropCommands (returnRecords s b.id) b.id) b.id) b.id
  let s := parkPair (setBlock s { b with ended := true, placed := false, outs := [], fail := some why }) (pairOf b.core)
  { s with
    launches := updWhere (·.id == b.launch)
      (fun l => { l with fails := l.fails ++ [(b.idx, why)], endedBlocks := l.endedBlocks + 1 }) s.launches }

/-- Kill a block; a block of a gang-class launch takes its whole grid with it (03/R54). -/
def killBlock (s : State) (id : Nat) (why : BlockFail) : State :=
  match findBlock s id with
  | none => s
  | some b =>
    let gang := (findLaunch s b.launch).any (·.cls ≤ 1)
    let all := if gang then s.blocks.filter (·.launch == b.launch) else [b]
    all.foldl (fun s x => failBlock s x why) s

/-! ### Fault records (03/R53) -/

/-- ACC of a fault for which the manual gives none: a free value (log 26). -/
def freeAcc (s : State) : Nat := Config.freeNat (2 ^ 64 + s.now) % 16

/-- Capacity of a context's fault queue. -/
def fltCap (c : Ctx) : Nat := 2 ^ (6 + bits c.fltq 63 60)

def fltBase (c : Ctx) : Nat := bits c.fltq 51 12 * 4096

/-- The queue has places for `n` records. -/
def fltRoom (s : State) (c : Ctx) (n : Nat) : Bool :=
  (home64 s (fltBase c) - home64 s (fltBase c + 8)).toNat + n ≤ fltCap c

/-- The queue has no place for a record. -/
def fltFull (s : State) (c : Ctx) : Bool := !fltRoom s c 1

/-- Word 3 of a record: grid, block, warp, core, walk level. -/
def idsWord (grid block warp core level : Nat) : W64 :=
  BitVec.ofNat 64 (grid % 2 ^ 16 + block % 2 ^ 16 * 2 ^ 16 + warp % 256 * 2 ^ 32 + core % 512 * 2 ^ 40 + level % 8 * 2 ^ 49)

/-- Word 0 of a record. -/
def recordWord0 (fid bufn : Nat) (fut repl : Bool) (acc kind : Nat) : W64 :=
  BitVec.ofNat 64 (fid % 2 ^ 32 * 2 ^ 32 + bufn % 2 ^ 16 * 2 ^ 16 + (if fut then 2 ^ 10 else 0) + (if repl then 2 ^ 9 else 0)
    + acc % 16 * 2 ^ 5 + kind % 32)

/-- Bytes that a unit writes at the home for a context. -/
def Ctx.put (c : Ctx) (s : State) (pa : Nat) (bytes : List Byte) : State :=
  homeStoreAs s c.compat (bytes.mapIdx fun i b => (pa + i, b))

/-- The number of a machine check's source in a record (17/R396). -/
def mcCode : McSource → Nat
  | .fetchParity => 1
  | .uncorrectable => 2
  | .compressionCount => 3
  | .poisonedLoad => 4

/-- A machine check as a fault: its record names the failing line (17/R396). -/
def mcFault (src : McSource) (pa va acc : Nat) : Flt :=
  { kind := 23, acc, va, entry := BitVec.ofNat 64 (checkPa src pa % 2 ^ 52 + mcCode src * 2 ^ 52) }

/-- The management controller logs the address of a machine check. -/
def logFault (s : State) (f : Flt) : State :=
  if f.kind = 23 then { s with out := s.out ++ [.machineCheckLog (bits f.entry 51 0)] } else s

/-- Write a record at the home and advance the device's write counter; the context takes its next FID. The caller has seen
that the queue is not full. -/
def putRecord (s : State) (c : Ctx) (f : Flt) (ids : W64) (repl fut : Bool) (bufn : Nat) : State :=
  let wr := home64 s (fltBase c)
  let slot := fltBase c + 64 + wr.toNat % fltCap c * 64
  let rec_ := wordsToBytes [recordWord0 c.nextFid bufn fut repl f.acc f.kind, BitVec.ofNat 64 f.va, f.entry, ids, f.prog4, f.prog5,
    BitVec.ofNat 64 s.now, 0]
  let s := c.put (c.put s slot rec_) (fltBase c) (toBytes 8 (wr + 1).toNat)
  setCtx s { c with nextFid := if c.nextFid + 1 = 2 ^ 32 then 1 else c.nextFid + 1 }

/-- IDS of a warp. -/
def warpIds (s : State) (w : Warp) (level : Nat) : W64 :=
  match findBlock s w.block with
  | some b => idsWord (((findLaunch s b.launch).map (·.grid)).getD 0) b.idx w.idx w.core level
  | none => idsWord 0 0 w.idx w.core level

/-! ### Pre-emption (17/R399-R401) -/

/-- Registers that still hold their marks get back what they held: no write of the program's (13/R292). -/
def unmark (w : Warp) (marks : List (Nat × Nat × W32 × W32)) : Warp :=
  marks.foldl (fun w m => if lane (w.readV m.1) m.2.1 = m.2.2.1 then w.putV m.1 (setLane (w.readV m.1) m.2.1 m.2.2.2) else w) w

/-- Take back the block's quad instructions that have not started: flags fall and each warp resumes at its instruction
(13/R284); one whose operation is parked waits there for its FID (03/R57). -/
def withdrawQuads (s : State) (block : Nat) : State :=
  let undo := fun (s : State) (wid pc : Nat) (wait : Wait) (tied : Option Nat) (marks : List (Nat × Nat × W32 × W32)) =>
    match findWarp s wid with
    | none => s
    | some w => setWarp s (unmark { w.lower tied with
        quadSeq := w.quadSeq - 1
        groups := w.groups.map fun g => { g with pc, wait, entry := .resume } } marks)
  let s := (s.warps.filter (·.block == block)).foldl (fun s w =>
    (w.quadQ.reverse).foldl (fun s q => undo s w.id q.pc .none q.tied q.marks) (setWarp s { w with quadQ := [] })) s
  let mine := s.ops.filter fun o => o.block == block && o.st == .formed
  let s := mine.reverse.foldl (fun s o =>
    (List.range 4).foldl (fun s i => undo s (o.warps.getD i 0) (o.pcs.getD i 0) (match o.parked with | some n => .parked n | none => .none) (o.flags.getD i none) (o.marks.getD i []))
      (withdraw (dropPermit s (o.pair / 48) o.permit) (.joint o.id))) s
  { s with ops := s.ops.filter fun o => !(o.block == block && o.st == .formed) }

/-- A wait that ends when the unit is chosen again after a save; a parked instruction stays parked. -/
def savedWait : Wait → Wait
  | .retry | .stall | .batch _ | .grant _ | .grow | .permits | .migrate => .none
  | w => w

/-- How a unit that is saved comes to its slot again: it resumes there, which checks no BTGT bit. A transfer whose line it has
not entered yet is still checked when it does; one that waits for flags has passed the check (08/R168, R170, log 21). -/
def savedEntry (wait : Wait) (entry : Entry) : Entry :=
  match entry, wait with
  | .transfer _, .flags _ | .returned _, .flags _ => .resume
  | .transfer src, _ => .transfer src
  | .returned src, _ => .returned src
  | _, _ => .resume

/-- Every access that a block has outstanding is complete, so is every started joint operation, and no group waits for a seal
(09/R211). -/
def canSave (s : State) (b : Block) : Bool :=
  (s.outs.all fun o => (findWarp s o.warp).all (·.block != b.id))
    && s.ops.all (fun o => o.block != b.id || o.st == .formed)
    && (s.warps.filter (·.block == b.id)).all fun w => w.groups.all fun g => match g.wait with | .seal _ _ => false | _ => true

/-- Save a block: every access performed at device scope (07/R145), the warps leave their cores (17/R399-R400). Fault-buffer
lines of its warps are discarded (03/R57). -/
def saveBlock (s : State) (b : Block) : State :=
  let s := withdrawQuads s b.id
  let ws := s.warps.filter (·.block == b.id)
  let s := dropRsvWaits s fun id => ws.any (·.id == id)
  let s := ws.foldl (fun s w => restartGrow (withdrawWarp (releaseAt s (whoOf s w) .home) w.id) w.core) s
  let s := { s with
                    growWait := s.growWait.filter fun x => !(ws.any fun w => w.id == x.warp)
                    warps := updWhere (·.block == b.id) (fun w => { w with
                      resident := false
                      -- a fragment is saved as a group of its warp (R122)
                      groups := w.groups.map fun g => { g with wait := savedWait g.wait, entry := savedEntry g.wait g.entry, replay := [], frag := none }
                      acc := { w.acc with entry := savedEntry w.acc.wait w.acc.entry }
                      -- stream entries in flight are discarded and issued again (10/R241)
                      q := tabMap {} 8 (fun (q : Queue) => { q with stream := { q.stream with next := q.stream.next - q.stream.flight.length, flight := [] } }) w.q }) s.warps }
  let s := setBlock s { b with placed := false, saving := false, slotted := false }
  if b.pair then parkPair (emptyLatch s (pairOf b.core)) (pairOf b.core) else s

/-- A block that is to be saved is saved as soon as it can be. -/
def trySave (s : State) (id : Nat) : State :=
  match findBlock s id with
  | some b => if b.saving && canSave s b then saveBlock s b else s
  | none => s

/-- The block's warps stop at their instruction boundaries, and it is saved (17/R399-R400). -/
def startSave (s : State) (id : Nat) : State :=
  match findBlock s id with
  | some b => if b.ended || !b.placed then s else trySave (setBlock s { b with saving := true }) id
  | none => s

/-- A fault record for which the manual gives no address and no access: both are free values (log 26). -/
def openFlt (s : State) (f : Flt) : State × Flt :=
  let n := fresh s
  (n.2, { f with acc := freeAcc s, va := n.1 % 2 ^ 64 })

/-- Searches of a context that still run. -/
def liveSearches (s : State) (ctx : Nat) : List Query := s.queries.filter fun q => q.ctx == ctx && !q.ended

/-- Room for the records of a halt. -/
def haltRoom (s : State) (c : Ctx) : Bool := fltRoom s c (1 + (liveSearches s c.slot).length)

/-- Bank instances of a context that stops leave their sequencers; one whose row step is in progress finishes it first
(17/R401). -/
def benchInsts (s : State) (ctx : Nat) : State :=
  let out := fun (i : NbInst) => i.ctx == ctx && i.started && !i.inStep
  let freed := (s.insts.filter out).map (·.chan)
  { s with
    insts := updWhere out (fun i => { i with started := false, saved := true, suspended := false }) s.insts
    chans := (updWhere (fun (c : Chan) => freed.contains c.chan) (fun c => { c with owesStep := false, windowPassed := false })
      s.chans).filter fun c => c != { chan := c.chan } }

/-- Stop every unit of a context and save it (15/R366 `halt`): its record, and one record for each search still running. -/
def haltCtx (s : State) (c : Ctx) (code : Nat) (ids : W64) : State :=
  let o := openFlt s { kind := 19, acc := 0, va := 0, entry := BitVec.ofNat 64 code }
  let s := putRecord o.1 c o.2 ids false false 0
  let s := (liveSearches s c.slot).foldl (fun s q =>
    match findCtx s c.slot with
    | none => s
    | some c' =>
        let o := openFlt s { kind := 19, acc := 0, va := 0, entry := BitVec.ofNat 64 code
                             prog4 := BitVec.ofNat 64 (q.evals % 2 ^ 32 + q.heap.length * 2 ^ 32)
                             prog5 := BitVec.ofNat 64 (8 * 2 ^ 56 + q.id % 2 ^ 32) }
        putRecord o.1 c' o.2 ids false false 0) s
  let s := (s.blocks.filter (·.ctx == c.slot)).foldl (fun s b => startSave s b.id) s
  benchInsts { s with ctxs := updWhere (·.slot == c.slot) (fun x => { x with halted := true }) s.ctxs } c.slot

/-! ### Taking a fault (03/R54-R57) -/

/-- A queued-class block is task class (03/R57, 06/R111). -/
def taskClass (s : State) (b : Block) : Bool := (findLaunch s b.launch).any (·.cls == 2)

/-- The lines of lanes that translated stay in the core's fault buffer, as far as it has room (03/R55); a block that leaves its
core keeps none (R57). -/
def holdLines (s : State) (w : Warp) (fid : Nat) (lines : List Nat) : State :=
  let room := 256 - (s.fbuf.filter (·.core == w.core)).length
  let new := lines.eraseDups.filter fun l => !s.fbuf.any fun x => x.core == w.core && x.ctx == w.ctx && x.fid == fid && x.pa == l
  { s with fbuf := s.fbuf ++ (new.take room).map fun l => ⟨w.core, fid, w.ctx, l, viewLine s (whoOf s w) l⟩ }

/-- A fault of a unit of a warp: parked on a FID in replayable mode, otherwise recorded and the block killed. While the fault
queue is full the unit waits (R53). A task-class block waits on the future of the FID and is saved (R57). `put` gives the warp
with the unit waiting. -/
def takeFaultBy (s : State) (w : Warp) (put : Wait → Warp) (f : Flt) : State :=
  let s := if f.vaFree then (fresh s).2 else s
  let f := if f.vaFree then { f with va := Config.freeNat (s.free - 1) % 2 ^ 64 } else f
  match findCtx s w.ctx, findBlock s w.block with
  | some c, some b =>
    let stay := { setWarp s (put .retry) with last := .waited }
    let fut := taskClass s b
    let park := fun (s : State) (fid : Nat) =>
      let s1 := setWarp (if fut then s else holdLines s w fid f.buf) (put (.parked fid))
      { (if fut then startSave s1 b.id else s1) with last := .trapped }
    if c.replays ∧ f.fatal = false ∧ (f.kind = 1 ∨ f.kind = 2) then
      match c.parked.find? (fun p => p.page == f.va / 4096 && p.kind == f.kind) with
      | some p => park s p.fid
      | none =>
        if fltFull s c then stay else
        let n := if fut then 0 else min f.buf.eraseDups.length (256 - (s.fbuf.filter (·.core == w.core)).length)
        let s1 := putRecord s c f (warpIds s w f.level) true fut n
        park { s1 with ctxs := updWhere (·.slot == c.slot) (fun x => { x with parked := ⟨c.nextFid, f.va / 4096, f.kind⟩ :: x.parked }) s1.ctxs }
          c.nextFid
    else if fltFull s c then stay
    else
      { killBlock (logFault (putRecord s c f (warpIds s w f.level) false false 0) f) b.id .fault with last := .trapped }
  | _, _ => { s with last := .trapped }

/-- A fault of a PC group. -/
def takeFault (s : State) (w : Warp) (g : Group) (f : Flt) : State :=
  takeFaultBy s w (fun x => w.setGroup { g with wait := x }) f

/-! ### Taking a trap and returning (17/R389-R395) -/

/-- An unhandled trap: a record of KIND 21 and the kill (17/R395). -/
def unhandled (s : State) (w : Warp) (g : Group) (cause : Nat) (at_ : W64) : State :=
  match findCtx s w.ctx with
  | some c =>
    if fltFull s c then { setWarp s (w.setGroup { g with wait := .retry }) with last := .waited } else
    let s1 := putRecord s c { kind := 21, acc := freeAcc s, va := at_.toNat, entry := BitVec.ofNat 64 (cause + if w.hm then 256 else 0) }
      (warpIds s w 7) false false 0
    { killBlock s1 w.block .fault with last := .trapped }
  | none => { s with last := .trapped }

/-- TCAUSE after a trap (17/R391). -/
def causeWord (cause code : Nat) : W64 := BitVec.ofNat 64 (code % 65536 * 65536 + 256 + cause % 256)

/-- Take a trap of group `g` at its own slot (17/R392). `tepc` is what TEPC receives; a TVEC that is no code address fails
as its transfer does, and is unhandled. -/
def takeTrap (s : State) (w : Warp) (g : Group) (cause info code : Nat) (tepc : W64) : State :=
  if w.hm || w.tvec == 0 then
    if cause = 11 ∧ w.hm = false then
      match findCtx s w.ctx with
      | some c =>
        if !haltRoom s c then { setWarp s (w.setGroup { g with wait := .retry }) with last := .waited }
        else { haltCtx (setWarp s (w.setGroup g.next)) c code (warpIds s w 7) with last := .trapped }
      | none => { s with last := .trapped }
    else unhandled s w g cause (codeAddr g.pc)
  else
    let w1 := { w with tepc, tcause := causeWord cause code, tinfo := BitVec.ofNat 64 info, handler := g.slices, runs := g.slices }
    match slotIndex w.tvec with
    | none => unhandled (setWarp s (w1.setGroup g)) w1 g 3 (codeAddr g.pc)
    | some t => { setWarp s (w1.setGroup (g.goto t)) with last := .trapped }

/-- TEPC of a trap at a slot (17/R392): the slot after for `trap`, `brk` and `syscall`, else the slot itself. -/
def trapPc (cause pc : Nat) : W64 := codeAddr (if 10 ≤ cause then pc + 1 else pc)

/-- The other groups of the warp issue again and the group continues at TEPC (17/R394). -/
def returnFrom (w : Warp) (g : Group) (t : Nat) : Warp :=
  { w with tcause := w.tcause &&& ~~~ (0x100 : W64), handler := 0 }.setGroup { g.goto t with entry := .returned g.pc }

/-- What a stop does to the state as it stood before the instruction. -/
def stopped (s : State) (w : Warp) (g : Group) (word : W64) : Stop → State
  | .trap c info code => takeTrap s w g c (if c = 1 then word.toNat else info) code (trapPc c g.pc)
  | .fault f => takeFault s w g f
  | .wait x => { setWarp s (w.setGroup { g with wait := x }) with last := .waited }
  | .held s' => { s' with last := .waited }

/-- Every flag of a mask is clear. -/
def flagsClear (w : Warp) (m : BitVec 12) : Bool := (List.range 12).all fun i => !bit m i || w.flag i == 0

/-- The group of a warp that issues next among those that `ok` allows: in handler mode only the handler's, whole, parted or merged; else the running
one, or the one with the lowest slice (06/R121, 17/R392). Fragments are chosen apart. -/
def nextGroup (w : Warp) (ok : Group → Bool) : Option Group :=
  let able := fun (g : Group) => ok g && (!w.hm || g.slices &&& w.handler != 0)
  match w.groups.find? fun g => g.slices == w.runs && able g with
  | some g => some g
  | none =>
    (w.groups.filter fun g => able g && (g.frag.isNone || w.hm)).foldl (fun r g => match r with
      | none => some g
      | some h => if lowestBit 8 0 g.slices.toNat < lowestBit 8 0 h.slices.toNat then some g else some h) none

/-- What a stop does to the access slice of a warp: a trap stops it and is delivered later (17/R393). -/
def accessStopped (s : State) (w : Warp) : Stop → State
  | .trap c _ _ => { setWarp s { w with acc := { w.acc with st := .trapped c (codeAddr w.acc.pc).toNat } } with last := .trapped }
  | .fault f => takeFaultBy s w (fun x => { w with acc := { w.acc with wait := x } }) f
  | .wait x => { setWarp s { w with acc := { w.acc with wait := x } } with last := .waited }
  | .held s' => { s' with last := .waited }

/-- Bits [63:0] of the word that stands at the group's slot (17/R390). -/
def Group.word (g : Group) : W64 :=
  match g.entry with
  | .inside l => (slotWord l (g.pc % 5)).extractLsb' 0 64
  | _ => 0

/-! ### Queues (06/R132-R133) -/

def queueAt (w : Warp) (n : Nat) : Queue := tabGet {} w.q n
def putQueue (w : Warp) (n : Nat) (q : Queue) : Warp := { w with q := tabSet {} w.q n q }

/-- The queues that the word's operands name, each once. -/
def queuesOf (f : Fields) : List Nat :=
  ((if f.ak = .queue then [f.a.toNat] else []) ++ (if f.bk = .queue then [f.b.toNat] else [])).eraseDups

/-- A queue can be pushed to no more (10/R238): CLOSED, which no stream of it is while RUNNING; every queue counts as closed
once the access slice has trapped (17/R393). -/
def queueFinished (w : Warp) (q : Queue) : Bool :=
  (match w.acc.st with | .trapped _ _ => q.stream.st != .running | _ => false) || q.stream.st == .closed

/-- The checks before a pop: parting, underflow, or a wait on an empty queue. -/
def popCheck (src w : Warp) (g : Group) : List Nat → Except Stop Unit
  | [] => .ok ()
  | n :: r =>
    if w.parted || g.frag.isSome then .error (.trap 7 n 0) else
    match (tabGet {} src.q n).entries with
    | _ :: _ => popCheck src w g r
    | [] => if queueFinished src (tabGet {} src.q n) then .error (.trap 6 n 0) else .error (.wait .stall)

/-- Pop the queues once for the word; a pair's second operation does not pop again (08/R174). -/
def popAll (s : State) (w : Warp) (qs : List Nat) : State × Warp :=
  let new := qs.filter fun n => !(s.view.isSome && s.popped.contains n)
  ({ s with popped := s.popped ++ new },
    new.foldl (fun w n => putQueue w n { queueAt w n with entries := (queueAt w n).entries.drop 1 }) w)

/-- The entry at the head of a queue. -/
def headOf (src : Warp) (n : Nat) : VReg := ((tabGet {} src.q n).entries.headD 0)

/-! ### The common frame of an execute-slice instruction -/

/-- What an execute-slice meaning works on: the warp as it stands, the warp whose registers are read, the group, the lanes of
the group that are active, and those enabled by the predicate. -/
structure Exe where
  w : Warp
  src : Warp
  g : Group
  act : W32
  en : W32

/-- Slices with an enabled lane. -/
def Exe.slices (x : Exe) : List Nat := slicesOf (lanesSlices x.en)

/-- The elected slice: the lowest with an enabled lane (09/R211, 10/R219). -/
def Exe.elect (x : Exe) : Nat := x.slices.headD 0

/-- An s-register of the elected slice. -/
def Exe.s (x : Exe) (n : Nat) : W64 := x.src.readS x.elect n

/-- Run a meaning for the issuing group: pops, the body, and what a stop does. -/
def execute (s : State) (f : Fields) (body : State → Exe → Except Stop State) : Host.Outcome State Fault Refusal :=
  match issuer s with
  | none => .fault .noIssuer
  | some (w, g) =>
    let src := sourceOf s w
    match popCheck src w g (queuesOf f) with
    | .error e => .next (stopped s w g g.word e)
    | .ok () =>
      let p := popAll s w (queuesOf f)
      let act := groupLanes w g
      match body p.1 { w := p.2, src, g, act, en := act &&& predicate src f } with
      | .ok s' => .next { s' with last := .retired }
      | .error e => .next (stopped s w g g.word e)

/-- Run an event's meaning: it always gives a next state. -/
def event (s : State) (body : State → State) : Host.Outcome State Fault Refusal := .next (body s)

/-- The completion flag that a tied word reports to (08/R169): the flag of the entered line. -/
def tiedFlag (g : Group) (f : Fields) : Option Nat :=
  match g.entry with
  | .inside l => match f.cf with
    | .none => none
    | .a => lineSetA l
    | .b => lineSetB l
  | _ => none

/-- A tied instruction that would raise a count above 15 waits at issue (08/R169). -/
def tieCheck (w : Warp) : Option Nat → Except Stop Unit
  | none => .ok ()
  | some n => if 15 ≤ w.flag n then .error (.wait .retry) else .ok ()

end Sys2Proof.Machine
end

