-- ==== Sys2Proof/Machine/Operands.lean ====
section
/-! DEFINITION. Operand forms: special operands (06/R124), operand A and B in the vector and scalar forms (08/R173-R175,
11/R245), the common shape of lane and slice results (06/R115-R116), and addresses (09/R198). -/

namespace Sys2Proof.Machine

/-- The value of a special operand for a warp; lane and slice for the per-lane and per-slice numbers (06/R124). -/
def specialValue (s : State) (w : Warp) (lane slice n : Nat) : Nat :=
  let b := findBlock s w.block
  let l := b.bind fun b => findLaunch s b.launch
  let idx := (b.map (·.idx)).getD 0
  match n with
  | 0x00 => lane
  | 0x01 => slice
  | 0x02 => w.idx
  | 0x03 => idx
  | 0x04 => match l with
    | some l => if l.cls = 2 ∨ l.kernel.clus = 0 then 0 else idx / l.kernel.clus
    | none => 0
  | 0x05 => (l.map (·.grid)).getD 0
  | 0x06 => (l.map (·.nwarp)).getD 0
  | 0x07 => (l.map (·.nblk)).getD 0
  | 0x08 => match l with
    | some l => if l.cls = 2 then (l.task.toNat + idx) % 2 ^ 32 else 2 ^ 32 - 1
    | none => 2 ^ 32 - 1
  | 0x10 => w.core
  | 0x11 => w.quad
  | 0x12 => dieOf w.core
  | _ => w.core % 2

/-- Operand A in a lane. -/
def laneA (s : State) (x : Exe) (f : Fields) (L : Nat) : W32 :=
  match f.ak with
  | .reg => lane (x.src.readV f.a.toNat) L
  | .queue => lane (headOf x.src f.a.toNat) L
  | .special => BitVec.ofNat 32 (specialValue s x.src L (L / 4) f.a.toNat)

/-- Operand B in a lane; an immediate is taken as written (08/R175). -/
def laneB (s : State) (x : Exe) (f : Fields) (L : Nat) : W32 :=
  match f.bk with
  | .reg => lane (x.src.readV f.b.toNat) L
  | .imm => f.imm
  | .queue => lane (headOf x.src f.b.toNat) L
  | .special => BitVec.ofNat 32 (specialValue s x.src L (L / 4) f.b.toNat)

/-- LANEID in a scalar form, where there is no lane: a free value for each slice and operand (log 71). -/
def lanelessId (s : State) (k j : Nat) : W64 := BitVec.ofNat 64 (Config.freeNat (s.free + 8 * k + j) % 2 ^ 32)

/-- The state after an instruction that may have read such values. -/
def usedLaneless (s : State) (f : Fields) : State :=
  if f.sc && (f.ak == .special && f.a == 0 || f.bk == .special && f.b == 0) then { s with free := s.free + 16 } else s

/-- Operand A of a slice: a queue entry gives the value of the slice's first enabled lane's place, zero-extended. -/
def sliceA (s : State) (x : Exe) (f : Fields) (j : Nat) : W64 :=
  match f.ak with
  | .reg => x.src.readS j f.a.toNat
  | .queue => zx64 (lane (headOf x.src f.a.toNat) ((lanesOf (x.en &&& BitVec.ofNat 32 (15 <<< (4 * j)))).headD (4 * j)))
  | .special => if f.a = 0 then lanelessId s 0 j else BitVec.ofNat 64 (specialValue s x.src 0 j f.a.toNat)

/-- An immediate in the operand type (08/R175). -/
def immIn (ty : Ty) (imm : W32) : W64 :=
  match ty with
  | .s64 => sx64 imm
  | _ => zx64 imm

/-- Operand B of a slice. -/
def sliceB (s : State) (x : Exe) (f : Fields) (j : Nat) : W64 :=
  match f.bk with
  | .reg => x.src.readS j f.b.toNat
  | .imm => immIn f.ty f.imm
  | .queue => zx64 (lane (headOf x.src f.b.toNat) ((lanesOf (x.en &&& BitVec.ofNat 32 (15 <<< (4 * j)))).headD (4 * j)))
  | .special => if f.b = 0 then lanelessId s 1 j else BitVec.ofNat 64 (specialValue s x.src 0 j f.b.toNat)

/-! ### Results (06/R115-R116) -/

/-- A vector register with the lanes of a mask given new values. -/
def mapLanes (v : VReg) (en : W32) (fn : Nat → W32) : VReg :=
  (lanesOf en).foldl (fun v L => setLane v L (fn L)) v

/-- Write vD in the enabled lanes and retire. -/
def vecResult (s : State) (x : Exe) (d : Nat) (fn : Nat → W32) : State :=
  retire s (x.w.writeV d x.en (mapLanes (x.w.readV d) x.en fn)) x.g

/-- Write sD in the slices with an enabled lane and retire. -/
def scaResult (s : State) (x : Exe) (d : Nat) (fn : Nat → W64) : State :=
  retire s (x.slices.foldl (fun w j => w.writeS j d (fn j)) x.w) x.g

/-- Write the bits of kD for the enabled lanes and retire (11/R246). -/
def maskResult (s : State) (x : Exe) (d : Nat) (fn : Nat → Bool) : State :=
  let m := (lanesOf x.en).foldl (fun (a : W32) L => if fn L then a ||| BitVec.ofNat 32 (1 <<< L) else a) 0
  retire s (x.w.writeK d ((x.w.readK d &&& ~~~ x.en) ||| m)) x.g

/-- Write cD in the slices with an enabled lane and retire. -/
def condResult (s : State) (x : Exe) (d : Nat) (fn : Nat → Cond) : State :=
  retire s (x.slices.foldl (fun w j => w.writeC j d (fn j)) x.w) x.g

/-! ### Integer types -/

/-- Elements, width and signedness of a type (08/R176). -/
def tyShape : Ty → Nat × Nat × Bool
  | .u32 => (1, 32, false) | .s32 => (1, 32, true) | .u64 => (1, 64, false) | .s64 => (1, 64, true)
  | .f32 => (1, 32, false) | .f16x2 => (2, 16, false) | .bf16x2 => (2, 16, false) | .u16x2 => (2, 16, false)
  | .s16x2 => (2, 16, true) | .u8x4 => (4, 8, false) | .s8x4 => (4, 8, true) | .b32 => (1, 32, false)
  | .b64 => (1, 64, false) | .mask => (1, 32, false)

/-- Width of the whole type. -/
def tyWidth (ty : Ty) : Nat := (tyShape ty).1 * (tyShape ty).2.1

/-- An element as an integer. -/
def elemInt (ty : Ty) (x i : Nat) : Int :=
  let (_, w, signed) := tyShape ty
  let e := x / 2 ^ (w * i) % 2 ^ w
  if signed then sextNat w e else (e : Int)

/-- Apply an exact integer function to each element, then keep the low bits or clamp (11/R256). -/
def intMap (ty : Ty) (sat : Bool) (g : Int → Int → Int → Int) (x y z : Nat) : Nat :=
  let (n, w, signed) := tyShape ty
  (List.range n).foldl (fun a i =>
    let r := g (elemInt ty x i) (elemInt ty y i) (elemInt ty z i)
    let lo : Int := if signed then -(2 ^ (w - 1) : Nat) else 0
    let hi : Int := ((2 ^ (if signed then w - 1 else w) : Nat) : Int) - 1
    let r := if sat then (if r < lo then lo else if hi < r then hi else r) else r
    a + (toBits w r).toNat <<< (w * i)) 0

/-- The common meaning of the computing instructions: `g` takes operand A, operand B, the C register and the destination's
old value as numbers, and gives the result in the type's width (11/R245, 12/R265). -/
def compute (s : State) (x : Exe) (f : Fields) (g : Nat → Nat → Nat → Nat → Nat) : State :=
  let m := 2 ^ tyWidth f.ty
  if f.sc then
    scaResult (usedLaneless s f) x f.d.toNat fun j =>
      BitVec.ofNat 64 (g ((sliceA s x f j).toNat % m) ((sliceB s x f j).toNat % m) ((x.src.readS j f.c.toNat).toNat % m)
        ((x.src.readS j f.d.toNat).toNat % m) % m)
  else
    vecResult s x f.d.toNat fun L =>
      BitVec.ofNat 32 (g (laneA s x f L).toNat (laneB s x f L).toNat (lane (x.src.readV f.c.toNat) L).toNat
        (lane (x.src.readV f.d.toNat) L).toNat)

/-- An integer instruction computed element by element. -/
def intOp (s : State) (x : Exe) (f : Fields) (g : Int → Int → Int → Int) : State :=
  compute s x f fun a b c _ => intMap f.ty (bit f.md 2) g a b c

/-! ### Addresses (09/R198-R199, R206, R208) -/

/-- sX + sext(opB) + sext(IMM32) of a lane, as a signed number of its own slice. -/
def laneAddr (s : State) (x : Exe) (f : Fields) (L : Nat) : Int :=
  (toBits 64 ((x.src.readS (L / 4) f.c.toNat).toInt + (laneB s x f L).toInt + f.imm.toInt)).toInt

/-- The same in the scalar form, with the slice's own registers: operand B counts by its low 32 bits as in a lane (DEDUCED
from 09/R199, log 20). -/
def sliceAddr (s : State) (x : Exe) (f : Fields) (j : Nat) : Int :=
  (toBits 64 ((x.src.readS j f.c.toNat).toInt + ((sliceB s x f j).setWidth 32).toInt + f.imm.toInt)).toInt

/-- The units of a per-lane instruction: lanes in the vector form, slices with an enabled lane in the scalar form. -/
def unitsOf (x : Exe) (f : Fields) : List Nat := if f.sc then x.slices else lanesOf x.en

/-- The address of a unit. -/
def unitAddr (s : State) (x : Exe) (f : Fields) (u : Nat) : Int := if f.sc then sliceAddr s x f u else laneAddr s x f u

/-- The data register of a unit as a number. -/
def unitData (x : Exe) (f : Fields) (d u : Nat) : Nat :=
  if f.sc then (x.src.readS u d).toNat else (lane (x.src.readV d) u).toNat

/-- The data register of a unit written. -/
def writeUnit (w : Warp) (f : Fields) (d u val : Nat) : Warp :=
  if f.sc then w.writeS u d (BitVec.ofNat 64 val)
  else w.writeV d (laneMask u) (setLane (w.readV d) u (BitVec.ofNat 32 val))

/-- Bytes of one access of a type. -/
def accessSize (ty : Ty) : Nat := tyWidth ty / 8

end Sys2Proof.Machine
end

