-- ==== Sys2Proof/Machine/Float.lean ====
section
/-! DEFINITION. Floating point, special functions and conversion (12/R265-R279), and the stochastic LFSR that conversions
step (05/R104-R105). -/

namespace Sys2Proof.Machine

/-! ### Elementwise arithmetic -/

/-- Format and number of elements of a floating-point type. -/
def fpFmt : Ty → BinFmt × Nat
  | .f16x2 => (f16Fmt, 2)
  | .bf16x2 => (bf16Fmt, 2)
  | _ => (f32Fmt, 1)

/-- Apply a function to each element of a type. -/
def fpMap (ty : Ty) (g : BinFmt → Nat → Nat → Nat → Nat) (a b c : Nat) : Nat :=
  let F := (fpFmt ty).1
  let n := (fpFmt ty).2
  let w := 32 / n
  (List.range n).foldl (fun r i =>
    let el := fun (x : Nat) => x / 2 ^ (w * i) % 2 ^ w
    r + (g F (el a) (el b) (el c) % 2 ^ w) <<< (w * i)) 0

/-- The rounding mode, `.sat` and `.ftz` of MD (08/R177). -/
def modeOf (f : Fields) : Nat := bits f.md 1 0
def satOf (f : Fields) : Bool := bit f.md 2
def ftzOf (f : Fields) : Bool := bit f.md 3

/-- The steps of 12/R267 around an exact result. -/
def fpRound (f : Fields) (op : Val → Val → Val → Val) (F : BinFmt) (a b c : Nat) : Nat :=
  let v := fun (x : Nat) => F.value (F.flush (ftzOf f) x)
  F.result (modeOf f) (satOf f) (ftzOf f) (op (v a) (v b) (v c))

/-- A rounding arithmetic instruction. -/
def fpOp (s : State) (x : Exe) (f : Fields) (op : Val → Val → Val → Val) : State :=
  compute s x f fun a b c _ => fpMap f.ty (fpRound f op) a b c

def execFadd (f : Fields) (s : State) : Host.Outcome State Fault Refusal :=
  execute s f fun s x => .ok (fpOp s x f fun a b _ => addVal (modeOf f) a b)

def execFsub (f : Fields) (s : State) : Host.Outcome State Fault Refusal :=
  execute s f fun s x => .ok (fpOp s x f fun a b _ => addVal (modeOf f) a (negVal b))

def execFmul (f : Fields) (s : State) : Host.Outcome State Fault Refusal :=
  execute s f fun s x => .ok (fpOp s x f fun a b _ => mulVal a b)

def execFfma (f : Fields) (s : State) : Host.Outcome State Fault Refusal :=
  execute s f fun s x => .ok (fpOp s x f fun a b c => addVal (modeOf f) (mulVal a b) c)

def execHadd2 (f : Fields) (s : State) : Host.Outcome State Fault Refusal :=
  execute s f fun s x => .ok (fpOp s x f fun a b _ => addVal (modeOf f) a b)

def execHmul2 (f : Fields) (s : State) : Host.Outcome State Fault Refusal :=
  execute s f fun s x => .ok (fpOp s x f fun a b _ => mulVal a b)

def execHfma2 (f : Fields) (s : State) : Host.Outcome State Fault Refusal :=
  execute s f fun s x => .ok (fpOp s x f fun a b c => addVal (modeOf f) (mulVal a b) c)

/-- The exponent of `fscale`, kept where every further step has the same result: binary32 spans 277 exponents. -/
def scaleExp (n : Nat) : Int := clampInt (-600) 600 (sextNat 32 n)

/-- `fscale`: the second operand is an integer and is not flushed (12/R270). -/
def execFscale (f : Fields) (s : State) : Host.Outcome State Fault Refusal :=
  execute s f fun s x => .ok (compute s x f fun a b _ _ =>
    f32Fmt.result (modeOf f) (satOf f) (ftzOf f) (mulVal (f32Fmt.value (f32Fmt.flush (ftzOf f) a)) (.fin false (pow2 (scaleExp b)))))

/-! ### Minimum, maximum, comparison (12/R271-R272) -/

def execFmin (f : Fields) (s : State) : Host.Outcome State Fault Refusal :=
  execute s f fun s x => .ok (compute s x f fun a b _ _ => fpMap f.ty (fun F a b _ => F.minMax (ftzOf f) false a b) a b 0)

def execFmax (f : Fields) (s : State) : Host.Outcome State Fault Refusal :=
  execute s f fun s x => .ok (compute s x f fun a b _ _ => fpMap f.ty (fun F a b _ => F.minMax (ftzOf f) true a b) a b 0)

/-- A binary32 operand of a comparison. -/
def fcmpVal (f : Fields) (x : Nat) : Val := f32Fmt.value (f32Fmt.flush (ftzOf f) (x % 2 ^ 32))

def execFcmp (f : Fields) (s : State) : Host.Outcome State Fault Refusal :=
  execute s f fun s x =>
    if f.sc then .ok (condResult (usedLaneless s f) x f.d.toNat fun j =>
      fcmpFlags (fcmpVal f (sliceA s x f j).toNat) (fcmpVal f (sliceB s x f j).toNat))
    else .ok (maskResult s x f.d.toNat fun L =>
      fcmpHolds f.sub.toNat (fcmpVal f (laneA s x f L).toNat) (fcmpVal f (laneB s x f L).toNat))

/-! ### Special functions (12/R273, 05/R107) -/

/-- A special function with flush and saturation around it. -/
def specialFn (opc : Nat) (f : Fields) (a : Nat) : Nat :=
  let r := f32Fmt.flush (ftzOf f) (special opc (modeOf f) (BitVec.ofNat 32 (f32Fmt.flush (ftzOf f) a)))
  if (satOf f) && (f32Fmt.value r).isInf then f32Fmt.code (f32Fmt.value r).neg f32Fmt.maxFin else r

def execFrcp (f : Fields) (s : State) : Host.Outcome State Fault Refusal :=
  execute s f fun s x => .ok (compute s x f fun a _ _ _ => specialFn 0x47 f a)

def execFrsq (f : Fields) (s : State) : Host.Outcome State Fault Refusal :=
  execute s f fun s x => .ok (compute s x f fun a _ _ _ => specialFn 0x48 f a)

def execFsqrt (f : Fields) (s : State) : Host.Outcome State Fault Refusal :=
  execute s f fun s x => .ok (compute s x f fun a _ _ _ => specialFn 0x49 f a)

def execFex2 (f : Fields) (s : State) : Host.Outcome State Fault Refusal :=
  execute s f fun s x => .ok (compute s x f fun a _ _ _ => specialFn 0x4A f a)

def execFlg2 (f : Fields) (s : State) : Host.Outcome State Fault Refusal :=
  execute s f fun s x => .ok (compute s x f fun a _ _ _ => specialFn 0x4B f a)

def execFsin (f : Fields) (s : State) : Host.Outcome State Fault Refusal :=
  execute s f fun s x => .ok (compute s x f fun a _ _ _ => specialFn 0x4C f a)

def execFcos (f : Fields) (s : State) : Host.Outcome State Fault Refusal :=
  execute s f fun s x => .ok (compute s x f fun a _ _ _ => specialFn 0x4D f a)

def execFtanh (f : Fields) (s : State) : Host.Outcome State Fault Refusal :=
  execute s f fun s x => .ok (compute s x f fun a _ _ _ => specialFn 0x4E f a)

def execFsig (f : Fields) (s : State) : Host.Outcome State Fault Refusal :=
  execute s f fun s x => .ok (compute s x f fun a _ _ _ => specialFn 0x4F f a)

/-! ### Rounding to integral and classification (12/R274-R275) -/

/-- Round an element to an integral value; a zero result keeps the sign of its input. -/
def integral (f : Fields) (F : BinFmt) (a : Nat) : Nat :=
  let mode := if f.sub = 1 then 4 else (modeOf f)
  F.flush (ftzOf f) (match F.value (F.flush (ftzOf f) a) with
    | .nan => F.nanCode
    | .inf neg => F.infCode neg
    | .fin neg m => F.code neg (roundMag mode neg m 1 0))

def execFrnd (f : Fields) (s : State) : Host.Outcome State Fault Refusal :=
  execute s f fun s x => .ok (compute s x f fun a _ _ _ => fpMap f.ty (fun F a _ _ => integral f F a) a 0 0)

/-- The class bit of an element. -/
def classBit (F : BinFmt) (a : Nat) : Nat :=
  match F.value a with
  | .nan => if a.testBit (F.m - 1) then 9 else 8
  | .inf neg => if neg then 0 else 7
  | .fin neg m =>
    if m = 0 then (if neg then 3 else 4)
    else if F.subnormal a then (if neg then 2 else 5)
    else if neg then 1 else 6

def execFclass (f : Fields) (s : State) : Host.Outcome State Fault Refusal :=
  execute s f fun s x => .ok (compute s x f fun a _ _ _ => fpMap f.ty (fun F a _ _ => 1 <<< classBit F a) a 0 0)

/-! ### Conversion (05/R104-R106, 12/R276-R279) -/

/-- The stochastic LFSR of a core; before any context is loaded there it holds SRSEED's reset value XOR coreid (log 7). -/
def coreLfsr (s : State) (core : Nat) : W32 :=
  match tabGet none s.lfsr core with
  | some x => x
  | none => lfsrSeed 1 core

def setLfsr (s : State) (core : Nat) (x : W32) : State := { s with lfsr := tabSet none s.lfsr core (some x) }

/-- Round a value to a format code, stepping the LFSR where mode 5 meets a value that is not representable. -/
def roundElem (l : W32) (fmt mode : Nat) (sat : Bool) (v : Val) (nanNeg : Bool) : Nat × W32 :=
  if mode = 5 ∧ elemInexact fmt v = true then
    let l := lfsrStep l
    (elemRound fmt 5 sat (l.toNat % 2 ^ 24) v nanNeg, l)
  else (elemRound fmt (if mode = 5 then 0 else mode) sat 0 v nanNeg, l)

/-- The sign of a NaN code, which a conversion to DM8 keeps (05/R88). -/
def nanSign (fmt code : Nat) : Bool :=
  match binFmt fmt with
  | some F => code.testBit (F.m + F.e + F.shift)
  | none => fmt == 9 && code.testBit 7

/-- The source value of a conversion, flushed where the format is one of the first four (12/R279). -/
def sourceVal (fmt : Nat) (ftz : Bool) (code : Nat) : Val :=
  match binFmt fmt with
  | some F => if fmt ≤ 3 then F.value (F.flush ftz code) else elemValue fmt code
  | none => elemValue fmt code

/-- The destination code of a conversion, flushed likewise. -/
def destCode (fmt : Nat) (ftz : Bool) (code : Nat) : Nat :=
  match binFmt fmt with
  | some F => if fmt ≤ 3 then F.flush ftz code else code
  | none => code

/-- One element of `cvt`. -/
def cvtElem (f : Fields) (l : W32) (code : Nat) : Nat × W32 :=
  let sf := bits f.imm 7 0
  let df := bits f.imm 15 8
  let r := roundElem l df (bits f.imm 26 24) (satOf f) (sourceVal sf (ftzOf f) code) (nanSign sf code)
  (destCode df (ftzOf f) r.1, r.2)

/-- The whole lane (12/R278): the destination's new bits and the LFSR. -/
def cvtLane (f : Fields) (l : W32) (a d : Nat) : Nat × W32 :=
  let ws := (cvtWidth (bits f.imm 7 0)).getD 32
  let wd := (cvtWidth (bits f.imm 15 8)).getD 32
  let n := 32 / max ws wd
  let sel := bits f.imm 19 16
  let start := if wd < ws then d else 0
  (List.range n).foldl (fun r i =>
    let so := if ws < wd then ws * (sel * n + i) else ws * i
    let dst := if wd < ws then wd * (sel * n + i) else wd * i
    let e := cvtElem f r.2 (a / 2 ^ so % 2 ^ ws)
    let old := r.1 / 2 ^ dst % 2 ^ wd
    (r.1 - old * 2 ^ dst + (e.1 % 2 ^ wd) * 2 ^ dst, e.2)) (start, l)

def execCvt (f : Fields) (s : State) : Host.Outcome State Fault Refusal :=
  execute s f fun s x =>
    let d := f.d.toNat
    let r := (lanesOf x.en).foldl (fun (r : VReg × W32) L =>
      let e := cvtLane f r.2 (laneA s x f L).toNat (lane (x.src.readV d) L).toNat
      (setLane r.1 L (BitVec.ofNat 32 e.1), e.2)) (x.w.readV d, coreLfsr s x.w.core)
    let s1 := if r.2 = coreLfsr s x.w.core then s else setLfsr s x.w.core r.2
    .ok (retire s1 (x.w.writeV d x.en r.1) x.g)

end Sys2Proof.Machine
end

