-- ==== Sys2Proof/Machine/Records.lean ====
section
/-! DEFINITION. Buffer records and elements (09/R193-R196) and scratchpad offsets (04/R73-R74, 09/R204). -/

namespace Sys2Proof.Machine

/-! ### Buffer records (09/R193-R196) -/

/-- A buffer record, read off its five words. -/
structure BufRec where
  base : Nat
  bypass : Bool
  ef : Bool
  oobf : Bool
  oobz : Bool
  fmt : Nat
  size : Nat
  il : Nat
  blen : Nat
  stid : Nat
  stride : Nat
  sb : Nat
  rl : Nat
  rnd : Nat
  qf : Nat
  /-- a reserved bit is set -/
  dirty : Bool
deriving DecidableEq, Repr

/-- The record of five words. -/
def bufRec (ws : List W64) : BufRec :=
  let w := fun i => ws.getD i 0
  { base := (w 0).toNat, bypass := bit (w 1) 59, ef := bit (w 1) 58, oobf := bit (w 1) 57, oobz := bit (w 1) 56
    fmt := bits (w 1) 55 48, size := bits (w 1) 47 0, il := bits (w 2) 63 56, blen := bits (w 2) 55 48
    stid := bits (w 2) 47 32, stride := bits (w 2) 31 0, sb := (w 3).toNat, rl := bits (w 4) 31 16
    rnd := bits (w 4) 15 8, qf := bits (w 4) 7 0, dirty := bits (w 1) 63 60 != 0 || bits (w 4) 63 32 != 0 }

/-- The kernel's records as a block sees them; one that was not written holds zeros. -/
def recordsOf (s : State) (block : Nat) : List (List W64) :=
  match findBlock s block with
  | some b => ((findLaunch s b.launch).map (·.kernel.recs)).getD []
  | none => []

def recordOf (s : State) (block n : Nat) : BufRec := bufRec ((recordsOf s block).getD n [])

/-- Elements per lane of a type (09/R196). -/
def laneCount : Ty → Nat
  | .f16x2 | .bf16x2 | .u16x2 | .s16x2 => 2
  | .u8x4 | .s8x4 => 4
  | _ => 1

/-- Types that a record's format allows (09/R196). -/
def typeAllowed (fmt : Nat) (ty : Ty) : Bool :=
  if fmt = 0xFF then true
  else if fmtInt fmt then [.u32, .s32, .f32, .f16x2, .bf16x2, .u16x2, .s16x2, .u8x4, .s8x4].contains ty
  else [.f32, .f16x2, .bf16x2, .u32, .s32, .u16x2, .s16x2].contains ty

/-- The record checks (09/R194). -/
def BufRec.bad (r : BufRec) (ty : Ty) (store : Bool) : Bool :=
  r.base % 16 != 0 || r.dirty || (28 ≤ r.fmt && r.fmt ≤ 254) || 3 ≤ r.il || 5 < r.rnd || (15 ≤ r.qf && r.qf != 0xFF)
    || (r.fmt == 0xFF && r.qf != 0xFF) || (r.il != 0 && r.rl == 0) || (r.il == 1 && r.stride % 4 != 0)
    || (r.il == 2 && r.stride % 128 != 0) || (r.fmt == 0xFF && r.il != 0 && r.rl % 8 != 0)
    || (r.blen != 0 && (fmtScale r.fmt == .none || 28 ≤ r.fmt || r.blen != fmtBlock r.fmt))
    || !typeAllowed r.fmt ty || (store && 15 ≤ r.fmt && r.fmt ≤ 27)

/-- Width in bits of an element in memory. -/
def BufRec.width (r : BufRec) : Nat := if r.fmt = 0xFF then 8 else fmtBits r.fmt

/-- An element in memory: row, column, bit offset before the swizzle, VA of its first byte, first bit in that byte. -/
structure Elem where
  index : Int
  row : Int
  col : Int
  bitoff : Int
  va : Nat
  sh : Nat
deriving DecidableEq, Repr

/-- The map of an element index (09/R195). A negative index divides towards minus infinity (log 25). -/
def BufRec.elem (r : BufRec) (e : Int) : Elem :=
  let w := r.width
  let row : Int := if r.rl = 0 then 0 else e / (r.rl : Int)
  let col : Int := if r.rl = 0 then e else e % (r.rl : Int)
  let bitoff := (toBits 64 (if r.il = 0 then e * w else row * r.stride * 8 + col * w)).toInt
  let byteoff := toBits 64 (bitoff / 8)
  let byteoff := if r.il = 2 then byteoff ^^^ ((((toBits 64 row) &&& 7) <<< 4)) else byteoff
  { index := e, row, col, bitoff, va := (BitVec.ofNat 64 r.base + byteoff).toNat, sh := (bitoff % 8).toNat }

/-- In bounds (09/R195). -/
def BufRec.inside (r : BufRec) (x : Elem) : Bool := 0 ≤ x.index && x.bitoff + r.width ≤ (8 * r.size : Nat)

/-- Bytes that an element touches. -/
def BufRec.span (r : BufRec) (x : Elem) : Nat := (x.sh + r.width + 7) / 8

/-- A block number as the scale caches key it: 64 bits, two's complement (05/R91, log 68). -/
def blockKey (n : Int) : Nat := (toBits 64 n).toNat

/-- An address that a sum gives: below 0 it reads as its 64 bits, so that it is no canonical address. -/
def sumVa (n : Int) : Nat := if n < 0 then (toBits 64 n).toNat else n.toNat

/-- Address of a block record (13/R295): the sum is exact, so one past the address space is not canonical. -/
def scaleVa (r : BufRec) (blk : Nat) : Nat := sumVa ((r.sb : Int) + 4 * sextNat 64 blk)

/-! ### Scratchpad (04/R73-R74) -/

/-- Where an offset of a warp's block lies: the follower's allocation or the block's own, and the offset there. -/
def spadPlace (b : Block) (core : Nat) (off : Int) (n : Nat) : Option (Bool × Nat) :=
  let follower := b.pair && core % 2 == 1
  if 0 ≤ off ∧ off + n ≤ b.scr then some (follower, off.toNat)
  else if b.pair = true ∧ 0x80000 ≤ off ∧ off + n ≤ 0x80000 + (b.scr : Int) then some (!follower, (off - 0x80000).toNat)
  else none

/-- A byte of a block's scratchpad: the follower's allocation, or its own. -/
def spadByte (b : Block) (follower : Bool) (off : Nat) : Byte := tabGet 0 (if follower then b.spadF else b.spad) off

def spadBytes (b : Block) (p : Bool × Nat) (n : Nat) : List Byte := (List.range n).map fun i => spadByte b p.1 (p.2 + i)

/-- Bytes of the scratchpad count as written now: the write is over only when what made it is complete (13/R293). -/
def stampSpad (b : Block) (by_ : Nat) (ps : List (Bool × Nat)) : Block :=
  if ps = [] then b
  else
    let n := b.spadClock + 1
    { b with spadClock := n, spadStamp := ps.foldl (fun t p => tabSet (0, 0) t (2 * p.2 + if p.1 then 1 else 0) (n, by_)) b.spadStamp }

/-- Bytes written to a scratchpad by a warp (2 × its number) or its engines (one above). -/
def putSpad (b : Block) (by_ : Nat) (p : Bool × Nat) (bytes : List Byte) : Block :=
  let put := fun (t : Tab Byte) => (bytes.zipIdx).foldl (fun t x => tabSet 0 t (p.2 + x.2) x.1) t
  let n := b.spadClock + 1
  let stamps := (List.range bytes.length).foldl (fun t i => tabSet (0, 0) t (2 * (p.2 + i) + if p.1 then 1 else 0) (n, by_)) b.spadStamp
  let b := { b with spadClock := n, spadStamp := stamps }
  if p.1 then { b with spadF := put b.spadF } else { b with spad := put b.spad }

end Sys2Proof.Machine
end

