-- ==== Sys2Proof/Machine/CopyRuns.lean ====
section
/-! DEFINITION. Which bytes a copy command reads and writes (10/R226-R231), as runs of places: what R224 leaves undefined
until the command completes depends on them. -/

namespace Sys2Proof.Machine

/-- A space: memory by VA of the command's context, the scratchpad of the block's own core, or that of its follower. -/
inductive Space where
  | memory | own | follower
deriving DecidableEq, Repr

/-- A run of bytes in a space. -/
structure Run where
  space : Space
  at_ : Nat
  len : Nat
deriving DecidableEq, Repr

def Run.holds (r : Run) (sp : Space) (x : Nat) : Bool := r.space == sp && r.at_ ≤ x && x < r.at_ + r.len

def spaceOf (follower : Bool) : Space := if follower then .follower else .own

/-- A box of rows (10/R226). -/
structure Box where
  base : Nat
  nx : Nat
  ny : Nat
  nz : Nat
  sy : Nat
  sz : Nat
deriving DecidableEq, Repr

/-- A count of 0 is read as 1. -/
def oneAtLeast (n : Nat) : Nat := if n = 0 then 1 else n

def srcBox (src d0 d1 : W64) : Box :=
  { base := src.toNat, nx := bits d0 31 0, ny := oneAtLeast (bits d0 47 32), nz := oneAtLeast (bits d0 63 48)
    sy := bits d1 31 0, sz := bits d1 63 32 }

def dstBox (dst d0 d2 : W64) : Box :=
  { base := dst.toNat, nx := bits d0 31 0, ny := oneAtLeast (bits d0 47 32), nz := oneAtLeast (bits d0 63 48)
    sy := bits d2 31 0, sz := bits d2 63 32 }

/-- First bytes of the rows, in the order in which they are performed. -/
def Box.rows (b : Box) : List Nat :=
  (List.range b.nz).flatMap fun z => (List.range b.ny).map fun y => b.base + z * b.sz + y * b.sy

/-- Bytes that the command moves. -/
def Box.bytes (b : Box) : Nat := b.nx * b.ny * b.nz

/-- The elements (m, j) of a `cpyq`: tile rows ascending, then tile columns, then rows and columns of the tile. -/
def cpyqElems (org : W64) (ntx nty : Nat) : List (Nat × Nat) :=
  (List.range nty).flatMap fun ty => (List.range ntx).flatMap fun tx =>
    (List.range 32).flatMap fun i => (List.range 32).map fun j =>
      (bits org 31 0 + 32 * ty + i, bits org 63 32 + 32 * tx + j)

/-- Where an element of a record lies; `spad` when BASE is a scratchpad offset. -/
def elemRun (b : Block) (core : Nat) (spad : Bool) (r : BufRec) (m j : Nat) : List Run :=
  let x := r.elem ((m * r.rl + j : Nat) : Int)
  if (r.oobf || r.oobz) && !r.inside x then []
  else if spad then
    match spadPlace b core (x.va : Int) (r.span x) with
    | some p => [⟨spaceOf p.1, p.2, r.span x⟩]
    | none => []
  else [⟨.memory, x.va, r.span x⟩]

/-- Block number of an element in the row copy (05/R91) and in the column copy (10/R229). -/
def rowBlock (r : BufRec) (m j : Nat) : Nat :=
  let L := max 1 (fmtBlock r.fmt)
  m * ((r.rl + L - 1) / L) + j / L

def colBlock (r : BufRec) (m j : Nat) : Nat :=
  let L := max 1 (fmtBlock r.fmt)
  let H := if r.stride = 0 then 0 else r.size / r.stride
  j * ((H + L - 1) / L) + m / L

/-- Rows of a scratchpad or memory box as runs. -/
def boxRuns (b : Block) (core : Nat) (spad : Bool) (x : Box) : List Run :=
  if x.nx = 0 then []
  else if spad then x.rows.filterMap fun (a : Nat) => (spadPlace b core (a : Int) x.nx).map fun p => ⟨spaceOf p.1, p.2, x.nx⟩
  else x.rows.map fun a => ⟨.memory, a, x.nx⟩

/-- The destination of a command. -/
def copyDst (s : State) (k : CopyCmd) : List Run :=
  match findBlock s k.block with
  | none => []
  | some b =>
    let out := fun (n : Nat) => b.outs.find? (·.cmd == n)
    match k.kind with
    | .cpy _ tsp _ dst _ d0 _ d2 => boxRuns b k.core tsp (dstBox dst d0 d2)
    | .cpyq _ tsp _ org _ row col ntx nty =>
      let r := recordOf s k.block row
      let c := recordOf s k.block col
      (cpyqElems org ntx nty).flatMap fun e =>
        elemRun b k.core tsp r e.1 e.2 ++ elemRun b k.core tsp c e.1 e.2
          ++ [⟨.memory, scaleVa r (rowBlock r e.1 e.2), 4⟩, ⟨.memory, scaleVa c (colBlock c e.1 e.2), 4⟩]
    | .chko _ _ => match out k.id with
      | some o => match spadPlace b k.core (o.off : Int) o.len with
        | some p => [⟨spaceOf p.1, p.2, o.len⟩]
        | none => []
      | none => []
    | .chki n drop => match out n with
      | some o => if o.excl && !drop then [⟨.memory, o.va, o.len⟩] else []
      | none => []

/-- The source of a command. -/
def copySrc (s : State) (k : CopyCmd) : List Run :=
  match findBlock s k.block with
  | none => []
  | some b =>
    let out := fun (n : Nat) => b.outs.find? (·.cmd == n)
    match k.kind with
    | .cpy fsp _ _ _ src d0 d1 _ => boxRuns b k.core fsp (srcBox src d0 d1)
    | .cpyq fsp _ _ org src _ _ ntx nty =>
      (cpyqElems org ntx nty).flatMap fun e => elemRun b k.core fsp (recordOf s k.block src) e.1 e.2
    | .chko _ _ => match out k.id with
      | some o => [⟨.memory, o.va, o.len⟩]
      | none => []
    | .chki n drop => match out n with
      | some o => if o.excl && !drop then
          (match spadPlace b k.core (o.off : Int) o.len with
            | some p => [⟨spaceOf p.1, p.2, o.len⟩]
            | none => [])
        else []
      | none => []

/-- The copy engine of the die that its warp is bound to (10/R220). -/
def CopyCmd.engine (k : CopyCmd) : Nat := (k.core + k.widx) % 8

/-- Whether a command that has not completed may touch a byte: those of its context in memory, of its block in scratchpad. -/
def CopyCmd.near (k : CopyCmd) (ctx block : Nat) (sp : Space) : Bool := if sp = .memory then k.ctx == ctx else k.block == block

/-- Reading this byte gives an undefined value (10/R224). -/
def underCopy (s : State) (ctx block : Nat) (sp : Space) (x : Nat) : Bool :=
  s.cmds.any fun k => k.near ctx block sp && (copyDst s k).any fun r => r.holds sp x

/-- A check-in's bytes reach the home before a check-out that waits for it reads them (04/R78). -/
def CopyCmd.follows (k : CopyCmd) (writer : Option CopyCmd) : Bool :=
  match k.kind, writer with
  | .chko _ _, some w => (match w.kind with | .chki _ _ => true | _ => false)
  | _, _ => false

/-- Another agent writes this byte: where it is a source or a destination of a command that has not completed, the value is
undefined, now and when the command completes (10/R224). `self` is the command that writes, if one does. -/
def taintCopies (s : State) (self : Option Nat) (ctx block : Nat) (sp : Space) (x : Nat) : State × Bool :=
  let writer := s.cmds.find? fun k => some k.id == self
  let hit := fun (k : CopyCmd) => some k.id != self && !(sp == .memory && k.follows writer) && k.near ctx block sp &&
    ((copyDst s k).any (fun r => r.holds sp x) || (copySrc s k).any fun r => r.holds sp x)
  if s.cmds.any hit then
    ({ s with cmds := updWhere hit (fun k => { k with taint := (sp != .memory, sp == .follower, x) :: k.taint }) s.cmds }, true)
  else (s, false)

end Sys2Proof.Machine
end

