-- ==== Sys2Proof/Machine/Link.lean ====
section
/-! DEFINITION. The sending side of the Sohorn fabric (18/R414-R417): ports, virtual channels, credits and replay buffers, and
requests through a peer window. -/

namespace Sys2Proof.Machine

/-- The port that carries traffic to a peer: the lowest that PORTS allows (18/R414; log 24). -/
def portOf (word : W64) : Option Nat :=
  let p := lowestBit 16 0 (bits word 31 16)
  if p < 16 then some p else none

def findHop (s : State) (port vc : Nat) : Hop :=
  match s.hops.find? (fun h => h.port == port && h.vc == vc) with
  | some h => h
  | none => { port, vc }

def putHop (s : State) (h : Hop) : State :=
  { s with hops := h :: s.hops.filter fun x => !(x.port == h.port && x.vc == h.vc) }

/-- Put a packet on a hop with a credit: a copy stays in the replay buffer until it is acknowledged (18/R416). -/
def launchPkt (s : State) (h : Hop) (o : Output) : State × Hop :=
  ({ s with out := s.out ++ [o] },
    { h with buffer := h.buffer ++ [⟨h.nextSeq, o⟩], nextSeq := h.nextSeq + 1, credits := h.credits - 1 })

/-- The fabric ports send nothing while FABCFG.PORT is 0 (26/R455), nor a port whose peer has paused the channel's priority
(18/R407, R416). Which of the eight priorities carries a channel is the device's (log 36). Port i of the fabric has number
4 + i among the Ethernet ports, after the four host ports. -/
def portStopped (s : State) (port vc : Nat) : Bool :=
  bits s.fabcfg 15 0 == 0 || s.paused.contains (4 + port, Config.pick (2 ^ 64 + vc) % 8)

/-- Send a packet on a virtual channel of a port; without a credit, or behind packets that wait for one, it waits. -/
def sendOn (s : State) (port vc : Nat) (o : Output) : State :=
  let h := findHop s port vc
  if h.credits = 0 ∨ h.waiting ≠ [] ∨ portStopped s port vc = true then putHop s { h with waiting := h.waiting ++ [o] }
  else
    let p := launchPkt s h o
    putHop p.1 p.2

/-- Packets that wait for credits go out while there are any. -/
def drainHop : Nat → State → Hop → State
  | 0, s, h => putHop s h
  | n + 1, s, h =>
    match h.waiting with
    | [] => putHop s h
    | o :: r =>
      if h.credits = 0 then putHop s h
      else
        let p := launchPkt s { h with waiting := r } o
        drainHop n p.1 p.2

/-- A port that may send again sends what waits. -/
def resume (s : State) (h : Hop) : State := if portStopped s h.port h.vc then putHop s h else drainHop h.waiting.length s h

/-- Send to a peer of the table; an entry that allows no port carries nothing. -/
def sendPeer (s : State) (peer vc : Nat) (o : Output) : State :=
  match portOf (tabGet 0 s.peers peer) with
  | some port => sendOn s port vc o
  | none => s

/-- The virtual channel of a request through a peer window. -/
def requestVc : PeerOp → Nat
  | .cells _ => 3
  | _ => 0

/-- Send a request through a peer window and keep it until it is answered; `x` translated its first byte. -/
def askPeer (s : State) (r : PeerOut) (x : Xlat) : State :=
  let n := newId s
  let r := { r with id := n.1, va := x.va, entry := x.entry, level := x.level }
  let s := { n.2 with peerOuts := n.2.peerOuts ++ [r] }
  let q : PeerReq := { peer := r.peer, id := r.id, pa := r.pa % 2 ^ 40, layout := BitVec.ofNat 2 x.layout, op := r.op }
  sendPeer s r.peer (requestVc r.op) (.peerRequest q)

/-- Which peer an address in a window names. -/
def peerIndex (pa : Nat) : Nat := pa / 2 ^ 40 % 256

end Sys2Proof.Machine
end

