-- ==== Sys2Proof/Machine/LoadStore.lean ====
section
/-! DEFINITION. What loads, stores, atomics and cells share: the checks over all
lanes (R201), bytes read and written through the caches and peer windows, scale cache
lookups, and how results land (R202, 08/R169). -/

namespace Sys2Proof.Machine

/-! ### Checks over all lanes (09/R201) -/

/-- Order of the checks of 03/R49 and 04/R81. -/
def checkRank (f : Flt) : Nat :=
  match f.kind with
  | 6 => 0 | 1 => 1 | 5 => 1 | 2 => 2 | 3 => 3 | 7 => 4 | 4 => 5 | 8 => 6 | _ => 7

/-- The fault to report: the first check that fails in any lane, then the lowest lane. -/
def firstFault : List Flt → Option Flt
  | [] => none
  | f :: r => some (r.foldl (fun a b => if checkRank b < checkRank a then b else a) f)

/-- The checks on each unit's bytes (VA and length). The translations, or the fault with the lines of the units that passed. -/
def checkAll (s : State) (c : Ctx) (n : Need) (us : List (Nat × Nat)) : Except Flt (List (List Xlat)) :=
  let rs := us.map fun u => checkBytes s c n u.1 u.2
  let bad := rs.filterMap fun r => match r with | .error e => some e | .ok _ => none
  let good := rs.filterMap fun r => match r with | .ok xs => some xs | .error _ => none
  match firstFault bad with
  | none => .ok good
  | some f =>
    let buf := if n.acc = 0 then good.flatMap (fun xs => (xs.filter fun x => isHbm x.pa).map fun x => lineOf x.pa) else []
    .error { f with buf }

def liftFlt {α : Type} : Except Flt α → Except Stop α
  | .ok a => .ok a
  | .error f => .error (.fault f)

/-- The context of a warp; a warp always has one. -/
def ctxOf (s : State) (w : Warp) : Except Stop Ctx :=
  match findCtx s w.ctx with
  | some c => .ok c
  | none => .error (.wait .retry)

/-- Translations used are remembered (03/R51). -/
def rememberAll (s : State) (w : Who) (xs : List Xlat) : State :=
  (((xs.filter (·.size != 0)).map fun x => { x with pa := 0 }).eraseDups).foldl (fun s x => remember s w.core w.quad w.ctx x) s

/-! ### Bytes read through the caches -/

/-- A byte to read: VA and PA. -/
abbrev Spot := Nat × Nat

/-- The bytes of a run of translations. -/
def spotsOf (va : Nat) (xs : List Xlat) : List Spot := xs.mapIdx fun i x => (va + i, x.pa)

/-- The lines, each once, in the order first met. -/
def linesIn (ps : List Spot) : List Nat := ((ps.filter fun p => isHbm p.2).map fun p => lineOf p.2).eraseDups

/-- Bytes of a line that are wanted. -/
def needOf (ps : List Spot) (line : Nat) : BitVec 128 :=
  ps.foldl (fun m p => if isHbm p.2 && lineOf p.2 == line then m ||| BitVec.ofNat 128 (1 <<< (p.2 % 128)) else m) 0

/-- One load: the lines it reads, in order, with the context, the hints, and whether L2 lookups are counted (25/R444). A line
that the fault buffer holds for a replay is taken from there (03/R55-R56). -/
def readLines (s : State) (w : Who) (c : Ctx) (replay : List (Nat × VReg)) (ps : List Spot) (ef bypass count : Bool) :
    List Nat → Except Stop (State × List (Nat × VReg))
  | [] => .ok (s, [])
  | line :: rest =>
    let need := needOf ps line
    let va := ((ps.find? fun p => lineOf p.2 == line).map (·.1)).getD 0
    match replay.find? (·.1 == line) with
    | some r =>
      match readLines s w c replay ps ef bypass count rest with
      | .ok t => .ok (t.1, r :: t.2)
      | .error e => .error e
    | none =>
      let keep := sealedAt c va
      let want := wantsL2 s w line need bypass
      let bad := if want != 0 && missesL2 s w line want keep then badRead s line else none
      match bad with
      | some src => .error (.fault (mcFault src line va 0))
      | none =>
        let r := loadLine s w va line need ef bypass keep
        let s1 := match r.2.2 with
          | some hit => if count then
              let old := tabGet 0 r.1.l2cnt w.core
              let look := bits old 63 32 + 1
              let hits := bits old 31 0 + (if hit then 1 else 0)
              { r.1 with l2cnt := tabSet 0 r.1.l2cnt w.core (BitVec.ofNat 64 (look % 2 ^ 32 * 2 ^ 32 + hits % 2 ^ 32)) }
            else r.1
          | none => r.1
        match readLines s1 w c replay ps ef bypass count rest with
        | .ok t => .ok (t.1, (line, r.2.1) :: t.2)
        | .error e => .error e

/-- The byte at a spot from the lines read and the bytes that peers answered. -/
def byteAt (lines : List (Nat × VReg)) (got : List (Nat × Byte)) (pa : Nat) : Byte :=
  if isHbm pa then
    match lines.find? (·.1 == lineOf pa) with
    | some l => l.2.extractLsb' (8 * (pa % 128)) 8
    | none => 0
  else match got.find? (·.1 == pa) with
    | some g => g.2
    | none => 0

/-- Runs of consecutive addresses in a rising list: first address and length. -/
def runsOf : List Nat → List (Nat × Nat)
  | [] => []
  | a :: r =>
    match runsOf r with
    | (b, n) :: t => if b = a + 1 then (a, n + 1) :: t else (a, 1) :: (b, n) :: t
    | [] => [(a, 1)]

/-- Insertion into a rising list without repeats. -/
def insertNat (x : Nat) : List Nat → List Nat
  | [] => [x]
  | y :: r => if x = y then y :: r else if x < y then x :: y :: r else y :: insertNat x r

/-- Peer bytes that a warp's load still needs: none outstanding are asked for again. The state with the requests, none when
every byte is at hand. -/
def peerWait (s : State) (w : Warp) (xs : List Xlat) : Option State :=
  let far := xs.filter fun x => !isHbm x.pa && !(w.peerGot.any fun g => g.1 == x.pa)
  if far = [] then none
  else
    let asked := fun (pa : Nat) => s.peerOuts.any fun o => o.warp == some w.id && o.out.isNone &&
      (match o.op with | .read n => o.pa ≤ pa && pa < o.pa + n | _ => false)
    let fresh := (far.filter fun x => !asked x.pa).map (·.pa)
    let lay := fun (pa : Nat) => (far.find? fun x => x.pa == pa).getD noXlat
    some ((runsOf (fresh.foldr insertNat [])).foldl (fun s r =>
      askPeer s { id := 0, peer := peerIndex r.1, pa := r.1, warp := some w.id, op := .read r.2 } (lay r.1)) s)

/-- The group stays at its instruction and tries it again: a long-latency stall. -/
def retrying (s : State) (w : Warp) (g : Group) : Stop := .held (setWarp s (w.setGroup { g with wait := .stall }))

/-! ### Bytes written through the caches -/

/-- Bytes to write: VA, PA, byte; a later entry wins (09/R203). -/
abbrev Put := Nat × Nat × Byte

/-- The last write to each PA, by line: data, mask, VA of the first byte written there. -/
def lineStore (ps : List Put) (line : Nat) : VReg × BitVec 128 × Nat :=
  let mine := ps.filter fun p => isHbm p.2.1 && lineOf p.2.1 == line
  (mine.foldl (fun d p => putBits d (8 * (p.2.1 % 128) + 7) (8 * (p.2.1 % 128)) p.2.2.toNat) 0,
    mine.foldl (fun m p => m ||| BitVec.ofNat 128 (1 <<< (p.2.1 % 128))) 0, (mine.head?.map (·.1)).getD 0)

/-- Store bytes in the caches; with a release the lines are written through to its level (07/R139). -/
def writeLines (s : State) (w : Who) (ps : List Put) (ef bypass : Bool) (through : Option Level) : State :=
  (((ps.filter fun p => isHbm p.2.1).map fun p => lineOf p.2.1).eraseDups).foldl (fun s line =>
    let d := lineStore ps line
    let s1 := if bypass then storeBypass s w d.2.2 line d.1 d.2.1 ef else storeL1 s w d.2.2 line d.1 d.2.1 ef
    match through with
    | some lv => throughTo s1 w line lv
    | none => s1) s

/-- Writes through peer windows: one request per run of bytes. The state and the number of requests. -/
def writePeers (s : State) (w : Warp) (out : Option Nat) (ps : List Put) (lay : Nat → Xlat) : State × Nat :=
  let far := ps.filter fun p => !isHbm p.2.1
  let last := fun (pa : Nat) => ((far.reverse.find? fun p => p.2.1 == pa).map (·.2.2)).getD 0
  let runs := runsOf ((far.map (·.2.1)).foldr insertNat [])
  (runs.foldl (fun s r =>
    askPeer s { id := 0, peer := peerIndex r.1, pa := r.1, warp := some w.id, out
                op := .write ((List.range r.2).map fun i => last (r.1 + i)) } (lay r.1)) s, runs.length)

/-- An access of the warp is still on its way to a peer or to a cell's home; a release waits for it (07/R139). -/
def farPending (s : State) (w : Warp) : Bool := s.outs.any fun o => o.warp == w.id && o.need != 0

/-- The level of a scope for a warp. -/
def levelFor (s : State) (w : Warp) (sc : Scope) : Level := levelOf sc ((findBlock s w.block).any (·.pair))

/-! ### The scale cache (13/R294-R295) -/

/-- The buffer record that names a scale tensor: the lowest-numbered one with its STID and a scaled format. -/
def tensorRecord (recs : List (List W64)) (tid : Nat) : Option BufRec :=
  (recs.map bufRec).find? fun r => r.stid == tid && 15 ≤ r.fmt && r.fmt ≤ 27

def scaleLookup (s : State) (core tid blk : Nat) : Option W32 :=
  ((tabGet [] s.scale core).find? fun e => e.tid == tid && e.blk == blk).map (·.record)

/-- An entry becomes the most recently used. -/
def scaleTouch (s : State) (core tid blk : Nat) : State :=
  let es := tabGet [] s.scale core
  match es.find? (fun e => e.tid == tid && e.blk == blk) with
  | none => s
  | some e => { s with scale := tabSet [] s.scale core (es.filter (fun x => !(x.tid == tid && x.blk == blk)) ++ [e]) }

/-- Ask for block records, each once: those that a core lacks, or those that a `scpre.ld` wants. -/
def wantScales (s : State) (core ctx launch : Nat) (out : Option Nat) (asker : Option (Nat × BitVec 8)) (keys : List (Nat × Nat)) :
    State :=
  keys.foldl (fun s k =>
    if (out.isNone && (scaleLookup s core k.1 k.2).isSome)
        || s.scaleReqs.any (fun r => r.core == core && r.tid == k.1 && r.blk == k.2 && r.out == out && r.launch == launch) then s
    else
      let n := newId s
      { n.2 with scaleReqs := n.2.scaleReqs ++ [{ id := n.1, core, ctx, launch, tid := k.1, blk := k.2, out, asker }] }) s

/-- An entry in use by an operation that has been formed and has not completed (13/R294). -/
def scaleInUse (s : State) (core : Nat) (e : ScaleEntry) : Bool :=
  s.ops.any fun o => o.recs.any fun r => r.1 == core && r.2.1 == e.tid && r.2.2.1 == e.blk

/-- Put a record into a core's cache: it replaces the least recently used entry not in use when all 512 are taken. None when
every entry is in use. -/
def scaleInstall (s : State) (core tid blk : Nat) (record : W32) : Option State :=
  let es := tabGet [] s.scale core
  let put := fun (l : List ScaleEntry) => { s with scale := tabSet [] s.scale core (l ++ [{ tid, blk, record }]) }
  match es.find? (fun e => e.tid == tid && e.blk == blk) with
  | some e => if scaleInUse s core e then some s else some (put (es.filter (· != e)))
  | none =>
    if es.length < 512 then some (put es)
    else match es.find? (fun e => !scaleInUse s core e) with
      | some v => some (put (es.filter (· != v)))
      | none => none

/-- Remove a tensor's entries, or all, from the caches of a pair; none while an operation uses one of them (13/R296). -/
def scaleRemove (s : State) (leader : Nat) (tid : Option Nat) : Option State :=
  let mine := fun (e : ScaleEntry) => tid.isNone || tid == some e.tid
  let cores := [leader, leader + 1]
  if cores.any fun c => (tabGet [] s.scale c).any fun e => mine e && scaleInUse s c e then none
  else some { s with scale := cores.foldl (fun t c => tabSet [] t c ((tabGet [] t c).filter fun e => !mine e)) s.scale }

/-- Reads that a unit other than the issuing lane makes for an instruction (03/R461). -/
def needUnit : Need := { perm := 1, acc := 7 }

/-- Bytes that such a unit of a block reads, through the L2 of the die; bytes behind a peer window are asked for under its
number, and bytes that a copy command is writing are free (10/R224). -/
def unitLoad (s : State) (w : Who) (c : Ctx) (block unit va n : Nat) : Except Stop (State × List Byte) :=
  match checkBytes s c needUnit va n with
  | .error f => .error (.fault f)
  | .ok xs =>
    let got := fun (pa : Nat) => s.unitGot.find? fun g => g.1 == unit && g.2.1 == pa
    let far := xs.filter fun x => !isHbm x.pa && (got x.pa).isNone
    match far with
    | x :: _ =>
      let asked := fun (pa : Nat) => s.peerOuts.any fun o => o.unit == some unit &&
        (match o.op with | .read m => o.pa ≤ pa && pa < o.pa + m | _ => false)
      let new := ((far.filter fun y => !asked y.pa).map (·.pa)).foldr insertNat []
      .error (.held ((runsOf new).foldl (fun s r =>
        askPeer s { id := 0, peer := peerIndex r.1, pa := r.1, unit := some unit, op := .read r.2 }
          ((far.find? fun y => y.pa == r.1).getD x)) s))
    | [] =>
      let one := fun (x : Xlat) => (BitVec.ofNat 128 (1 <<< (x.pa % 128)) : BitVec 128)
      let bad := fun (y : Nat × Xlat) =>
        if isHbm y.2.pa && missesL2 s w y.2.pa (one y.2) (sealedAt c (va + y.1)) then
          (badRead s y.2.pa).map fun src => Stop.fault (mcFault src (lineOf y.2.pa) (va + y.1) 7)
        else none
      match (xs.mapIdx fun i x => (i, x)).findSome? bad with
      | some e => .error e
      | none =>
        let r := (xs.mapIdx fun i x => (i, x)).foldl (fun (a : State × List Byte) y =>
          let x := y.2
          if underCopy a.1 c.slot block .memory (va + y.1) then
            let n := fresh a.1
            (n.2, a.2 ++ [BitVec.ofNat 8 n.1])
          else if isHbm x.pa then
            let q := loadL2 a.1 w (va + y.1) x.pa (one x) false (sealedAt c (va + y.1))
            (q.1, a.2 ++ [q.2.1.extractLsb' (8 * (x.pa % 128)) 8])
          else (a.1, a.2 ++ [((got x.pa).map (·.2.2)).getD 0])) (s, [])
        .ok (rememberAll r.1 w xs, r.2)

/-! ### Results (08/R169, 09/R202) -/

/-- A register of a unit written: lanes of v-registers, or slices' s-registers. -/
def writeReg (w : Warp) (scalar : Bool) (r u val : Nat) : Warp :=
  if scalar then w.writeS u r (BitVec.ofNat 64 val) else w.writeV r (laneMask u) (setLane (w.readV r) u (BitVec.ofNat 32 val))

def readReg (w : Warp) (scalar : Bool) (r u : Nat) : Nat :=
  if scalar then (w.readS u r).toNat else (lane (w.readV r) u).toNat

/-- Free values put into registers that an access tied to a flag will write. -/
def markRegs (s : State) (w : Warp) (scalar : Bool) (rs : List (Nat × Nat)) : State × Warp × List (Nat × Nat × Nat) :=
  rs.foldl (fun a r =>
    let n := fresh a.1
    (n.2, writeReg a.2.1 scalar r.1 r.2 n.1, a.2.2 ++ [(r.1, r.2, n.1)])) (s, w, [])

def vList (l : List (Nat × Nat × Nat)) : List (Nat × Nat × W32) := l.map fun x => (x.1, x.2.1, BitVec.ofNat 32 x.2.2)
def sList (l : List (Nat × Nat × Nat)) : List (Nat × Nat × W64) := l.map fun x => (x.1, x.2.1, BitVec.ofNat 64 x.2.2)

/-- An access with results in hand retires. Untied and complete, it writes them at once. Tied, its destinations hold free
values until its answer arrives. `need` answers are still on their way under the number `id`; without a tie the group waits
for them. -/
def land (s : State) (x : Exe) (flag : Option Nat) (scalar : Bool) (id need : Nat) (kinds : BitVec 2)
    (writes : List (Nat × Nat × Nat)) (dests : List (Nat × Nat)) (acquire : Option Scope) (data : List (Nat × Nat × Nat))
    (bytes : List (Nat × Nat × Nat)) (spad : Bool) (bypass : Bool := false) (release : Option Scope := none) : State :=
  if flag = none ∧ need = 0 then
    retire s (writes.foldl (fun w r => writeReg w scalar r.1 r.2.1 r.2.2) x.w) x.g
  else
    let m := if flag = none then (s, x.w, []) else markRegs s x.w scalar dests
    let o : Outstanding := {
      id, warp := x.w.id, flag, need, scalar, spad, acquire, data, bytes, kinds, bypass, release, slices := lanesSlices x.en,
      clocks := (List.range 8).map (fun j => (x.w.slice j).clock) ++ [x.w.vclock],
      vwrites := if scalar then [] else vList writes, swrites := if scalar then sList writes else [],
      vmarks := if scalar then [] else vList m.2.2, smarks := if scalar then sList m.2.2 else [] }
    let s1 := { m.1 with outs := m.1.outs ++ [o] }
    retire s1 (m.2.1.raise flag) { x.g with wait := if flag = none then .access id else x.g.wait }

/-- What stands for a result whose register software has written before the flag cleared: an undefined value (08/R169). -/
def settle (s : State) (w : Warp) (scalar : Bool) (marks : List (Nat × Nat × Nat)) (r u val : Nat) : State × Warp :=
  match marks.find? (fun m => m.1 == r && m.2.1 == u) with
  | some m =>
    if readReg w scalar r u = (if scalar then m.2.2 % 2 ^ 64 else m.2.2 % 2 ^ 32) then (s, writeReg w scalar r u val)
    else
      let n := fresh s
      (n.2, writeReg w scalar r u n.1)
  | none => (s, writeReg w scalar r u val)

end Sys2Proof.Machine
end

