-- ==== Sys2Proof/Machine/Decompress.lean ====
section
/-! DEFINITION. What `dec` reads in the scratchpad and the elements that follow from it (10/R234-R236). -/

namespace Sys2Proof.Machine

/-- Bytes of a scratchpad place, free where a copy command is writing them. -/
def spadRead (s : State) (b : Block) (p : Bool × Nat) (n : Nat) : State × List Byte :=
  if s.cmds = [] then (s, spadBytes b p n)
  else (List.range n).foldl (fun a i =>
    if underCopy a.1 b.ctx b.id (spaceOf p.1) (p.2 + i) then
      let f := fresh a.1
      (f.2, a.2 ++ [BitVec.ofNat 8 f.1])
    else (a.1, a.2 ++ [spadByte b p.1 (p.2 + i)])) (s, [])

/-- What reads a stream in the scratchpad: the block, the core, the stream bytes read so far, and those that are undefined. -/
structure Stream8 where
  s : State
  b : Block
  core : Nat
  seen : List (Bool × Nat) := []
  spoiled : List (Bool × Nat) := []

/-- One byte, of the stream, or of a table or metadata. -/
def Stream8.byte (d : Stream8) (stream : Bool) (off : Nat) : Except Stop (Stream8 × Nat) :=
  match spadPlace d.b d.core (off : Int) 1 with
  | none => .error (.trap 8 off 0)
  | some p =>
    if !stream then
      let r := spadRead d.s d.b p 1
      .ok ({ d with s := r.1 }, ofBytes r.2)
    else
      let d := { d with seen := if d.seen.contains p then d.seen else p :: d.seen }
      if d.spoiled.contains p then
        let n := fresh d.s
        .ok ({ d with s := n.2 }, n.1 % 256)
      else
        let r := spadRead d.s d.b p 1
        .ok ({ d with s := r.1 }, ofBytes r.2)

/-- `n` bytes, as a number. -/
def Stream8.bytes (d : Stream8) (stream : Bool) (off : Nat) : Nat → Except Stop (Stream8 × Nat)
  | 0 => .ok (d, 0)
  | n + 1 =>
    match d.byte stream off with
    | .error e => .error e
    | .ok (d1, x) =>
      match d1.bytes stream (off + 1) n with
      | .error e => .error e
      | .ok (d2, y) => .ok (d2, x + 256 * y)

/-- `w` bits at a bit offset. -/
def Stream8.bits (d : Stream8) (stream : Bool) (at_ w : Nat) : Except Stop (Stream8 × Nat) :=
  match d.bytes stream (at_ / 8) ((at_ % 8 + w + 7) / 8) with
  | .error e => .error e
  | .ok (d1, x) => .ok (d1, x / 2 ^ (at_ % 8) % 2 ^ w)

/-- `n` u32 values of the stream at a byte offset. -/
def Stream8.words (d : Stream8) (off : Nat) : Nat → Except Stop (Stream8 × List Nat)
  | 0 => .ok (d, [])
  | n + 1 =>
    match d.bytes true off 4 with
    | .error e => .error e
    | .ok (d1, v) =>
      match d1.words (off + 4) n with
      | .error e => .error e
      | .ok (d2, r) => .ok (d2, v :: r)

/-- Elements of `.lut`. -/
def lutElems (w sa sb : Nat) : Nat → Stream8 → Except Stop (Stream8 × List Nat)
  | 0, d => .ok (d, [])
  | n + 1, d =>
    match d.bits true sa w with
    | .error e => .error e
    | .ok (d1, i) =>
      match d1.bytes false (sb + 4 * i) 4 with
      | .error e => .error e
      | .ok (d2, v) =>
        match lutElems w (sa + w) sb n d2 with
        | .error e => .error e
        | .ok (d3, r) => .ok (d3, v :: r)

/-- The elements of one token of `.rle0` at a byte offset, and the offset after it. -/
def rleToken (off : Nat) (d : Stream8) : Except Stop (Stream8 × List Nat × Nat) :=
  match d.byte true off with
  | .error e => .error e
  | .ok (d1, t) =>
    let n := t % 128 + 1
    if t < 128 then .ok (d1, List.replicate n 0, off + 1)
    else match d1.words (off + 1) n with
      | .error e => .error e
      | .ok (d2, vs) => .ok (d2, vs, off + 1 + 4 * n)

/-- Elements of `.rle0`: each token gives at least one element, so `fuel` tokens suffice. The byte offset after the last. -/
def rleElems (sa : W64) : Nat → Nat → Nat → Stream8 → Except Stop (Stream8 × List Nat × Nat)
  | 0, _, off, d => .ok (d, [], off)
  | fuel + 1, left, off, d =>
    if left = 0 then .ok (d, [], off)
    else
      match rleToken off d with
      | .error e => .error e
      | .ok (d1, es, after) =>
        if left < es.length then .error (.trap 9 sa.toNat 0)
        else
          match rleElems sa fuel (left - es.length) after d1 with
          | .error e => .error e
          | .ok (d2, r, o) => .ok (d2, es ++ r, o)

/-- Elements of `.sp24`, four to a group. -/
def spElems (sa0 : W64) (sa sb : Nat) : Nat → Stream8 → Except Stop (Stream8 × List Nat)
  | 0, d => .ok (d, [])
  | n + 1, d =>
    match d.bits false sb 4 with
    | .error e => .error e
    | .ok (d1, m) =>
      let i := m % 4
      let j := m / 4
      if j ≤ i then .error (.trap 9 sa0.toNat 0)
      else
        match d1.words (sa / 8) 2 with
        | .error e => .error e
        | .ok (d2, vs) =>
          match spElems sa0 (sa + 64) (sb + 4) n d2 with
          | .error e => .error e
          | .ok (d3, r) => .ok (d3, ((List.range 4).map fun q => if q = i then vs.getD 0 0 else if q = j then vs.getD 1 0 else 0) ++ r)

/-- The elements of a form (SUB) from sA and sB, and the registers that it advances. -/
def decGo (f : Fields) (form : Nat) (d : Stream8) (sa sb : W64) : Except Stop (Stream8 × List Nat × List (Nat × W64)) :=
  let n := immLow f 4
  match form with
  | 0 =>
    if sb.toNat % 4 ≠ 0 then .error (.trap 9 sa.toNat 0)
    else do
      let w := if bit f.imm 4 then 8 else 4
      let r ← lutElems w sa.toNat sb.toNat (32 * n) d
      .ok (r.1, r.2, [(f.a.toNat, sa + BitVec.ofNat 64 (32 * n * w))])
  | 1 =>
    if sa.toNat % 8 ≠ 0 then .error (.trap 9 sa.toNat 0)
    else do
      let r ← rleElems sa (32 * n) (32 * n) (sa.toNat / 8) d
      .ok (r.1, r.2.1, [(f.a.toNat, BitVec.ofNat 64 (8 * r.2.2))])
  | _ =>
    if sa.toNat % 32 ≠ 0 ∨ sb.toNat % 4 ≠ 0 then .error (.trap 9 sa.toNat 0)
    else do
      let r ← spElems sa sa.toNat sb.toNat (8 * n) d
      .ok (r.1, r.2, [(f.a.toNat, sa + BitVec.ofNat 64 (512 * n)), (f.b.toNat, sb + BitVec.ofNat 64 (32 * n))])

/-- The lanes that the elements go to: register, lane, value. -/
def decRegs (f : Fields) (lanes : List Nat) (es : List Nat) : List (Nat × Nat × Nat) :=
  (List.range (immLow f 4)).flatMap fun r => lanes.map fun L => (f.d.toNat + r, L, es.getD (32 * r + L) 0)

/-- An `sts` writes bytes that a tied `dec` of its warp reads as stream: from now on those bytes are undefined for it, and its
results are those of the stream with free bytes there; where that stream has no decoding, they are free (10/R236). -/
def spoilDec (s : State) (b : Block) (core : Nat) (places : List (Bool × Nat)) (o : Outstanding) : State :=
  let hit := places.filter o.reads.contains
  match o.redo with
  | none => s
  | some (form, f, sa, sb) =>
    if hit = [] then s
    else
      let spoiled := o.spoiled ++ hit
      let lanes := (o.vwrites.map (·.2.1)).eraseDups
      let put := fun (s : State) (v : List (Nat × Nat × W32)) (w : List (Nat × Nat × W64)) =>
        { s with outs := updWhere (·.id == o.id) (fun o => { o with spoiled, vwrites := v, swrites := w }) s.outs }
      match decGo f form { s, b, core, spoiled } sa sb with
      | .ok (d, es, regs) =>
        put d.s (vList (decRegs f lanes es)) (o.swrites.map fun w => (w.1, w.2.1, ((regs.find? (·.1 == w.1)).map (·.2)).getD w.2.2))
      | .error _ =>
        let v := freshes (o.vwrites.length + o.swrites.length) s
        put v.2 (o.vwrites.zip v.1 |>.map fun x => (x.1.1, x.1.2.1, BitVec.ofNat 32 x.2))
          (o.swrites.zip (v.1.drop o.vwrites.length) |>.map fun x => (x.1.1, x.1.2.1, BitVec.ofNat 64 x.2))

end Sys2Proof.Machine
end

