-- ==== Sys2Proof/Machine/Queues.lean ====
section
/-! DEFINITION. Message queues at their home (14/R323-R328, 18/R418). A queue is named by the physical address of its
descriptor. -/

namespace Sys2Proof.Machine

/-- What an operation on a descriptor needs: it is read and written (DEDUCED from 14/R323-R326). -/
def needQueue : Need := { perm := 3, acc := 7, writes := true }

/-- The layout of 14/R323 is broken: a reserved bit that is not zero makes the descriptor malformed too (log 66). -/
def descBad (s : State) (desc : Nat) : Bool :=
  (descWord s desc 0).toNat % 4096 != 0 || bits (descWord s desc 1) 63 4 != 0 || 10 < bits (descWord s desc 1) 3 0
    || [5, 6, 7].any fun i => descWord s desc i != 0

def queueCap (s : State) (desc : Nat) : Nat := 2 ^ (6 + bits (descWord s desc 1) 3 0)

/-- Messages written and not read, as a u64. -/
def queueDepth (s : State) (desc : Nat) : Nat := (descWord s desc 2 - descWord s desc 3).toNat

/-- The grant condition of 14/R324. -/
def canReserve (s : State) (desc n : Nat) : Bool :=
  queueDepth s desc + (descWord s desc 4).toNat + n ≤ queueCap s desc

/-- A grant takes its slots. -/
def reserveSlots (s : State) (desc n : Nat) : State :=
  queueDone (putDescWord s desc 4 (descWord s desc 4 + BitVec.ofNat 64 n)) desc

/-- VA of the slot of a message. -/
def slotVa (s : State) (desc : Nat) (msg : W64) : Nat :=
  ((descWord s desc 0).toNat + 64 * (msg.toNat % queueCap s desc)) % 2 ^ 64

/-- The queue fault (14/R328). -/
def queueFault (cause va : Nat) : Flt := { kind := 16, acc := 7, va, entry := BitVec.ofNat 64 cause }

/-- The cause for which a home refuses any operation on a queue. -/
def queueCause (s : State) (desc : Nat) : Option Nat :=
  if s.mqStopped.contains desc then some 3 else if descBad s desc then some 1 else none

/-- What a dequeue meets. -/
inductive Deq where
  | empty
  | fault (s : State) (f : Flt)
  | got (s : State) (words : List W64)
deriving DecidableEq, Repr

/-- Take message RD (14/R326); an overrun stops the queue. -/
def dequeue (s : State) (c : Ctx) (desc va : Nat) : Deq :=
  let s := queueEnter s desc
  match queueCause s desc with
  | some k => .fault s (queueFault k va)
  | none =>
    let rd := descWord s desc 3
    if queueCap s desc < queueDepth s desc then .fault { s with mqStopped := desc :: s.mqStopped } (queueFault 3 va)
    else if queueDepth s desc = 0 then .empty
    else
      match vaBytes s c { perm := 1, acc := 7, peer := false } (slotVa s desc rd) 64 with
      | .error f => .fault s f
      | .ok bs => .got (queueDone (llcRead (putDescWord s desc 3 (rd + 1)) [desc]) desc) ((List.range 8).map fun i => word64 bs (8 * i))

/-- A delivery: the slot is written, WR rises and RSV falls, as one step (14/R325). A slot that does not translate in the
queue's context takes no bytes. -/
def deliverMessage (s : State) (ctx : Option Nat) (desc : Nat) (msg : List Byte) : State :=
  let s := queueEnter s desc
  let wr := descWord s desc 2
  let put := match ctx.bind (findCtx s) with
    | none => s
    | some c => match checkBytes s c { perm := 2, acc := 7, writes := true, peer := false } (slotVa s desc wr) 64 with
      | .error _ => s
      | .ok xs => homeStore s ((xs.map (·.pa)).zip msg)
  queueDone (putDescWord (putDescWord put desc 2 (wr + 1)) desc 4 (descWord put desc 4 - 1)) desc

end Sys2Proof.Machine
end

