-- ==== Sys2Proof/Machine/Memory.lean ====
section
/-! DEFINITION. Loads, stores, scratchpad accesses and atomics (09/R193-R207), and the answer of an outstanding access. -/

namespace Sys2Proof.Machine

/-! ### The conversion stage (09/R197) -/

/-- The format code of a lane's elements. -/
def laneFmt : Ty → Nat
  | .f32 => 0 | .f16x2 => 3 | .bf16x2 => 2 | .s32 => 0x20 | .u16x2 => 0x100 | .s16x2 => 10 | .u8x4 => 12 | .s8x4 => 11
  | _ => 0x21

/-- A value rounded to QF, where the record names one. -/
def throughQf (r : BufRec) (l : W32) (sat : Bool) (v : Val) (neg : Bool) : Val × Bool × W32 :=
  if r.qf = 0xFF then (v, neg, l)
  else
    let q := roundElem l r.qf r.rnd sat v neg
    (elemValue r.qf q.1, nanSign r.qf q.1, q.2)

/-- Elements of an access: bytes for a raw record. -/
def elemCount (r : BufRec) (ty : Ty) : Nat := if r.fmt = 0xFF then accessSize ty else laneCount ty

/-- Width of an element's place in the register. -/
def placeWidth (r : BufRec) (ty : Ty) : Nat := if r.fmt = 0xFF then 8 else 32 / laneCount ty

/-- One access of an element: the lane or slice, the place j, the element, and whether it is accessed at all. -/
structure Touch where
  unit : Nat
  j : Nat
  x : Elem
  live : Bool
deriving DecidableEq, Repr

/-- Every element that a formatted or raw access touches, in lane order and then j. -/
def touches (r : BufRec) (ty : Ty) (us : List (Nat × Int)) : List Touch :=
  us.flatMap fun u => (List.range (elemCount r ty)).map fun (j : Nat) =>
    let x := r.elem (u.2 + (j : Int))
    ⟨u.1, j, x, !((r.oobf || r.oobz) && !r.inside x)⟩

/-- Bounds, then alignment, over all lanes (09/R195-R196, R201). -/
def boundsAndAlign (r : BufRec) (ty : Ty) (acc : Nat) (us : List (Nat × Int)) : Except Stop Unit :=
  match (touches r ty us).find? (fun t => r.oobf && !r.inside t.x) with
  | some t => .error (.fault { kind := 11, acc, va := t.x.va })
  | none =>
    match us.find? (fun u => u.2 % (elemCount r ty : Int) != 0) with
    | some u => .error (.fault { kind := 10, acc, va := (r.elem u.2).va })
    | none => .ok ()

/-- Block number of an element of a record, as the scale caches key it (05/R91, 09/R197). -/
def blockNumber (r : BufRec) (x : Elem) : Nat :=
  let L := fmtBlock r.fmt
  let bpr := if r.rl = 0 then 1 else (r.rl + L - 1) / L
  blockKey (x.row * (bpr : Int) + x.col / (L : Int))

/-- The keys of the block records that an access uses. -/
def scaleKeys (r : BufRec) (ts : List Touch) : List (Nat × Nat) :=
  if fmtScale r.fmt = .none ∨ r.fmt = 0xFF then []
  else ((ts.filter (·.live)).map fun t => (r.stid, blockNumber r t.x)).eraseDups

/-- A scale-cache miss stalls the warp until the records have been fetched; a fault on one is the instruction's (03/R461). -/
def scalesReady (s : State) (w : Warp) (g : Group) (c : Ctx) (keys : List (Nat × Nat)) : Except Stop Unit :=
  match keys.filter fun k => (scaleLookup s w.core k.1 k.2).isNone with
  | [] => .ok ()
  | miss =>
    let recs := recordsOf s w.block
    let launch := ((findBlock s w.block).map (·.launch)).getD 0
    let bad := miss.filterMap fun k =>
      match tensorRecord recs k.1 with
      | none => some { kind := 12, acc := 7, va := 0, vaFree := true }
      | some r => match checkBytes s c needUnit (scaleVa r k.2) 4 with
        | .error f => some f
        | .ok _ => none
    match bad with
    | f :: _ => .error (.fault f)
    | [] => .error (retrying (wantScales s w.core w.ctx launch none (some (w.id, g.slices)) miss) w g)

/-- Bytes a load reads that a copy command is writing: free values (10/R224). -/
def freeBytes (s : State) (w : Warp) (vas : List Nat) : State × List (Nat × Byte) :=
  if s.cmds = [] then (s, [])
  else vas.foldl (fun a va =>
    if underCopy a.1 w.ctx w.block .memory va then
      let n := fresh a.1
      (n.2, a.2 ++ [(va, BitVec.ofNat 8 n.1)])
    else a) (s, [])

/-- The code of an element from the lines and peer bytes at hand. -/
def elemCode (r : BufRec) (lines : List (Nat × VReg)) (got : List (Nat × Byte)) (free : List (Nat × Byte)) (x : Elem)
    (xs : List Xlat) : Nat :=
  let bytes := xs.mapIdx fun i t =>
    match free.find? (·.1 == (x.va + i) % 2 ^ 64) with
    | some p => p.2
    | none => byteAt lines got t.pa
  ofBytes bytes / 2 ^ x.sh % 2 ^ r.width

/-- What a load reads: the lines and bytes, with the warp's own state, and the level at which an acquire reads its bytes
(07/R140). -/
structure Reader where
  s : State
  w : Who
  c : Ctx
  warp : Warp
  g : Group
  ef : Bool
  bypass : Bool
  count : Bool
  lv : Level := .l1

/-- Check and read a list of elements. -/
def readElems (d : Reader) (n : Need) (r : BufRec) (xs : List Elem) : Except Stop (State × List Nat) := do
  let ts ← liftFlt (checkAll d.s d.c n (xs.map fun x => (x.va, r.span x)))
  match peerWait d.s d.warp ts.flatten with
  | some s' => .error (.held (setWarp s' (d.warp.setGroup { d.g with wait := .retry })))
  | none =>
    let spots := (xs.zip ts).flatMap fun p => spotsOf p.1.va p.2
    let s0 := (linesIn spots).foldl (fun s l => dropAbove s d.w l (needOf spots l) d.lv) d.s
    let q ← readLines s0 d.w d.c d.g.replay spots d.ef d.bypass d.count (linesIn spots)
    let p := freeBytes q.1 d.warp (spots.map (·.1))
    .ok (rememberAll p.1 d.w ts.flatten, (xs.zip ts).map fun e => elemCode r q.2 d.warp.peerGot p.2 e.1 e.2)

/-- The side-list entry of an escaped element (05/R93, 09/R197): the escapes before it in its block are counted. -/
def sideEntry (d : Reader) (r : BufRec) (record : W32) (x : Elem) : Except Stop (State × Val) := do
  let L : Int := (fmtBlock r.fmt : Int)
  let first := x.index - x.col % L
  let before := ((List.range ((x.col % L).toNat)).map fun (i : Nat) => r.elem (first + (i : Int))).filter fun y =>
    !((r.oobf || r.oobz) && !r.inside y)
  let q ← readElems { d with count := false } needLoad r before
  let m := (q.2.filter (· == 8)).length
  let at_ := sumVa ((r.sb : Int) + 2 * ((bits record 31 8 + m : Nat) : Int))
  let one := fun (i : Nat) => ({ x with va := at_ + i, sh := 0 } : Elem)
  let e ← readElems { d with s := q.1, count := false } needUnit { r with fmt := 0xFF } [one 0, one 1]
  .ok (e.1, bf16Fmt.value (ofBytes (e.2.map fun b => BitVec.ofNat 8 b)))

/-- The value of an element and the sign of a NaN, with its block record and side-list entry. -/
def elemMeaning (d : Reader) (r : BufRec) (x : Elem) (code : Nat) : Except Stop (State × Val × Bool) :=
  if fmtScale r.fmt = .none then .ok (d.s, elemValue (fmtElem r.fmt) code, nanSign (fmtElem r.fmt) code)
  else do
    let record := (scaleLookup d.s d.w.core r.stid (blockNumber r x)).getD 0
    let p ← if fmtElem r.fmt = 0x24 ∧ code % 16 = 8 then sideEntry d r record x else .ok (d.s, Val.nan)
    .ok (p.1, scaledValue r.fmt code record p.2 false, false)

/-- The register contents of each lane or slice, converted in order. -/
def convertAll (d : Reader) (r : BufRec) (ty : Ty) (sat : Bool) :
    List (Touch × Nat) → W32 → List (Nat × Nat) → Except Stop (State × W32 × List (Nat × Nat))
  | [], l, acc => .ok (d.s, l, acc)
  | (t, code) :: rest, l, acc =>
    let put := fun (v : Nat) =>
      let pw := placeWidth r ty
      acc.map fun a => if a.1 = t.unit then (a.1, a.2 + (v % 2 ^ pw) * 2 ^ (pw * t.j)) else a
    if !t.live then convertAll d r ty sat rest l acc
    else if r.fmt = 0xFF then convertAll d r ty sat rest l (put code)
    else
      match elemMeaning d r t.x code with
      | .error e => .error e
      | .ok (s1, v, neg) =>
        let q := throughQf r l sat v neg
        let y := roundElem q.2.2 (laneFmt ty) r.rnd sat q.1 q.2.1
        convertAll { d with s := s1 } r ty sat rest y.2 (put y.1)

/-! ### ld and st (09/R198-R203) -/

/-- The order of MD[57:56] and the scope of SUB (09/R198). -/
def orderScope (f : Fields) : Option Scope := if bits f.md 1 0 = 0 then none else some (scopeOf (bits f.sub 2 0))

/-- A load of the elements named, as `ld` and stream entries make it (09/R199, 10/R240): the value of each lane or slice. -/
def loadElems (d : Reader) (r : BufRec) (ty : Ty) (sat : Bool) (us : List (Nat × Int)) :
    Except Stop (State × List (Nat × Nat)) := do
  boundsAndAlign r ty 0 us
  let ts := touches r ty us
  let live := ts.filter (·.live)
  -- every check of 03/R49 is made before a scale record is asked for (R201)
  let _ ← liftFlt (checkAll d.s d.c needLoad (live.map fun t => (t.x.va, r.span t.x)))
  scalesReady d.s d.warp d.g d.c (scaleKeys r ts)
  let q ← readElems d needLoad r (live.map (·.x))
  let coded := (live.zip q.2) ++ (ts.filter (!·.live)).map fun t => (t, 0)
  let v ← convertAll { d with s := q.1 } r ty sat coded (coreLfsr q.1 d.w.core) (us.map fun u => (u.1, 0))
  let s1 := (scaleKeys r ts).foldl (fun s k => scaleTouch s d.w.core k.1 k.2) v.1
  let s2 := if v.2.1 = coreLfsr s1 d.w.core then s1 else setLfsr s1 d.w.core v.2.1
  .ok (s2, v.2.2)

/-- The peer bytes that a load waited for have been used. -/
def usedUp (w : Warp) : Warp := { w with peerGot := [] }

/-- The acquire that a scope asks of a warp (07/R140). -/
def acquireFor (s : State) (w : Warp) : Option Scope → State
  | some sc => acquireAt s (whoOf s w) (levelFor s w sc)
  | none => s

def execLd (f : Fields) (s : State) : Host.Outcome State Fault Refusal :=
  execute s f fun s x => do
    let flag := tiedFlag x.g f
    tieCheck x.w flag
    let c ← ctxOf s x.w
    let r := recordOf s x.w.block f.a.toNat
    if r.bad f.ty false then .error (.fault { kind := 12, acc := 0, va := 0, vaFree := true })
    else do
      let us := (unitsOf x f).map fun u => (u, unitAddr s x f u)
      let acq := orderScope f
      let lv := acq.elim Level.l1 (levelFor s x.w)
      let d : Reader := { s := acquireFor s x.w acq, w := whoOf s x.w, c, warp := x.w, g := x.g, ef := bit f.md 3 || r.ef
                          bypass := r.bypass, count := true, lv }
      let q ← loadElems d r f.ty (bit f.md 2) us
      let n := newId q.1
      let x := { x with w := usedUp x.w }
      .ok (land n.2 x flag f.sc n.1 0 1 (q.2.map fun v => (f.d.toNat, v.1, v.2)) (us.map fun u => (f.d.toNat, u.1)) acq [] [] false)

/-- The code that a store writes for an element, and the LFSR (09/R197 in reverse). -/
def storeCode (r : BufRec) (ty : Ty) (sat : Bool) (l : W32) (data j : Nat) : Nat × W32 :=
  let pw := placeWidth r ty
  let e := data / 2 ^ (pw * j) % 2 ^ pw
  if r.fmt = 0xFF then (e, l)
  else
    let q := throughQf r l sat (elemValue (laneFmt ty) e) (nanSign (laneFmt ty) e)
    roundElem q.2.2 (fmtElem r.fmt) r.rnd sat q.1 q.2.1

/-- Bytes of the elements stored, in order; a sub-byte element merges its bits into its bytes. -/
def storePuts (r : BufRec) (ty : Ty) (sat : Bool) (old : Nat → Byte) :
    List (Touch × List Xlat × Nat) → W32 → List Put → List (Nat × Nat × Nat) → W32 × List Put × List (Nat × Nat × Nat)
  | [], l, ps, us => (l, ps, us)
  | (t, xs, data) :: rest, l, ps, us =>
    let c := storeCode r ty sat l data t.j
    let cur := fun (pa : Nat) => match ps.reverse.find? (fun p => p.2.1 == pa) with | some p => p.2.2 | none => old pa
    let before := ofBytes (xs.map fun x => cur x.pa)
    let field := before / 2 ^ t.x.sh % 2 ^ r.width
    let after := before - field * 2 ^ t.x.sh + (c.1 % 2 ^ r.width) * 2 ^ t.x.sh
    let new := xs.mapIdx fun i x => ((t.x.va + i) % 2 ^ 64, x.pa, BitVec.ofNat 8 (after / 256 ^ i))
    storePuts r ty sat old rest c.2 (ps ++ new) (us ++ new.map fun p => (t.unit, p.1, p.2.1))

/-- Bytes written where a copy command is at work are undefined (10/R224). -/
def taintPuts (s : State) (ctx block : Nat) (ps : List Put) : State × List Put :=
  if s.cmds = [] then (s, ps)
  else ps.foldl (fun a p =>
    let t := taintCopies a.1 none ctx block .memory p.1
    if t.2 then
      let n := fresh t.1
      (n.2, a.2 ++ [(p.1, p.2.1, BitVec.ofNat 8 n.1)])
    else (t.1, a.2 ++ [p])) (s, [])

/-- The level a release goes to; it waits while an earlier access is on its way elsewhere (07/R139). -/
def releaseBefore (s : State) (x : Exe) (sc : Option Scope) : Except Stop (State × Option Level) :=
  match sc with
  | none => .ok (s, none)
  | some sc =>
    if farPending s x.w then .error (.wait .retry)
    else
      let lv := levelFor s x.w sc
      .ok (releaseAt s (whoOf s x.w) lv, some lv)

def execSt (f : Fields) (s : State) : Host.Outcome State Fault Refusal :=
  execute s f fun s x => do
    let flag := tiedFlag x.g f
    tieCheck x.w flag
    let c ← ctxOf s x.w
    let r := recordOf s x.w.block f.a.toNat
    if r.bad f.ty true then .error (.fault { kind := 12, acc := 1, va := 0, vaFree := true })
    else do
      let us := (unitsOf x f).map fun u => (u, unitAddr s x f u)
      boundsAndAlign r f.ty 1 us
      let live := (touches r f.ty us).filter (·.live)
      let ts ← liftFlt (checkAll s c needStore (live.map fun t => (t.x.va, r.span t.x)))
      let p ← releaseBefore s x (orderScope f)
      let who := whoOf s x.w
      let ef := bit f.md 3 || r.ef
      let partBytes := r.width % 8 != 0
      match if partBytes then peerWait s x.w ts.flatten else none with
      | some s' => .error (.held (setWarp s' (x.w.setGroup { x.g with wait := .retry })))
      | none => do
        let spots := (live.zip ts).flatMap fun e => spotsOf e.1.x.va e.2
        let q ← if partBytes then readLines p.1 who c [] spots ef r.bypass false (linesIn spots) else .ok (p.1, [])
        let b := storePuts r f.ty (bit f.md 2) (byteAt q.2 x.w.peerGot)
          (live.zip ts |>.map fun e => (e.1, e.2, unitData x f f.d.toNat e.1.unit)) (coreLfsr q.1 x.w.core) [] []
        let s1 := if b.1 = coreLfsr q.1 x.w.core then q.1 else setLfsr q.1 x.w.core b.1
        let t := taintPuts s1 x.w.ctx x.w.block b.2.1
        let s2 := rememberAll (writeLines t.1 who t.2 ef r.bypass p.2) who ts.flatten
        let n := newId s2
        let lay := fun (pa : Nat) => (ts.flatten.find? fun y => y.pa == pa).getD noXlat
        let far := writePeers n.2 x.w (some n.1) t.2 lay
        let x := { x with w := usedUp x.w }
        .ok (land far.1 x flag f.sc n.1 far.2 2 [] [] none (us.map fun u => (f.d.toNat, u.1, unitData x f f.d.toNat u.1)) b.2.2 false
          r.bypass (orderScope f))

/-! ### lds and sts (09/R204) -/

/-- The block of a warp; a warp always has one. -/
def blockOf (s : State) (w : Warp) : Except Stop Block :=
  match findBlock s w.block with
  | some b => .ok b
  | none => .error (.wait .retry)

/-- The places of scratchpad offsets: range over all lanes first, then alignment. -/
def spadPlaces (b : Block) (core n acc : Nat) (us : List (Nat × Int)) : Except Stop (List (Nat × Bool × Nat)) :=
  match us.find? (fun u => (spadPlace b core u.2 n).isNone) with
  | some u => .error (.trap 8 (toBits 64 u.2).toNat 0)
  | none =>
    match us.find? (fun u => u.2 % (n : Int) != 0) with
    | some u => .error (.fault { kind := 10, acc, va := (toBits 64 u.2).toNat })
    | none => .ok (us.filterMap fun u => (spadPlace b core u.2 n).map fun p => (u.1, p))

/-- A scope wider than block counts as block for a scratchpad access (07/R136). -/
def portScope (sc : Option Scope) : Option Scope :=
  sc.map fun x => if scopeNum x ≤ 1 then x else .block

/-- Bytes written at a scratchpad place by a warp or its engines, undefined where a copy command is at work. -/
def spadWrite (s : State) (block by_ : Nat) (p : Bool × Nat) (bytes : List Byte) : State :=
  match findBlock s block with
  | none => s
  | some b =>
    if s.cmds = [] then setBlock s (putSpad b by_ p bytes)
    else
      let r := bytes.zipIdx.foldl (fun (a : State × List Byte) y =>
        let t := taintCopies a.1 none b.ctx b.id (spaceOf p.1) (p.2 + y.2)
        if t.2 then
          let n := fresh t.1
          (n.2, a.2 ++ [BitVec.ofNat 8 n.1])
        else (t.1, a.2 ++ [y.1])) (s, [])
      setBlock r.1 (putSpad b by_ p r.2)

def execLds (f : Fields) (s : State) : Host.Outcome State Fault Refusal :=
  execute s f fun s x => do
    let flag := tiedFlag x.g f
    tieCheck x.w flag
    let b ← blockOf s x.w
    let n := accessSize f.ty
    let ps ← spadPlaces b x.w.core n 0 ((unitsOf x f).map fun u => (u, unitAddr s x f u))
    let acq := portScope (orderScope f)
    let r := ps.foldl (fun (a : State × List (Nat × Nat × Nat)) p =>
      let q := spadRead a.1 b p.2 n
      (q.1, a.2 ++ [(f.d.toNat, p.1, ofBytes q.2)])) (acquireFor s x.w acq, [])
    let id := newId r.1
    .ok (land id.2 x flag f.sc id.1 0 1 r.2 (ps.map fun p => (f.d.toNat, p.1)) acq [] [] true)

def execSts (f : Fields) (s : State) : Host.Outcome State Fault Refusal :=
  execute s f fun s x => do
    let flag := tiedFlag x.g f
    tieCheck x.w flag
    let b ← blockOf s x.w
    let n := accessSize f.ty
    let ps ← spadPlaces b x.w.core n 1 ((unitsOf x f).map fun u => (u, unitAddr s x f u))
    let q ← releaseBefore s x (portScope (orderScope f))
    let places := ps.flatMap fun p => (List.range n).map fun i => (p.1, p.2.1, p.2.2 + i)
    let s0 := (q.1.outs.filter (·.warp == x.w.id)).foldl (fun s o => spoilDec s b x.w.core (places.map (·.2)) o) q.1
    let s1 := ps.foldl (fun s p => spadWrite s b.id (2 * x.w.id) p.2 (toBytes n (unitData x f f.d.toNat p.1))) s0
    let id := newId s1
    let bytes := places.map fun p => (p.1, p.2.2, if p.2.1 then 1 else 0)
    .ok (land id.2 x flag f.sc id.1 0 2 [] [] none (ps.map fun p => (f.d.toNat, p.1, unitData x f f.d.toNat p.1)) bytes true)

/-! ### Atomics (09/R205-R207, 07/R151-R153) -/

/-- The new value of an atomic. -/
def atomNew (op : Nat) (ty : Ty) (old x swp : Nat) : Nat :=
  let w := tyWidth ty
  let isFp := ty = .f32 ∨ ty = .f16x2 ∨ ty = .bf16x2
  match op with
  | 0 => if isFp then fpMap ty (fun F a b _ => F.result 0 false false (addVal 0 (F.value a) (F.value b))) old x 0
         else (old + x) % 2 ^ w
  | 1 => if isFp then fpMap ty (fun F a b _ => F.minMax false false a b) old x 0
         else if elemInt ty old 0 ≤ elemInt ty x 0 then old else x
  | 2 => if isFp then fpMap ty (fun F a b _ => F.minMax false true a b) old x 0
         else if elemInt ty old 0 ≤ elemInt ty x 0 then x else old
  | 3 => old &&& x
  | 4 => old ||| x
  | 5 => old ^^^ x
  | 6 => x
  | _ => if old = x then swp else old

/-- A mask of `n` bytes at an address within its line. -/
def maskAt (pa n : Nat) : BitVec 128 := BitVec.ofNat 128 ((2 ^ n - 1) <<< (pa % 128))

/-- One atomic performed at a level: the old value (07/R151). An aligned access lies within one line. -/
def atomicAt (s : State) (w : Who) (c : Ctx) (lv : Level) (va pa n : Nat) (new : Nat → Nat) : Except Stop (State × Nat) :=
  let m := maskAt pa n
  let pick := fun (d : VReg) => bits d (8 * (pa % 128) + 8 * n - 1) (8 * (pa % 128))
  let place := fun (v : Nat) => (BitVec.ofNat 1024 (v <<< (8 * (pa % 128))) : VReg)
  match lv with
  | .l1 =>
    let want := wantsL2 s w pa m false
    match (if want != 0 && missesL2 s w pa want (sealedAt c va) then badRead s pa else none) with
    | some src => .error (.fault (mcFault src (lineOf pa) va 2))
    | none =>
      let r := loadLine s w va pa m false false (sealedAt c va)
      let old := pick r.2.1
      .ok (storeL1 r.1 w va pa (place (new old)) m false, old)
  | .l2 =>
    let s1 := dropBytesL1 s w pa m
    match (if missesL2 s1 w pa m (sealedAt c va) then badRead s1 pa else none) with
    | some src => .error (.fault (mcFault src (lineOf pa) va 2))
    | none =>
      let r := loadL2 s1 w va pa m false (sealedAt c va)
      let old := pick r.2.1
      .ok (storeL2 r.1 w pa (place (new old)) m false (rtnFor s w.die w.ctx va) [w.warp], old)
  | .home =>
    let s1 := dropBytesL2 (dropBytesL1 s w pa m) w.die pa m
    match badRead s1 pa with
    | some src => .error (.fault (mcFault src (lineOf pa) va 2))
    | none =>
      let old := ofBytes (homeBytes s1 pa n)
      .ok (homeStoreAs s1 w.compat ((toBytes n (new old)).mapIdx fun i b => (pa + i, b)), old)

/-- The bytes of an `n`-byte value at some places taken from another number. -/
def mixBytes (n : Nat) (places : List Nat) (other v : Nat) : Nat :=
  ofBytes ((List.range n).map fun i => BitVec.ofNat 8 ((if places.contains i then other else v) / 256 ^ i))

/-- An atomic of a block: what it reads of a copy command's destination is free, and so is what it writes of a source or a
destination (10/R224). -/
def atomicOne (s : State) (w : Who) (c : Ctx) (block : Nat) (lv : Level) (va pa n : Nat) (new : Nat → Nat) :
    Except Stop (State × Nat) :=
  if s.cmds = [] then atomicAt s w c lv va pa n new
  else
    let reads := (List.range n).filter fun i => underCopy s c.slot block .memory (va + i)
    let t := (List.range n).foldl (fun (a : State × List Nat) i =>
      let q := taintCopies a.1 none c.slot block .memory (va + i)
      (q.1, if q.2 then i :: a.2 else a.2)) (s, [])
    let a := fresh t.1
    let b := fresh a.2
    match atomicAt b.2 w c lv va pa n fun old => mixBytes n t.2 b.1 (new (mixBytes n reads a.1 old)) with
    | .error e => .error e
    | .ok p => .ok (p.1, mixBytes n reads a.1 p.2)

/-- The lanes one after another (09/R207). -/
def atomicLanes (w : Who) (c : Ctx) (block : Nat) (lv : Level) (n : Nat) :
    List (Nat × Nat × Nat × (Nat → Nat)) → State → List (Nat × Nat) → Except Stop (State × List (Nat × Nat))
  | [], s, olds => .ok (s, olds)
  | (u, va, pa, new) :: r, s, olds =>
    match atomicOne s w c block lv va pa n new with
    | .error e => .error e
    | .ok p => atomicLanes w c block lv n r p.1 (olds ++ [(u, p.2)])

/-- The effect of `atom` and `red` but for what is returned. -/
def atomic (f : Fields) (returns : Bool) (s : State) (x : Exe) : Except Stop State := do
  let flag := tiedFlag x.g f
  tieCheck x.w flag
  let b ← blockOf s x.w
  let c ← ctxOf s x.w
  let n := accessSize f.ty
  let op := f.sub.toNat
  let d := f.d.toNat
  let spad := bit f.a 3
  let sc0 := scopeOf (bits f.a 2 0)
  let sc := if spad then (portScope (some sc0)).getD .block else sc0
  let us := (unitsOf x f).map fun u => (u, unitAddr s x f u)
  let new := fun (u old : Nat) => atomNew op f.ty old (unitData x f d u % 2 ^ (8 * n)) (unitData x f (d + 1) u % 2 ^ (8 * n))
  let rel : Option Scope := if bit f.md 1 then some sc else none
  let acq : Option Scope := if bit f.md 0 then some sc else none
  let dests := if returns then us.map fun u => (d, u.1) else []
  if spad then do
    let ps ← spadPlaces b x.w.core n 2 us
    let q ← releaseBefore s x rel
    let r := ps.foldl (fun (a : State × List (Nat × Nat × Nat)) p =>
      match findBlock a.1 b.id with
      | none => a
      | some b' =>
        let o := spadRead a.1 b' p.2 n
        let old := ofBytes o.2
        (spadWrite o.1 b.id (2 * x.w.id) p.2 (toBytes n (new p.1 old)), a.2 ++ [(d, p.1, old)])) (q.1, [])
    let id := newId (acquireFor r.1 x.w acq)
    .ok (land id.2 x flag f.sc id.1 0 3 (if returns then r.2 else []) dests acq []
      (ps.flatMap fun p => (List.range n).map fun i => (p.1, p.2.2 + i, if p.2.1 then 1 else 0)) true)
  else
    match us.find? (fun u => u.2 % (n : Int) != 0) with
    | some u => .error (.fault { kind := 10, acc := 2, va := (toBits 64 u.2).toNat })
    | none => do
      let ts ← liftFlt (checkAll s c { needAtomic with peer := sc = .system } (us.map fun u => ((toBits 64 u.2).toNat, n)))
      let q ← releaseBefore s x rel
      let at_ := (us.zip ts).map fun p => (p.1.1, (toBits 64 p.1.2).toNat, ((p.2.head?.map (·.pa)).getD 0), p.2)
      let near := at_.filter fun p => isHbm p.2.2.1
      let far := at_.filter fun p => !isHbm p.2.2.1
      let r ← atomicLanes (whoOf s x.w) c b.id (levelFor s x.w sc) n (near.map fun p => (p.1, p.2.1, p.2.2.1, new p.1)) q.1 []
      let id := newId (rememberAll (acquireFor r.1 x.w acq) (whoOf s x.w) ts.flatten)
      let pas := (far.map fun p => p.2.2.1).eraseDups
      let s2 := pas.foldl (fun s pa =>
        let mine := far.filter fun p => p.2.2.1 == pa
        askPeer s { id := 0, peer := peerIndex pa, pa, warp := some x.w.id, out := some id.1, lanes := mine.map (·.1)
                    d, a := if returns then 1 else 0, scalar := f.sc
                    op := .atomic f.sub f.ty (mine.map fun p =>
                      (BitVec.ofNat 64 (unitData x f d p.1), BitVec.ofNat 64 (unitData x f (d + 1) p.1))) }
          (((far.find? fun p => p.2.2.1 == pa).bind fun p => p.2.2.2.head?).getD noXlat)) id.2
      .ok (land s2 x flag f.sc id.1 pas.length 3 (if returns then r.2.map fun o => (d, o.1, o.2) else []) dests acq [] [] false)

def execAtom (f : Fields) (s : State) : Host.Outcome State Fault Refusal :=
  execute s f fun s x => atomic f true s x

def execRed (f : Fields) (s : State) : Host.Outcome State Fault Refusal :=
  execute s f fun s x => atomic f false s x

/-! ### MEMORY_RESPONSE (09/R202, 08/R169) -/

/-- A register of a lane or slice has been written since an access issued. -/
def writtenSince (w : Warp) (o : Outstanding) (r u : Nat) : Bool :=
  if o.scalar then decide (o.clocks.getD u 0 < tabGet 0 (w.slice u).stamp r) else bit (w.lanesSince r (o.clocks.getD 8 0)) u

/-- The bytes of a tied store whose data registers have been written since it issued (09/R202). -/
def changedBytes (w : Warp) (o : Outstanding) : List (Nat × Nat × Nat) :=
  let changed := (o.data.filter fun p => writtenSince w o p.1 p.2.1).map (·.2.1)
  o.bytes.filter fun p => changed.contains p.1

/-- Those bytes take free values, where the store put its own: at the scratchpad port, in the caches down to the level of its
scope, or behind a peer window. The number of answers that peers still owe. -/
def spoilStore (s : State) (w : Warp) (o : Outstanding) : State × Nat :=
  let ps := changedBytes w o
  if o.spad then
    (ps.foldl (fun s p =>
      let n := fresh s
      spadWrite n.2 w.block (2 * w.id) (p.2.2 == 1, p.2.1) [BitVec.ofNat 8 n.1]) s, 0)
  else
    let v := freshes ps.length s
    let puts : List Put := ps.zip v.1 |>.map fun x => (x.1.2.1, x.1.2.2, BitVec.ofNat 8 x.2)
    let s1 := writeLines v.2 (whoOf v.2 w) puts false o.bypass (o.release.map (levelFor s w))
    let lay := fun (pa : Nat) => match findCtx s w.ctx, ps.find? (·.2.2 == pa) with
      | some c, some p => (match lookup s c p.2.1 1 with | .ok x => x | .error _ => noXlat)
      | _, _ => noXlat
    writePeers s1 w (some o.id) puts lay

/-- A wait that an answer ends. -/
def endWait (w : Warp) (p : Wait → Bool) : Warp :=
  { w with groups := w.groups.map fun g => if p g.wait then { g with wait := .none } else g }

/-- Conditions that a tied access leaves: they hold free values until its answer, and for good where software has written
them (08/R169). -/
def settleConds (s : State) (w : Warp) (cs : List (Nat × Cond × Cond)) : State × Warp :=
  cs.foldl (fun (a : State × Warp) c =>
    if (a.2.slice c.1).readC 0 = c.2.1 then (a.1, a.2.writeC c.1 0 c.2.2)
    else
      let n := freshCond a.1
      (n.2, a.2.writeC c.1 0 n.1)) (s, w)

/-- The access is complete: results, acquire, flag (09/R202). A store whose bytes behind a peer window have become undefined
waits until the peer has them. -/
def respondNow (s : State) (o : Outstanding) : State :=
  match (match o.inv with | some v => scaleRemove s v.1 v.2 | none => some s), findWarp s o.warp with
  | none, _ => s
  | some s, none => { s with outs := s.outs.filter (·.id != o.id) }
  | some s, some w =>
   let sp := if o.data = [] then (s, 0) else spoilStore s w o
   if sp.2 ≠ 0 then
    let gone := changedBytes w o
    { sp.1 with outs := updWhere (·.id == o.id) (fun o =>
        { o with need := sp.2, bytes := o.bytes.filter fun b => !gone.contains b }) sp.1.outs }
   else
    let s := if o.spad && o.flag.isSome then
        (match findBlock sp.1 w.block with
          | some b => setBlock sp.1 (stampSpad b (2 * w.id) (o.bytes.map fun p => (p.2.2 == 1, p.2.1)))
          | none => sp.1)
      else sp.1
    let put := fun (scalar : Bool) (marks vals : List (Nat × Nat × Nat)) (a : State × Warp) =>
      vals.foldl (fun (a : State × Warp) v => settle a.1 a.2 scalar marks v.1 v.2.1 v.2.2) a
    let v := put false (o.vmarks.map fun m => (m.1, m.2.1, m.2.2.toNat)) (o.vwrites.map fun m => (m.1, m.2.1, m.2.2.toNat)) (s, w)
    let r := put true (o.smarks.map fun m => (m.1, m.2.1, m.2.2.toNat)) (o.swrites.map fun m => (m.1, m.2.1, m.2.2.toNat)) v
    let r := settleConds r.1 r.2 o.conds
    let s2 := acquireFor r.1 w o.acquire
    trySave { setWarp s2 (endWait (r.2.lower o.flag) (· == .access o.id)) with outs := s2.outs.filter (·.id != o.id) } w.block

/-- An outstanding access completes. Nothing happens while answers are awaited, and a tied `deq` waits for a message. -/
def respond (s : State) (id : Nat) : State :=
  match s.outs.find? (·.id == id) with
  | none => s
  | some o =>
    if o.need ≠ 0 then s else
    match o.deq, findWarp s o.warp with
    | some (desc, va, d), some w =>
      match findCtx s w.ctx with
      | none => s
      | some c =>
        match dequeue s c desc va with
        | .empty => s
        | .fault s1 f => takeFaultBy s1 w (fun _ => w) f
        | .got s1 words =>
          let js := (o.conds.map (·.1))
          respondNow s1 { o with swrites := js.flatMap fun j => words.mapIdx fun i x => (d + i, j, x) }
    | _, _ => respondNow s o

def execMemoryResponse (id : Nat) (s : State) : Host.Outcome State Fault Refusal := event s fun s => respond s id

end Sys2Proof.Machine
end

