-- ==== Sys2Proof/Machine/Access.lean ====
section
/-! DEFINITION. The access processor (10/R237-R244): streams, the scalar instructions of the access slice, and the events of
stream units. -/

namespace Sys2Proof.Machine

/-! ### The frame of an access-slice instruction -/

def Warp.readA (w : Warp) (n : Nat) : W64 := tabGet 0 w.acc.a n
def Warp.writeA (w : Warp) (n : Nat) (x : W64) : Warp := { w with acc := { w.acc with a := tabSet 0 w.acc.a n x } }

/-- The access slice at its next slot. -/
def Warp.accNext (w : Warp) : Warp :=
  { w with acc := { w.acc with pc := w.acc.pc + 1, entry := if w.acc.pc % 5 = 4 then .fall else w.acc.entry } }

/-- The access slice at the target of a branch; a target that names no code address traps at the branch (08/R167). -/
def Warp.accGoto (w : Warp) (d : Int) : Except Stop Warp :=
  match slotPlus w.acc.pc d with
  | some t => .ok { w with acc := { w.acc with pc := t, entry := .transfer w.acc.pc } }
  | none => .error (.trap 3 (codeAddr w.acc.pc).toNat 0)

/-- Run a meaning for the issuing access slice: the warp afterwards, or what a stop does. -/
def accessDo (s : State) (body : Warp → Except Stop Warp) : Host.Outcome State Fault Refusal :=
  match accessIssuer s with
  | none => .fault .noIssuer
  | some w => match body w with
    | .ok w' => .next { setWarp s w' with last := .retired }
    | .error e => .next (accessStopped s w e)

def putStream (w : Warp) (n : Nat) (st : Stream) : Warp := putQueue w n { queueAt w n with stream := st }

/-! ### Streams (10/R238-R243) -/

/-- Entries of a stream. -/
def Stream.count (t : Stream) : Nat := bits t.counts 15 0 * bits t.counts 31 16 * bits t.counts 47 32 * bits t.counts 63 48

/-- The element index of lane 0 in the `n`-th entry, i0 running fastest. -/
def Stream.index (t : Stream) (n : Nat) : Int :=
  let n0 := bits t.counts 15 0
  let n1 := bits t.counts 31 16
  let n2 := bits t.counts 47 32
  let d := fun (w : W64) (hi lo : Nat) => sextNat 32 (bits w hi lo)
  t.base.toInt + (n % n0 : Nat) * d t.d01 31 0 + (n / n0 % n1 : Nat) * d t.d01 63 32
    + (n / (n0 * n1) % n2 : Nat) * d t.d23 31 0 + (n / (n0 * n1 * n2) : Nat) * d t.d23 63 32

/-- The last entry has been pushed. -/
def Stream.ended (t : Stream) : Stream :=
  if t.closing then { st := .closed } else { t with st := .idle, flight := [], next := 0, parked := none }

/-- `astop` on a stream (10/R238). -/
def Stream.stop (t : Stream) : Stream :=
  match t.st with
  | .running => { t with closing := true }
  | _ => { st := .closed }

def execStrm (f : Fields) (s : State) : Host.Outcome State Fault Refusal :=
  accessDo s fun w =>
    let n := f.d.toNat
    let t := (queueAt w n).stream
    let r := recordOf s w.block f.a.toNat
    match t.st with
    | .closed => .error illegal
    | .running => .error (.wait .retry)
    | _ =>
      if r.bad f.ty false then
        .error (.fault { kind := 12, acc := 0, va := 0, vaFree := true, prog5 := BitVec.ofNat 64 (11 * 2 ^ 56 + n) })
      else
        let c := f.c.toNat
        .ok (putStream w n {
          st := .defined, record := f.a.toNat, ty := f.ty, md := f.md, laneStride := f.imm, base := w.readA c
          counts := w.readA (c + 1), d01 := w.readA (c + 2), d23 := w.readA (c + 3) }).accNext

def execSrun (f : Fields) (s : State) : Host.Outcome State Fault Refusal :=
  accessDo s fun w =>
    let qs := (List.range 8).filter fun i => bit f.imm i
    if qs.all fun n => (queueAt w n).stream.st == .defined then
      -- streams started together take turns from the lowest queue on
      let w := if (List.range 8).any fun n => (queueAt w n).stream.st == .running then w else { w with strQueue := 7 }
      .ok (qs.foldl (fun w n =>
        let t : Stream := { (queueAt w n).stream with st := .running, next := 0, flight := [], parked := none }
        putStream w n (if t.count = 0 then t.ended else t)) w).accNext
    else .error illegal

def execAstop (f : Fields) (s : State) : Host.Outcome State Fault Refusal :=
  accessDo s fun w => .ok (putStream w f.d.toNat (queueAt w f.d.toNat).stream.stop).accNext

/-- Every queue closes and the access slice issues nothing further. -/
def execAstopAll (_f : Fields) (s : State) : Host.Outcome State Fault Refusal :=
  accessDo s fun w =>
    let w := { w with q := tabMap {} 8 (fun (q : Queue) => { q with stream := q.stream.stop }) w.q }
    .ok { w.accNext with acc := { w.accNext.acc with st := .ended } }

/-! ### Scalar instructions (10/R244) -/

def execAmovi (f : Fields) (s : State) : Host.Outcome State Fault Refusal :=
  accessDo s fun w => .ok (w.writeA f.d.toNat (sx64 f.imm)).accNext

def execAmoviHi (f : Fields) (s : State) : Host.Outcome State Fault Refusal :=
  accessDo s fun w => .ok (w.writeA f.d.toNat (f.imm ++ (w.readA f.d.toNat).setWidth 32 : BitVec 64)).accNext

def execAadd (f : Fields) (s : State) : Host.Outcome State Fault Refusal :=
  accessDo s fun w =>
    let b : W64 := match f.bk with
      | .imm => sx64 f.imm
      | .special => BitVec.ofNat 64 (specialValue s w 0 0 f.b.toNat)
      | _ => w.readA f.b.toNat
    .ok (w.writeA f.d.toNat (w.readA f.a.toNat + b)).accNext

def execAloop (f : Fields) (s : State) : Host.Outcome State Fault Refusal :=
  accessDo s fun w =>
    let x := w.readA f.d.toNat - 1
    let w := w.writeA f.d.toNat x
    if x = 0 then .ok w.accNext else w.accGoto f.imm.toInt

/-- The conditions of `abr`. -/
def abrTakes (cc : Nat) (a b : W64) : Bool :=
  match cc with
  | 0 => a == b
  | 1 => a != b
  | 2 => a.toInt < b.toInt
  | 3 => b.toInt ≤ a.toInt
  | 4 => a.toNat < b.toNat
  | 5 => b.toNat ≤ a.toNat
  | _ => true

def execAbr (f : Fields) (s : State) : Host.Outcome State Fault Refusal :=
  accessDo s fun w =>
    if abrTakes f.sub.toNat (w.readA f.a.toNat) (w.readA f.b.toNat) then w.accGoto f.imm.toInt else .ok w.accNext

/-! ### Events of stream units (10/R240-R241) -/

/-- A fault of a stream entry: the stream parks, or the block is killed; the record counts the entries pushed. -/
def streamStopped (s : State) (w : Warp) (n : Nat) (e : Stop) : State :=
  let t := (queueAt w n).stream
  let put : Wait → Warp := fun x => match x with
    | .parked fid => putStream w n { t with parked := some fid }
    | _ => w
  match e with
  | .fault f => takeFaultBy s w put { f with prog4 := BitVec.ofNat 64 (t.next - t.flight.length)
                                             prog5 := BitVec.ofNat 64 (11 * 2 ^ 56 + n) }
  | .held s' => s'
  | _ => s

/-- The lanes of an entry: a plain load of the warp's active lanes. A group that is none of the warp's stands for the unit,
so that a wait of the load marks no group. -/
def issueEntry (s : State) (w : Warp) (n : Nat) : State :=
  let t := (queueAt w n).stream
  match findCtx s w.ctx with
  | none => s
  | some c =>
    let r := recordOf s w.block t.record
    let d : Reader := { s, w := whoOf s w, c, warp := w, g := { slices := 0, pc := 0 }, ef := bit t.md 3 || r.ef
                        bypass := r.bypass, count := true }
    let us := (lanesOf w.activeLanes).map fun (L : Nat) => (L, (toBits 64 (t.index t.next + (L : Int) * t.laneStride.toInt)).toInt)
    match loadElems d r t.ty (bit t.md 2) us with
    | .error e => streamStopped s w n e
    | .ok q =>
      let v := q.2.foldl (fun (v : VReg) u => setLane v u.1 (BitVec.ofNat 32 u.2)) 0
      setWarp q.1 (putStream w n { t with next := t.next + 1, flight := t.flight ++ [v] })

/-- A warp's stream units work: the warp is on its core, its context runs and its block is not being saved. -/
def unitsRun (s : State) (w : Warp) : Bool :=
  w.resident && ctxRuns s w.ctx && (findBlock s w.block).any fun b => !b.ended && !b.saving

/-- A stream has an entry to issue, and its queue a place for it. -/
def canStream (s : State) (w : Warp) (queue : Nat) : Bool :=
  let q := queueAt w queue
  let t := q.stream
  queue < 8 && unitsRun s w && t.st == .running && t.parked.isNone && t.next < t.count && t.flight.length + q.entries.length < 16

/-- The stream units of a core take warps and then queues in turns: this warp, and of its queues this one, issued last (10/R240). -/
def turnTaken (s : State) (w : Warp) (queue : Nat) : State :=
  { s with strTurn := tabSet 0 s.strTurn w.core w.id, warps := updWhere (·.id == w.id) (fun w => { w with strQueue := queue }) s.warps }

def execStreamEntryIssue (warp queue : Nat) (s : State) : Host.Outcome State Fault Refusal :=
  event s fun s => match findWarp s warp with
    | none => s
    | some w =>
      if canStream s w queue then
        let t := issueEntry s w queue
        if t = s then s else turnTaken t w queue
      else s

def execStreamEntryPush (warp queue : Nat) (s : State) : Host.Outcome State Fault Refusal :=
  event s fun s => match findWarp s warp with
    | none => s
    | some w =>
      let q := queueAt w queue
      match q.stream.flight with
      | [] => s
      | v :: rest =>
        if queue < 8 && unitsRun s w && q.entries.length < 16 then
          let t := { q.stream with flight := rest }
          setWarp s (putQueue w queue {
            entries := q.entries ++ [v], stream := if rest = [] ∧ t.next = t.count then t.ended else t })
        else s

/-! ### The trap of an access slice (17/R393) -/

/-- A group stands at an instruction boundary: nothing of its instruction has been done. -/
def atBoundary (g : Group) : Bool :=
  match g.wait with
  | .none | .retry | .stall | .flags _ => true
  | _ => false

/-- The access slice ends and every queue counts as closed. -/
def closeAccess (w : Warp) : Warp :=
  { w with acc := { w.acc with st := .ended, wait := .none }, q := tabMap {} 8 (fun (q : Queue) => { q with stream := q.stream.stop }) w.q }

/-- The trap is taken by the group that would issue next; TINFO holds the access slice's code address. -/
def execAccessTrapDeliver (warp : Nat) (s : State) : Host.Outcome State Fault Refusal :=
  event s fun s => match findWarp s warp with
    | none => s
    | some w =>
      match w.acc.st, nextGroup w atBoundary with
      | .trapped cause code, some g =>
        if unitsRun s w then
          let w1 := closeAccess w
          if w.hm || w.tvec == 0 then
            -- an unhandled trap waits with its queue full (03/R53): the trap then stays undelivered
            match findCtx s w.ctx with
            | some c => if fltFull s c then s else unhandled (setWarp s w1) w1 g cause (BitVec.ofNat 64 code)
            | none => s
          else takeTrap (setWarp s w1) w1 g cause code 0 (codeAddr g.pc)
        else s
      | _, _ => s

end Sys2Proof.Machine
end

