-- ==== Sys2Proof/Machine/Cells.lean ====
section
/-! DEFINITION. Decide-once cells (07/R156-R164, 09/R208-R209). -/

namespace Sys2Proof.Machine

/-- Where g' stands on the ring of generations (07/R157). -/
inductive GenPos where
  | current | future | stale
deriving DecidableEq, Repr

def genPos (g' g : W16) : GenPos :=
  if g' = 0 then .stale
  else
    let d := (g'.toNat + 65535 - g.toNat) % 65535
    if d = 0 then .current else if d ≤ 32767 then .future else .stale

/-- The generation after one (07/R158). -/
def genNext (g : W16) : W16 := if g = 0xFFFF then 1 else g + 1

/-- One operation on a cell: the next cell, the outcome code (07/R159) and the value returned. -/
def cellApply (c : Cell) (kind : Nat) (g' : W16) (x : BitVec 128) : Cell × Nat × BitVec 128 :=
  match genPos g' c.gen with
  | .stale => (c, 2, 0)
  | .future => (c, 3, 0)
  | .current =>
    match kind, c.decided with
    | 0, false => ({ c with decided := true, value := x }, 0, x)
    | 0, true => (c, 1, c.value)
    | 1, true => (c, 5, c.value)
    | 1, false => (c, 4, 0)
    | _, true => ({ decided := false, gen := genNext c.gen, value := 0 }, 6, 0)
    | _, false => (c, 7, 0)

def cellAt (s : State) (pa : Nat) : Cell := tabGet {} s.cells (pa / 16 * 16)
def setCell (s : State) (pa : Nat) (c : Cell) : State := { s with cells := tabSet {} s.cells (pa / 16 * 16) c }

/-- Outcomes that carry an acquire and whose value may be cached (07/R160-R161). -/
def cellDecides (code : Nat) : Bool := code = 0 || code = 1 || code = 5

/-- A decided value kept in the L1 and the L2 of the core that received it (07/R160). -/
def keepCopy (s : State) (core pa : Nat) (gen : W16) (value : BitVec 128) : State :=
  let a : CellCopy := { core := some core, die := dieOf core, pa, gen, value }
  let b : CellCopy := { core := none, die := dieOf core, pa, gen, value }
  { s with cellCopies := a :: b :: s.cellCopies.filter fun c => c != a && c != b }

/-- A copy that a `cellr` of a core may be answered from. -/
def findCopy (s : State) (core pa : Nat) (gen : W16) : Option CellCopy :=
  s.cellCopies.find? fun c => c.pa == pa && c.gen == gen && (c.core == some core || (c.core.isNone && c.die == dieOf core))

/-- What a result writes: the generation register with the outcome, and the value registers. -/
def cellWrites (kind d a lane : Nat) (gen : W16) (code : Nat) (value : BitVec 128) : List (Nat × Nat × W32) :=
  (a, lane, BitVec.ofNat 32 (gen.toNat + code * 65536)) ::
    (if kind = 2 then [] else (List.range 4).map fun i => (d + i, lane, value.extractLsb' (32 * i) 32))

/-- A result reaches its outstanding access. -/
def answerCell (s : State) (out core pa kind d a lane : Nat) (gen : W16) (code : Nat) (value : BitVec 128) : State :=
  let s1 := if cellDecides code then keepCopy s core pa gen value else s
  { s1 with outs := updWhere (·.id == out) (fun o => { o with
      vwrites := o.vwrites ++ cellWrites kind d a lane gen code value
      acquire := if cellDecides code then some .system else o.acquire }) s1.outs }

/-- One answer fewer is awaited. -/
def oneAnswer (s : State) (out : Nat) : State :=
  { s with outs := updWhere (·.id == out) (fun o => { o with need := o.need - 1 }) s.outs }

/-- The lanes of a cell instruction: lane, VA. -/
def cellInstr (kind : Nat) (f : Fields) (s : State) (x : Exe) : Except Stop State := do
  let flag := tiedFlag x.g f
  tieCheck x.w flag
  let c ← ctxOf s x.w
  let us := (lanesOf x.en).map fun L => (L, (toBits 64 (laneAddr s x f L)).toNat)
  match us.find? (fun u => u.2 % 16 != 0) with
  | some u => .error (.fault { kind := 10, acc := 6, va := u.2 })
  | none => do
    let need : Need := { perm := if kind = 1 then 1 else 2, cell := true, acc := 6, writes := kind = 0 }
    let ts ← liftFlt (checkAll s c need (us.map fun u => (u.2, 16)))
    let at_ := (us.zip ts).filterMap fun p => p.2.head?.map fun y => (p.1.1, p.1.2, y)
    match at_.find? (fun p => isHbm p.2.2.pa && (granuleOf s p.2.2.pa).isNone) with
    | some p => .error (.fault { kind := 13, acc := 6, va := p.2.1, entry := p.2.2.entry, level := p.2.2.level })
    | none => do
      let q ← releaseBefore s x (if kind = 1 then none else some .system)
      let d := f.d.toNat
      let a := f.a.toNat
      let gen := fun (L : Nat) => (lane (x.src.readV a) L).extractLsb' 0 16
      let val := fun (L : Nat) => if kind = 0 then
          ((lane (x.src.readV (d + 3)) L ++ lane (x.src.readV (d + 2)) L ++ lane (x.src.readV (d + 1)) L ++ lane (x.src.readV d) L : BitVec 128))
        else 0
      -- a read may be answered from a copy (07/R160)
      let cached := fun (L pa : Nat) => if kind = 1 ∧ Config.pick s.choice % 2 = 0 then findCopy s x.w.core pa (gen L) else none
      let id := newId (rememberAll q.1 (whoOf q.1 x.w) ts.flatten)
      let hits := at_.filterMap fun p => (cached p.1 p.2.2.pa).map fun y => (p.1, y)
      let rest := at_.filter fun p => (cached p.1 p.2.2.pa).isNone
      let near := rest.filter fun p => isHbm p.2.2.pa
      let far := rest.filter fun p => !isHbm p.2.2.pa
      let s1 := near.foldl (fun s p =>
        let n := newId s
        { n.2 with cellOps := n.2.cellOps ++ [{ id := n.1, pa := p.2.2.pa, kind, gen := gen p.1, x := val p.1, out := id.1
                                                lane := p.1, d, a, core := x.w.core }] }) id.2
      let pas := (far.map fun p => p.2.2.pa).eraseDups
      let s2 := pas.foldl (fun s pa =>
        let mine := far.filter fun p => p.2.2.pa == pa
        askPeer s { id := 0, peer := peerIndex pa, pa, warp := some x.w.id, out := some id.1, lanes := mine.map (·.1), d, a
                    op := .cells (mine.map fun p => (BitVec.ofNat 2 kind, gen p.1, val p.1)) }
          (((far.find? fun p => p.2.2.pa == pa).map (·.2.2)).getD noXlat)) s1
      let writes := hits.flatMap fun h => (cellWrites kind d a h.1 h.2.gen 5 h.2.value).map fun w => (w.1, w.2.1, w.2.2.toNat)
      let dests := us.flatMap fun u => (a, u.1) :: (if kind = 2 then [] else (List.range 4).map fun i => (d + i, u.1))
      let acq : Option Scope := if hits = [] then none else some .system
      .ok (land (acquireFor s2 x.w acq) x flag false id.1 (near.length + pas.length) (if kind = 1 then 1 else 3) writes dests acq [] [] false)

def execCellp (f : Fields) (s : State) : Host.Outcome State Fault Refusal :=
  execute s f fun s x => cellInstr 0 f s x

def execCellr (f : Fields) (s : State) : Host.Outcome State Fault Refusal :=
  execute s f fun s x => cellInstr 1 f s x

def execCellc (f : Fields) (s : State) : Host.Outcome State Fault Refusal :=
  execute s f fun s x => cellInstr 2 f s x

/-- One operation applied at the home and answered. -/
def applyCell (s : State) (o : CellOp) : State :=
  let r := cellApply (cellAt s o.pa) o.kind o.gen o.x
  let s1 := { setCell s o.pa r.1 with cellOps := s.cellOps.filter (·.id != o.id) }
  oneAnswer (answerCell s1 o.out o.core o.pa o.kind o.d o.a o.lane o.gen r.2.1 r.2.2) o.out

/-- The lanes of one instruction that name the cell are applied as one unit, in lane order (09/R209). -/
def cellUnit (s : State) (id : Nat) : State :=
  match s.cellOps.find? (·.id == id) with
  | none => s
  | some o => (s.cellOps.filter fun p => p.out == o.out && p.pa / 16 == o.pa / 16).foldl applyCell s

def execCellOpAtHome (id : Nat) (s : State) : Host.Outcome State Fault Refusal := event s fun s => cellUnit s id

end Sys2Proof.Machine
end

