-- ==== Sys2Proof/Machine/Mq.lean ====
section
/-! DEFINITION. `rsv`, `enq` and `deq` (14/R323-R328, 18/R415, R418), and the events of message queues. -/

namespace Sys2Proof.Machine

/-- The queue that an instruction names: PA and VA of its descriptor. -/
def queueOf (s : State) (x : Exe) (f : Fields) : Except Stop (Nat × Nat) := do
  let c ← ctxOf s x.w
  let va := (x.s f.a.toNat).toNat
  let xs ← liftFlt (checkBytes s c needQueue va 64)
  .ok (((xs.head?.map (·.pa)).getD 0), va)

/-- A warp's reservation for a queue. -/
def heldSlots (w : Warp) (desc : Nat) : Nat := ((w.resv.find? (·.desc == desc)).map (·.n)).getD 0

/-- A warp's reservation set; none for no slots. -/
def setSlots (w : Warp) (desc n : Nat) : Warp :=
  let rest := w.resv.filter (·.desc != desc)
  { w with resv := if n = 0 then rest else ⟨desc, n⟩ :: rest }

/-- Local queue checks that a home makes on a reservation. -/
def reserveCause (s : State) (desc n : Nat) : Option Nat :=
  match queueCause s desc with
  | some k => some k
  | none => if queueCap s desc < n then some 4 else none

/-- The meaning of `rsv` and `rsv.try`. -/
def reserve (try_ : Bool) (f : Fields) (s : State) (x : Exe) : Except Stop State := do
  let q ← queueOf s x f
  let desc := q.1
  let s := if isHbm desc then queueEnter s desc else s
  let n := bits f.imm 15 0
  let ninth := heldSlots x.w desc = 0 ∧ 8 ≤ x.w.resv.length
  let refuse : Except Stop State := .ok (retire s (x.w.setZ x.slices true) x.g)
  match (if isHbm desc then reserveCause s desc n else none) with
  | some k => .error (.fault (queueFault k q.2))
  | none =>
    if ninth then refuse
    else if isHbm desc && canReserve s desc n then
      .ok (retire (reserveSlots s desc n) (setSlots (x.w.setZ x.slices false) desc (heldSlots x.w desc + n)) x.g)
    else if isHbm desc && try_ then refuse
    else
      let id := newId s
      let s1 := setWarp id.2 (x.w.setGroup { x.g with wait := .grant id.1 })
      let s2 := { s1 with rsvWaits := s1.rsvWaits ++ [{ id := id.1, desc, va := q.2, n, warp := some x.w.id, peer := none }] }
      .error (.held (if isHbm desc then s2
        else sendPeer s2 (peerIndex desc) 2 (.peerReserve (peerIndex desc) id.1 (desc % 2 ^ 40) n try_)))

def execRsv (f : Fields) (s : State) : Host.Outcome State Fault Refusal :=
  execute s f fun s x => reserve false f s x

def execRsvTry (f : Fields) (s : State) : Host.Outcome State Fault Refusal :=
  execute s f fun s x => reserve true f s x

/-- The group that waits for a reservation goes on: granted, or refused. -/
def endReserve (s : State) (r : RsvWait) (granted : Bool) : State :=
  let s := { s with rsvWaits := s.rsvWaits.filter (·.id != r.id) }
  match r.warp.bind (findWarp s) with
  | none => s
  | some w => match w.groups.find? (·.wait == .grant r.id) with
    | none => s
    | some g =>
      let w1 := (w.setZ (activeSlices w g) (!granted)).setGroup { g.next with wait := .none }
      setWarp s (if granted then setSlots w1 r.desc (heldSlots w1 r.desc + r.n) else w1)

/-- The first waiting reservation of a queue is granted (18/R418). -/
def execRsvGrant (id : Nat) (s : State) : Host.Outcome State Fault Refusal :=
  event s fun s => match s.rsvWaits.find? (·.id == id) with
    | none => s
    | some r =>
      let s := if isHbm r.desc then queueEnter s r.desc else s
      let first := (s.rsvWaits.find? (·.desc == r.desc)).map (·.id)
      if isHbm r.desc && first == some id && canReserve s r.desc r.n then
        let s1 := reserveSlots s r.desc r.n
        match r.peer with
        | some p => sendPeer { s1 with rsvWaits := s1.rsvWaits.filter (·.id != id) } p.1 2 (.peerResponse p.1 p.2 true [])
        | none => endReserve s1 r true
      else s

/-- `enq` (14/R325). -/
def execEnq (f : Fields) (s : State) : Host.Outcome State Fault Refusal :=
  execute s f fun s x => do
    let ack := bit f.sub 0
    let flag := tiedFlag x.g f
    tieCheck x.w flag
    let q ← queueOf s x f
    let desc := q.1
    if heldSlots x.w desc = 0 then .ok (retire s (x.w.setZ x.slices true) x.g)
    else
      match (if isHbm desc then queueCause s desc else none) with
      | some k => .error (.fault (queueFault k q.2))
      | none => do
        let r ← releaseBefore s x (some .system)
        let id := newId r.1
        let msg := wordsToBytes ((List.range 8).map fun i => x.s (f.d.toNat + i))
        let w := setSlots (x.w.setZ x.slices false) desc (heldSlots x.w desc - 1)
        let p : EnqPkt := { id := id.1, desc, va := q.2, ctx := some x.w.ctx, msg, warp := w.id, block := w.block, flag, ack }
        let keep := isHbm desc || ack
        let s1 := if keep then { id.2 with packets := id.2.packets ++ [p] } else id.2
        let s2 := if isHbm desc then s1
          else sendPeer s1 (peerIndex desc) 2 (.peerEnqueue (peerIndex desc) id.1 (desc % 2 ^ 40) ack msg)
        .ok (retire s2 (w.raise flag) { x.g with wait := if ack ∧ flag = none then .packet id.1 else x.g.wait })

/-- An enqueue is complete for its warp. -/
def endPacket (s : State) (p : EnqPkt) : State :=
  let s := { s with packets := s.packets.filter (·.id != p.id) }
  if !p.ack then s
  else match findWarp s p.warp with
    | none => s
    | some w => setWarp s (endWait (w.lower p.flag) (· == .packet p.id))

/-- A packet reaches the home: those of one warp to one queue in issue order (14/R327). -/
def execEnqDelivery (id : Nat) (s : State) : Host.Outcome State Fault Refusal :=
  event s fun s => match s.packets.find? (·.id == id) with
    | none => s
    | some p =>
      let first := (s.packets.find? fun x => x.warp == p.warp && x.desc == p.desc).map (·.id)
      if isHbm p.desc && first == some id then endPacket (deliverMessage s p.ctx p.desc p.msg) p else s

/-- A dequeued message in hand: sD to s(D+7) in the group's active slices, c0.Z = 0, an acquire at system scope. Tied, they hold
free values until the answer. -/
def landMessage (s : State) (x : Exe) (f : Fields) (flag : Option Nat) (words : Option (List W64)) (desc va : Nat) : State :=
  let d := f.d.toNat
  let vals := fun (ws : List W64) => x.slices.flatMap fun j => ws.mapIdx fun i v => (d + i, j, v)
  match flag, words with
  | none, some ws =>
    let w := (vals ws).foldl (fun (w : Warp) v => w.writeS v.2.1 v.1 v.2.2) (x.w.setZ x.slices false)
    retire (acquireAt s (whoOf s w) .home) w x.g
  | _, _ =>
    let id := newId s
    let m := markRegs id.2 x.w true (x.slices.flatMap fun j => (List.range 8).map fun i => (d + i, j))
    let c := x.slices.foldl (fun (a : State × Warp × List (Nat × Cond × Cond)) j =>
      let n := freshCond a.1
      let old := (x.w.slice j).readC 0
      (n.2, a.2.1.writeC j 0 n.1, a.2.2 ++ [(j, n.1, { old with z := false })])) (m.1, m.2.1, [])
    let o : Outstanding := {
      id := id.1, warp := x.w.id, flag, scalar := true, smarks := sList m.2.2, conds := c.2.2, acquire := some .system
      swrites := match words with | some ws => vals ws | none => []
      deq := if words.isSome then none else some (desc, va, d) }
    retire { c.1 with outs := c.1.outs ++ [o] } (c.2.1.raise flag) x.g

/-- The meaning of `deq` and `deq.try` (14/R326). -/
def take (try_ : Bool) (f : Fields) (s : State) (x : Exe) : Except Stop State := do
  let flag := tiedFlag x.g f
  tieCheck x.w flag
  let c ← ctxOf s x.w
  let q ← queueOf s x f
  if !isHbm q.1 then .error (.fault (queueFault 2 q.2))
  else if !try_ && flag.isSome then .ok (landMessage s x f flag none q.1 q.2)
  else
    match dequeue s c q.1 q.2 with
    | .fault s1 fl => .ok (takeFault s1 x.w x.g fl)
    | .empty => if try_ then .ok (retire s (x.w.setZ x.slices true) x.g) else .error (.wait .retry)
    | .got s1 words => .ok (landMessage s1 x f flag (some words) q.1 q.2)

def execDeq (f : Fields) (s : State) : Host.Outcome State Fault Refusal :=
  execute s f fun s x => take false f s x

def execDeqTry (f : Fields) (s : State) : Host.Outcome State Fault Refusal :=
  execute s f fun s x => take true f s x

end Sys2Proof.Machine
end

