-- ==== Sys2Proof/Machine/RouterWork.lean ====
section
/-! DEFINITION. The stage router (14/R330-R347, R463): windows and set tables. -/

namespace Sys2Proof.Machine

/-! ### Windows (14/R339) -/

/-- Count a verdict in a stage's window, and close the window when it is full. -/
def countVerdict (t : StageSet) (i : Nat) (passed : Bool) (clk : Nat) : StageSet :=
  let g := t.stage i
  let g := { g with wn := g.wn + 1, wpass := g.wpass + (if passed then 1 else 0), wtotal := g.wtotal + clk }
  let N := t.nwin + 1
  t.setStage i (if g.wn < N then g else
    { g with wn := 0, wpass := 0, wtotal := 0
             p := (g.p + min (65536 * g.wpass / N) 65535) / 2
             c := (g.c + g.wtotal / N) / 2 })

/-! ### The set table (14/R332, R463) -/

/-- The rings that a table names: offset of each entry; the drop ring only with DROPQ. -/
def tableRings (b : List Byte) : List Nat :=
  let h := word64 b 0
  [16] ++ (if bit h 9 then [32] else []) ++ [48] ++ (List.range (bits h 3 0)).map fun i => 64 + 16 * i

/-- The table breaks R332, or a BASE is not a multiple of 4,096. -/
def tableBad (b : List Byte) : Bool :=
  let h := word64 b 0
  let n := bits h 3 0
  let wb := fun (o : Nat) => word64 b (o + 8)
  let effs := ((List.range n).filter fun i => bit (wb (64 + 16 * i)) 4).map fun i => bits (wb (64 + 16 * i)) 7 5
  bits h 63 32 != 0 || bits h 31 16 < 63 || bits h 15 10 != 0 || bits h 7 4 != 0 || n == 0 || 8 < n || word64 b 8 != 0
    || (tableRings b).any (fun o => (word64 b o).toNat % 4096 != 0 || 10 < bits (wb o) 3 0)
    || [16, 48].any (fun o => bits (wb o) 63 4 != 0)
    || (if bit h 9 then bits (wb 32) 63 4 != 0 else word64 b 32 != 0 || wb 32 != 0)
    || (List.range n).any (fun i => bits (wb (64 + 16 * i)) 63 32 != 0 || bits (wb (64 + 16 * i)) 15 8 != 0)
    || (List.range (8 - n)).any (fun i => word64 b (64 + 16 * (n + i)) != 0 || wb (64 + 16 * (n + i)) != 0)
    || effs.eraseDups.length != effs.length

/-- Capacity of a ring of the table. -/
def tableCap (b : List Byte) (o : Nat) : Nat := 2 ^ (6 + bits (word64 b (o + 8)) 3 0)

def needRing : Need := { perm := 3, acc := 7, writes := true, peer := false }

/-- The checks on every byte of every ring, in the order of the table. -/
def ringFault (s : State) (c : Ctx) (b : List Byte) : Option Flt :=
  (tableRings b).findSome? fun o => match checkRange s c needRing (word64 b o).toNat (64 * tableCap b o) with
    | .error f => some f
    | .ok _ => none

/-- The ring with the translations that the router keeps. -/
def loadRing (s : State) (c : Ctx) (b : List Byte) (o : Nat) : Ring :=
  { cap := tableCap b o
    pages := (List.range (tableCap b o / 64)).map fun i =>
      match lookup s c ((word64 b o).toNat + 4096 * i) 7 with
      | .ok x => x.pa
      | .error _ => 0 }

/-- The stage of a table entry. -/
def loadStage (b : List Byte) (i : Nat) : Stage :=
  let w := word64 b (64 + 16 * i + 8)
  { eff := bit w 4, eord := bits w 7 5, c := if bits w 31 16 = 0 then 1 else bits w 31 16 }

/-- Queues that the sets of a die own: one for each stage, and a sink, a drop and a fault queue. -/
def queuesTaken (s : State) (die : Nat) : Nat := ((s.sets.filter fun t => t.die == die && !t.saved).map fun t => t.count + 3).foldl (· + ·) 0

/-- A set of a table taken on a die. -/
def newSet (s : State) (c : Ctx) (b : List Byte) (die num : Nat) : StageSet :=
  let h := word64 b 0
  let n := bits h 3 0
  { die, num, ctx := c.slot, nwin := bits h 31 16, dropq := bit h 9, ord := bit h 8
    stages := (List.range n).map (loadStage b), rings := (List.range n).map fun i => loadRing s c b (64 + 16 * i)
    sink := loadRing s c b 16, drop := if bit h 9 then loadRing s c b 32 else {}, fault := loadRing s c b 48
    lfsr := lfsrSeed c.routeseed num }

/-- CLOSED, with no record in a stage queue, the holding store or the reorder window. -/
def StageSet.drained (t : StageSet) : Bool :=
  t.st == .closed && t.rings.all (·.used == []) && t.holding == [] && t.reorder == []

end Sys2Proof.Machine
end

