-- ==== Sys2Proof/Machine/Control.lean ====
section
/-! DEFINITION. Control flow (11/R248-R255, 06/R117-R121) and the traps that instructions raise. -/

namespace Sys2Proof.Machine

/-- The lowest slice of a group with an active lane (11/R249). -/
def electActive (w : Warp) (g : Group) : Nat := (activeSlices w g).headD 0

/-- The running group moves to a target. -/
def moveTo (s : State) (w : Warp) (g : Group) (t : Nat) : State := setWarp s (w.setGroup (g.goto t))

/-- A relative target: none names no code address, and the branch itself traps (08/R167). -/
def relative (g : Group) (d : Int) : Except Stop Nat :=
  match slotPlus g.pc d with
  | some t => .ok t
  | none => .error (.trap 3 (codeAddr g.pc).toNat 0)

/-- Slices removed from every entry of the parting stack; empty entries are popped (06/R120). -/
def dropFromStack (w : Warp) (gone : BitVec 8) : Warp :=
  let stack := (w.stack.map fun e => { e with members := e.members &&& ~~~ gone, arrived := e.arrived &&& ~~~ gone }).filter
    (·.members != 0)
  { w with stack }

/-- Merge the members of an entry, which have all arrived: FMT returns from the entry unless kept, the entry goes, and the
members continue at the next slot as one group (06/R120). -/
def mergeEntry (w : Warp) (e : PartEntry) : Warp :=
  let w := if e.keep then w else (slicesOf e.members).foldl
    (fun w j => w.setSlice j { w.slice j with fmt := e.fmts.getD j 0 }) w
  let entry := ((w.groups.find? fun g => g.slices &&& e.members != 0).map (·.entry)).getD .resume
  let g : Group := { slices := e.members, pc := e.join, entry }
  { w with
    stack := w.stack.erase e
    groups := g.next :: w.groups.filter fun x => x.slices &&& e.members == 0
    runs := e.members }

/-- Every entry whose members have all arrived merges them, the top first: an `exit` can complete one beneath (06/R120). -/
def mergeReady : Nat → Warp → Warp
  | 0, w => w
  | n + 1, w =>
    match w.stack.find? fun e => e.arrived == e.members with
    | none => w
    | some e => mergeReady n (mergeEntry w e)

def execNop (f : Fields) (s : State) : Host.Outcome State Fault Refusal :=
  match s.cur with
  | .bank id =>
    -- the all-zero word in a bank microprogram does nothing (15/R365)
    event s fun s => { s with
      insts := updWhere (·.id == id) (fun i => { i with
        pc := i.pc + 1, entry := if i.pc % 5 = 4 then .fall else i.entry }) s.insts
      last := .retired }
  | .access id =>
    event s fun s => { s with
      warps := updWhere (·.id == id) (fun w => { w with acc := { w.acc with
        pc := w.acc.pc + 1, entry := if w.acc.pc % 5 = 4 then .fall else w.acc.entry } }) s.warps
      last := .retired }
  | .walker id =>
    event s fun s => { s with
      walkers := updWhere (·.id == id) (fun w => { w with
        pc := w.pc + 1, entry := if w.pc % 5 = 4 then .fall else w.entry }) s.walkers
      last := .retired }
  | _ => execute s f fun s x => .ok (retire s x.w x.g)

def execBra (f : Fields) (s : State) : Host.Outcome State Fault Refusal :=
  execute s f fun s x => do
    let t ← relative x.g f.imm.toInt
    .ok (moveTo s x.w x.g t)

def execCall (f : Fields) (s : State) : Host.Outcome State Fault Refusal :=
  execute s f fun s x => do
    let t ← relative x.g f.imm.toInt
    let w := x.w.setS (activeSlices x.w x.g) f.d.toNat (codeAddr (x.g.pc + 1))
    .ok (moveTo s w x.g t)

def execRet (f : Fields) (s : State) : Host.Outcome State Fault Refusal :=
  execute s f fun s x =>
    match slotIndex (x.src.readS (electActive x.w x.g) f.a.toNat) with
    | some t => .ok (moveTo s x.w x.g t)
    | none => .error (.trap 3 (codeAddr x.g.pc).toNat 0)

def execJmpi (f : Fields) (s : State) : Host.Outcome State Fault Refusal :=
  execute s f fun s x =>
    match slotIndex (x.src.readS (electActive x.w x.g) f.a.toNat) with
    | some n => match slotPlus n f.imm.toInt with
      | some t => .ok (moveTo s x.w x.g t)
      | none => .error (.trap 3 (codeAddr x.g.pc).toNat 0)
    | none => .error (.trap 3 (codeAddr x.g.pc).toNat 0)

/-- Slices as a set. -/
def sliceSet (js : List Nat) : BitVec 8 := js.foldl (fun (a : BitVec 8) j => a ||| BitVec.ofNat 8 (1 <<< j)) 0

/-- A conditional branch (11/R251): `take` tells for each slice of the group with an active lane. The group goes on whole, or
parts and pushes an entry. -/
def branch (s : State) (x : Exe) (f : Fields) (take : Nat → Bool) : Except Stop State :=
  let n := x.g.pc
  let off := sextNat 16 (bits f.imm 15 0)
  let joff := sextNat 16 (bits f.imm 31 16)
  let js := activeSlices x.w x.g
  let T := sliceSet (js.filter take)
  let F := x.g.slices &&& (~~~T)
  if js.all take = true then do
    let t ← relative x.g off
    .ok (moveTo s x.w x.g t)
  else if T = 0 ∨ off = 1 then .ok (retire s x.w x.g)
  else if 16 ≤ x.w.stack.length then .error (.trap 4 0 0)
  else do
    let t ← relative x.g off
    let join ← relative x.g joff
    let fmts := (List.range 8).map fun j => if bit x.g.slices j then (x.w.slice j).fmt else 0
    let e : PartEntry := { members := x.g.slices, arrived := 0, join, fmts }
    let gT : Group := { x.g.goto t with slices := T }
    let gF : Group := { slices := F, pc := n + 1, entry := .resume }
    let groups := gT :: gF :: x.w.groups.filter (·.slices != x.g.slices)
    .ok (setWarp s { x.w with stack := e :: x.w.stack, groups, runs := if lowestBit 8 0 T.toNat < lowestBit 8 0 F.toNat then T else F })

def execBrc (f : Fields) (s : State) : Host.Outcome State Fault Refusal :=
  execute s f fun s x => branch s x f fun j => ((x.src.slice j).readC f.a.toNat).holds f.sub.toNat

def execBrz (f : Fields) (s : State) : Host.Outcome State Fault Refusal :=
  execute s f fun s x => branch s x f fun j => bits (x.src.readK f.a.toNat) (4 * j + 3) (4 * j) == 0

def execBrnz (f : Fields) (s : State) : Host.Outcome State Fault Refusal :=
  execute s f fun s x => branch s x f fun j => bits (x.src.readK f.a.toNat) (4 * j + 3) (4 * j) != 0

/-- `regang` (06/R120): SUB[0] is `.keep`. -/
def execRegang (f : Fields) (s : State) : Host.Outcome State Fault Refusal :=
  execute s f fun s x =>
    match x.w.stack with
    | [] => .ok (retire s x.w x.g)
    | e :: rest =>
      if x.g.pc ≠ e.join then .ok (retire s x.w x.g)
      else
        let e := { e with arrived := e.arrived ||| x.g.slices, keep := f.sub == 1 }
        let w := { x.w with stack := e :: rest }.setGroup { x.g with wait := .arrived, frag := none }
        .ok (setWarp s (if e.arrived = e.members then mergeEntry w e else w))

/-- `exit` (11/R253): the group's lanes become inactive, its slices leave the parting stack, and barriers lose them. -/
def execExit (f : Fields) (s : State) : Host.Outcome State Fault Refusal :=
  execute s f fun s x =>
    let w := (slicesOf x.g.slices).foldl (fun w j => w.setSlice j { w.slice j with active := 0 }) x.w
    let w := { w with groups := w.groups.filter (·.slices != x.g.slices) }
    let w := dropFromStack w x.g.slices
    let w := mergeReady 17 w
    -- a handler that exits leaves handler mode's hold on the other groups
    let w := if w.hm && w.handler == x.g.slices then { w with handler := 0 } else w
    let bars := s.bars.map fun b =>
      if b.owner = .warp w.id then { b with arrived := b.arrived.filter fun j => !bit x.g.slices j }
      else { b with part := b.part.map fun p => if p.1 = w.id then (p.1, p.2 &&& ~~~ x.g.slices) else p }
    .ok (settleBars (setWarp { s with bars } w))

/-- `yield` (11/R254): the quadrant may now move the warp, or the fragment, to its pending set. -/
def execYield (f : Fields) (s : State) : Host.Outcome State Fault Refusal :=
  execute s f fun s x => match x.g.frag with
    | some p => .ok (retire s x.w { x.g with frag := some { p with yields := true } })
    | none => .ok (retire s { x.w with place := { x.w.place with yields := true } } x.g)

def execTrap (f : Fields) (s : State) : Host.Outcome State Fault Refusal :=
  execute s f fun _ _ => .error (.trap 10 0 (bits f.imm 15 0))

def execBrk (f : Fields) (s : State) : Host.Outcome State Fault Refusal :=
  execute s f fun _ _ => .error (.trap 11 0 (bits f.imm 15 0))

/-- `waitf` (11/R254). The acquire of an engine's completion is made when the flag falls (07/R148). -/
def execWaitf (f : Fields) (s : State) : Host.Outcome State Fault Refusal :=
  execute s f fun s x =>
    let m : BitVec 12 := f.imm.extractLsb' 0 12
    if flagsClear x.w m then .ok (retire s x.w x.g) else .error (.wait (.flags m))

end Sys2Proof.Machine
end

