-- ==== Sys2Proof/Machine/MatrixWork.lean ====
section
/-! DEFINITION. What the matrix arrays compute: operands (13/R287), block records and side lists (R290, R295), the sums of
05/R97-R98, and the drain chain (13/R301-R304). -/

namespace Sys2Proof.Machine

/-! ### The operation -/

/-- A quad instruction's number and fields. -/
def quadFields : Instr → Option (Nat × Fields)
  | .mma f => some (0, f)
  | .zclr f => some (1, f)
  | .drain f => some (2, f)
  | .atbl f => some (3, f)
  | .batonJoin f => some (4, f)
  | .batonTake f => some (5, f)
  | .batonPass f => some (6, f)
  | _ => none

def JointOp.kind (o : JointOp) : Nat := ((quadFields o.instr).map (·.1)).getD 7
def JointOp.f (o : JointOp) : Fields := ((quadFields o.instr).map (·.2)).getD {}
def JointOp.isMma (o : JointOp) : Bool := o.kind == 0
def JointOp.isDrain (o : JointOp) : Bool := o.kind == 2

/-- The z-tile it names. -/
def JointOp.tile (o : JointOp) : Option Nat := if o.kind ≤ 2 then some o.f.d.toNat else none

/-- An s-register of quad warp 0's elected slice. -/
def JointOp.sreg (o : JointOp) (n : Nat) : W64 := if n = 0 then 0 else tabGet 0 o.s n

def JointOp.af (o : JointOp) : Nat := bits o.fmt 7 0
def JointOp.bf (o : JointOp) : Nat := bits o.fmt 15 8
def JointOp.k (o : JointOp) : Nat := opK o.af o.bf
def JointOp.x (o : JointOp) : Nat := (o.sreg o.f.b.toNat).toNat

def scaledId (id : Nat) : Bool := 15 ≤ id && id ≤ 27

/-- Registers of an A value: K·w ÷ 64 (13/R287). -/
def aRegs (af bf : Nat) : Nat := opK af bf * fmtBits af / 64

/-- Both operands are of class I (05/R96). -/
def JointOp.classI (o : JointOp) : Bool := fmtInt o.af && fmtInt o.bf

def zKey (core d : Nat) : Nat := core * 4 + d

def cell (t : Tile) (i c : Nat) : Nat := bits t (32 * (64 * i + c) + 31) (32 * (64 * i + c))

def setCell32 (t : Tile) (i c v : Nat) : Tile := putBits t (32 * (64 * i + c) + 31) (32 * (64 * i + c)) v

/-! ### Operand codes (13/R287) -/

/-- Element k of row i of A. -/
def aCode (o : JointOp) (i k : Nat) : Nat :=
  let w := fmtBits o.af
  let half := o.k / 2
  let L := i % 16 + 16 * (k / half)
  let regs := o.aval.getD (i / 16) []
  let n := (regs.zipIdx).foldl (fun a r => a + (lane r.1 L).toNat * 2 ^ (32 * r.2)) 0
  n / 2 ^ (w * (k % half)) % 2 ^ w

/-- Element (k, c) of a core's half of B. -/
def bCode (o : JointOp) (b : Block) (follower : Bool) (k c : Nat) : Nat :=
  let w := fmtBits o.bf
  let bit0 := (o.x + k * 8 * w) * 8 + w * c
  ofBytes ((List.range ((bit0 % 8 + w + 7) / 8)).map fun i => spadByte b follower (bit0 / 8 + i)) / 2 ^ (bit0 % 8) % 2 ^ w

/-- A byte of (k, c) has been written otherwise than before, at block scope, an `opfence` that covers the operation (13/R292). -/
def bBad (o : JointOp) (b : Block) (follower : Bool) (k c : Nat) : Bool :=
  match o.covered with
  | none => true
  | some t =>
    let w := fmtBits o.bf
    let bit0 := (o.x + k * 8 * w) * 8 + w * c
    (List.range ((bit0 % 8 + w + 7) / 8)).any fun i =>
      let p := tabGet (0, 0) b.spadStamp (2 * (bit0 / 8 + i) + if follower then 1 else 0)
      p.1 != 0 && (o.spadAt < p.1 || tabGet 0 t p.2 < p.1)

/-! ### Block records (13/R290, R295, R462) -/

/-- Block number of element k of row i of A, and of element k of output column j of B. -/
def aBlock (o : JointOp) (i k : Nat) : Nat :=
  let c := o.f.c.toNat
  (bits (o.sreg c) 31 0 + i * bits (o.sreg (c + 1)) 31 0 + k / max 1 (fmtBlock o.af)) % 2 ^ 32

def bBlock (o : JointOp) (j k : Nat) : Nat :=
  let c := o.f.c.toNat
  (bits (o.sreg c) 63 32 + j * bits (o.sreg (c + 1)) 63 32 + k / max 1 (fmtBlock o.bf)) % 2 ^ 32

def aTid (o : JointOp) : Nat := bits o.f.imm 15 0
def bTid (o : JointOp) : Nat := bits o.f.imm 31 16

/-- The records that an operation uses on a core for k in a range. -/
def keysIn (o : JointOp) (core lo hi : Nat) : List (Nat × Nat) :=
  let ks := (List.range (hi - lo)).map (lo + ·)
  ((if scaledId o.af then ((List.range 64).flatMap fun i => ks.map fun k => (aTid o, aBlock o i k)) else [])
    ++ (if scaledId o.bf then ((List.range 64).flatMap fun c => ks.map fun k => (bTid o, bBlock o (c + 64 * (core % 2)) k))
        else [])).eraseDups

def JointOp.cores (o : JointOp) : List Nat := [2 * o.pair, 2 * o.pair + 1]

/-- It runs in two passes. -/
def JointOp.twoPass (o : JointOp) : Bool := o.isMma && o.cores.any fun c => 512 < (keysIn o c 0 o.k).length

/-- The k range of the present pass, or of the next to start. -/
def JointOp.span (o : JointOp) (second : Bool) : Nat × Nat :=
  if o.twoPass then (if second then (o.k / 2, o.k) else (0, o.k / 2)) else (0, o.k)

/-- Keys of a pass: core, tensor, block. -/
def passKeys (o : JointOp) (second : Bool) : List (Nat × Nat × Nat) :=
  if o.isMma then o.cores.flatMap fun c => (keysIn o c (o.span second).1 (o.span second).2).map fun k => (c, k.1, k.2) else []

/-- The record that the operation holds for a key. -/
def recOf (o : JointOp) (core tid blk : Nat) : Option W32 :=
  ((o.recs ++ o.recs1).find? fun r => r.1 == core && r.2.1 == tid && r.2.2.1 == blk).map (·.2.2.2)

/-- The records of a pass that its caches hold are in use by it. -/
def bindRecs (s : State) (o : JointOp) (second : Bool) : JointOp :=
  { o with recs := (passKeys o second).filterMap fun k =>
      match o.recs.find? fun r => r.1 == k.1 && r.2.1 == k.2.1 && r.2.2.1 == k.2.2 with
      | some r => some r
      | none => (scaleLookup s k.1 k.2.1 k.2.2).map fun v => (k.1, k.2.1, k.2.2, v) }

/-- Records of a pass that are missing. -/
def missingKeys (o : JointOp) (second : Bool) : List (Nat × Nat × Nat) :=
  (passKeys o second).filter fun k => (recOf o k.1 k.2.1 k.2.2).isNone

/-! ### Side lists (05/R93) -/

/-- Escapes before position k in its block. -/
def escapesBefore (code : Nat → Nat) (L k : Nat) : Nat :=
  ((List.range (k % L)).filter fun i => code (k / L * L + i) % 16 == 8).length

/-- VA of the side-list entry of an escaped element. -/
def escapeVa (r : BufRec) (record : W32) (m : Nat) : Nat := sumVa ((r.sb : Int) + 2 * ((bits record 31 8 + m : Nat) : Int))

/-- The side-list addresses that a pass reads on a core. -/
def sideVas (o : JointOp) (b : Block) (recs : List (List W64)) (second : Bool) : List Nat :=
  let ks := (List.range ((o.span second).2 - (o.span second).1)).map ((o.span second).1 + ·)
  let one := fun (id tid : Nat) (code : Nat → Nat) (core blk k : Nat) =>
    if fmtElem id = 0x24 ∧ code k % 16 = 8 then
      match tensorRecord recs tid, recOf o core tid blk with
      | some r, some v => [escapeVa r v (escapesBefore code (fmtBlock id) k)]
      | _, _ => []
    else []
  if !o.isMma then [] else
  (o.cores.flatMap fun core =>
    (List.range 64).flatMap (fun i => ks.flatMap fun k => one o.af (aTid o) (aCode o i) core (aBlock o i k) k)
    ++ (List.range 64).flatMap (fun c => ks.flatMap fun k =>
        one o.bf (bTid o) (fun k => bCode o b (core % 2 == 1) k c) core (bBlock o (c + 64 * (core % 2)) k) k)).eraseDups

/-- The value of a side-list entry that the operation has read; none where the read is missing. -/
def sideVal (o : JointOp) (va : Nat) : Val :=
  let byte := fun (a : Nat) => ((o.side.find? (·.1 == a)).map (·.2)).getD 0
  bf16Fmt.value ((byte va).toNat + 256 * (byte (va + 1)).toNat)

/-! ### Sums (05/R97-R98) -/

/-- The value of an element of an operand. -/
def operandVal (o : JointOp) (recs : List (List W64)) (core id tid blk k : Nat) (code : Nat → Nat) : Val :=
  if scaledId id then
    let record := (recOf o core tid blk).getD 0
    let esc := match tensorRecord recs tid with
      | some r => sideVal o (escapeVa r record (escapesBefore code (fmtBlock id) k))
      | none => .nan
    scaledValue id (code k) record esc true
  else scaledValue id (code k) 0 .nan true

/-- The class F sum of exact terms, the last being the z value. -/
def sumF (ts : List Val) : Nat :=
  let posInf := ts.any fun t => t == .inf false
  let negInf := ts.any fun t => t == .inf true
  if ts.any (·.isNan) || (posInf && negInf) then 0x7FC00000
  else if posInf then f32Fmt.infCode false
  else if negInf then f32Fmt.infCode true
  else if ts.all (·.isZero) then (if ts.all (·.neg) then f32Fmt.sign true else 0)
  else
    let mags := ts.filterMap fun t => match t with | .fin _ m => if m = 0 then none else some (log2Rat m) | _ => none
    let emax := mags.foldl max (mags.headD 0)
    let q := pow2 (emax - 49)
    let total := ts.foldl (fun (a : Rat) t => match t with
      | .fin neg m => let r := ((m / q).floor : Rat) * q; if neg then a - r else a + r
      | _ => a) 0
    f32Fmt.round 0 false 0 (ofRat total)

/-- The class I sum. -/
def sumI (sat : Bool) (z : Nat) (ps : List Int) : Nat :=
  let t := ps.foldl (· + ·) (sextNat 32 z)
  (toBits 32 (if sat then clampInt (intMin 32 true) (intMax 32 true) t else t)).toNat

/-- Output element (i, j) of an `mma`. -/
def mmaCell (o : JointOp) (b : Block) (recs : List (List W64)) (core i c z : Nat) : Nat :=
  let follower := core % 2 == 1
  let j := c + 64 * (core % 2)
  let ks := List.range o.k
  let z := if bit o.f.sub 0 then 0 else z
  if o.classI then
    let n := fun (id code : Nat) => match intFmt id with | some (w, sg) => intValue w sg code | none => 0
    sumI (bit o.f.md 2) z (ks.map fun k => n o.af (aCode o i k) * n o.bf (bCode o b follower k c))
  else
    sumF ((ks.map fun k =>
      mulVal (operandVal o recs core o.af (aTid o) (aBlock o i k) k (aCode o i))
        (operandVal o recs core o.bf (bTid o) (bBlock o j k) k (fun k => bCode o b follower k c))) ++ [f32Fmt.value z])

/-- A cell that reads an undefined element is undefined. -/
def mmaBad (o : JointOp) (b : Block) (core i c : Nat) : Bool :=
  (let m := o.abad.getD (i / 16) 0; bit m (i % 16) || bit m (i % 16 + 16)) || (List.range o.k).any fun k => bBad o b (core % 2 == 1) k c

/-- The tile of one core after an `mma`. -/
def mmaTile (s : State) (o : JointOp) (b : Block) (recs : List (List W64)) (core : Nat) : State :=
  let old := tabGet 0 s.z (zKey core o.f.d.toNat)
  let r := (List.range 64).foldl (fun (a : State × Tile) i => (List.range 64).foldl (fun (a : State × Tile) c =>
    if mmaBad o b core i c then
      let n := fresh a.1
      (n.2, setCell32 a.2 i c n.1)
    else (a.1, setCell32 a.2 i c (mmaCell o b recs core i c (cell old i c)))) a) (s, old)
  { r.1 with z := tabSet 0 r.1.z (zKey core o.f.d.toNat) r.2 }

/-! ### The drain chain (13/R301-R304) -/

/-- OF and the other fields of IMM32. -/
def drainOf (f : Fields) : Nat := bits f.imm 7 0
def drainRnd (f : Fields) : Nat := bits f.imm 10 8
def drainSat (f : Fields) : Bool := bit f.imm 11
def drainZi (f : Fields) : Bool := bit f.imm 12
def drainSlot (f : Fields) : Nat := bits f.imm 14 13
def drainDest (f : Fields) : Nat := bits f.sub 1 0
def drainHi (f : Fields) : Bool := bit f.sub 2
def drainAos (f : Fields) : Bool := bit f.sub 3
def drainBias (f : Fields) : Bool := bit f.md 3
def drainAct (f : Fields) : Bool := bit f.md 2
def drainRq (f : Fields) : Bool := bit f.md 1

/-- Width in memory of an output element (05/R84). -/
def drainWidth (f : Fields) : Nat :=
  let of := drainOf f
  if of = 0x20 ∨ of = 0x21 then 32 else fmtBits of

/-- Bytes of a row. -/
def drainRow (f : Fields) : Nat := 64 * drainWidth f / 8

/-- Destination and row stride of a `.sp` or `.mem` drain. -/
def drainDst (o : JointOp) : Nat := (o.sreg o.f.a.toNat).toNat
def drainStride (o : JointOp) : Nat := bits (o.sreg (o.f.a.toNat + 1)) 31 0
def drainBiasAt (o : JointOp) : Nat := (o.sreg o.f.b.toNat).toNat

/-- Activation (13/R301). -/
def activate (table : List Byte) (x : Val) : Val :=
  let at_ := fun (o : Nat) => f32Fmt.value (ofBytes ((table.drop o).take 4))
  match at_ 0, at_ 4 with
  | .fin a m, .fin b n =>
    let lo := Val.rat (.fin a m)
    let hi := Val.rat (.fin b n)
    if hi ≤ lo then .nan
    else
      let idx : Option Nat := match x with
        | .nan => none
        | .inf neg => some (if neg then 0 else 31)
        | .fin neg m => some (clampInt 0 31 ((Val.rat (.fin neg m) - lo) * 32 / (hi - lo)).floor).toNat
      match idx with
      | none => .nan
      | some i => f32Fmt.value (f32Fmt.round 0 false 0 (addVal 0 (mulVal (at_ (8 + 8 * i)) x) (at_ (12 + 8 * i))))
  | _, _ => .nan

/-- One cell through the chain: the code to place, and the LFSR. A NaN that no stage has made new keeps the sign of its cell
(05/R88). -/
def drainCell (o : JointOp) (b : Block) (table : List Byte) (l : W32) (j z : Nat) : Nat × W32 :=
  let f := o.f
  let stage := drainBias f || drainAct f || drainRq f
  if drainZi f && !stage && drainOf f == 0x20 then (z, l)
  else
    let round := fun (v : Val) => f32Fmt.value (f32Fmt.round 0 false 0 v)
    let t : Val := if drainZi f then round (ofInt (sextNat 32 z)) else f32Fmt.value z
    let bias := match spadPlace b b.core ((drainBiasAt o + 4 * j : Nat) : Int) 4 with
      | some p => f32Fmt.value (ofBytes (spadBytes b p 4))
      | none => .nan
    let t := if drainBias f then round (addVal 0 t bias) else t
    let t := if drainAct f then activate table t else t
    let c := o.sreg f.c.toNat
    let y := if drainRq f then addVal (drainRnd f) (mulVal t (f32Fmt.value (bits c 31 0))) (f32Fmt.value (bits c 63 32)) else t
    roundElem l (drainOf f) (drainRnd f) (drainSat f) y (!drainZi f && !stage && z / 2 ^ 31 % 2 == 1)

/-- The add-on-store of one element (13/R304). -/
def aosAdd (f : Fields) (d y : Nat) : Nat :=
  if drainOf f = 0x20 then
    let t := sextNat 32 d + sextNat 32 y
    (toBits 32 (if drainSat f then clampInt (intMin 32 true) (intMax 32 true) t else t)).toNat
  else elemRound (drainOf f) (drainRnd f) (drainSat f) 0 (addVal (drainRnd f) (elemValue (drainOf f) d) (elemValue (drainOf f) y))

/-- The bytes that a drain writes: for each row, its first byte. -/
def drainRows (o : JointOp) : List Nat := (List.range 64).map fun i => drainDst o + i * drainStride o

/-- The elements of the drained half as codes, cells in ascending i, then c. Undefined cells are free. -/
def drainCodes (s : State) (o : JointOp) (b : Block) : State × List (List Nat) :=
  let core := 2 * o.pair + if drainHi o.f then 1 else 0
  let t := tabGet 0 s.z (zKey core o.f.d.toNat)
  let table := tabGet [] (tabGet {} s.pairs o.pair).atbl (drainSlot o.f)
  let r := (List.range 64).foldl (fun (a : State × W32 × List (List Nat)) i =>
    let row := (List.range 64).foldl (fun (a : State × W32 × List Nat) c =>
      let n := fresh a.1
      let z := if o.early then n.1 % 2 ^ 32 else cell t i c
      let y := drainCell o b table a.2.1 (if drainHi o.f then c + 64 else c) z
      (if o.early then n.2 else a.1, y.2, a.2.2 ++ [y.1])) (a.1, a.2.1, [])
    (row.1, row.2.1, a.2.2 ++ [row.2.2])) (s, coreLfsr s core, [])
  (if r.2.1 = coreLfsr s core then r.1 else setLfsr r.1 core r.2.1, r.2.2)

/-- The parts of a range in which VA and PA run on together: VA, PA, length. -/
def vaParts (va : Nat) (pas : List Nat) : List (Nat × Nat × Nat) :=
  (pas.zipIdx.foldl (fun (a : List (Nat × Nat × Nat)) p =>
    match a with
    | (v, q, n) :: r => if p.1 = q + n then (v, q, n + 1) :: r else (va + p.2, p.1, 1) :: a
    | [] => [(va + p.2, p.1, 1)]) []).reverse

/-- The PA of a byte of a started drain's destination. -/
def JointOp.dstPa (o : JointOp) (va : Nat) : Option Nat :=
  (o.dst.find? fun d => d.1 ≤ va && va < d.1 + d.2.2).map fun d => d.2.1 + (va - d.1)

/-- A row of codes packed into bytes (05/R84). -/
def packRow (w : Nat) (codes : List Nat) : List Byte :=
  toBytes (codes.length * w / 8) (codes.zipIdx.foldl (fun a p => a + p.1 % 2 ^ w * 2 ^ (w * p.2)) 0)

/-- The row to write over the bytes that stand there. -/
def drainBytes (f : Fields) (codes : List Nat) (old : List Byte) : List Byte :=
  if drainAos f then
    let w := drainWidth f
    let ys := codes.mapIdx fun c y => aosAdd f (ofBytes ((old.drop (c * w / 8)).take (w / 8))) y
    packRow w ys
  else packRow (drainWidth f) codes

end Sys2Proof.Machine
end

