-- ==== Sys2Proof/Machine/Matrix.lean ====
section
/-! DEFINITION. Matrix instructions (13/R280-R310): issue and formation of joint operations, FMT, `opfence`, `scpre`, the baton,
and the events of the pair. -/

namespace Sys2Proof.Machine

def pairAt (s : State) (p : Nat) : Pair := tabGet {} s.pairs p
def putPair (s : State) (p : Nat) (x : Pair) : State := { s with pairs := tabSet {} s.pairs p x }

/-! ### Where they run (13/R280-R281) -/

/-- Only in a pair-block. -/
def pairBlockOf (s : State) (w : Warp) : Except Stop Block := do
  let b ← blockOf s w
  if b.pair then .ok b else .error illegal

/-- A quad instruction: warps 0-15 of a pair-block, not parted, of a complete quad. -/
def quadBlock (s : State) (x : Exe) : Except Stop Block := do
  let b ← pairBlockOf s x.w
  let nwarp := ((findLaunch s b.launch).map (·.nwarp)).getD 0
  if 16 ≤ x.w.idx ∨ x.w.parted = true ∨ x.g.frag.isSome = true ∨ nwarp < x.w.idx / 4 * 4 + 4 then .error illegal else .ok b

/-- A member of the ring that does not hold the baton waits (13/R310). -/
def holdsBaton (s : State) (w : Warp) : Except Stop Unit :=
  let ring := (pairAt s (pairOf w.core)).ring
  if ring.contains (w.block, w.idx / 4) && ring.head? != some (w.block, w.idx / 4) then .error (.wait .stall) else .ok ()

/-! ### Checks at formation (13/R283) -/

/-- Bytes of the operand B region. -/
def bRegion (o : JointOp) : Nat := 8 * o.k * fmtBits o.bf

def mmaCause (s : State) (b : Block) (o : JointOp) (ws : List Warp) : Option Nat :=
  let recs := recordsOf s b.id
  let n := aRegs o.af o.bf
  if 27 < o.af ∨ 27 < o.bf ∨ (bit o.f.md 2 && !o.classI) = true then some 2
  else if o.x % 4096 ≠ 0 ∨ 0x80000 ≤ o.x ∨ b.scr < o.x + bRegion o then some 3
  else if (scaledId o.af && (tensorRecord recs (aTid o)).isNone) || (scaledId o.bf && (tensorRecord recs (bTid o)).isNone) then some 4
  else if !(pairAt s o.pair).ring.contains (o.block, o.quad) then some 5
  else if o.src = o.id ∧ ws.any (fun w => w.limit < o.f.a.toNat + n) = true then some 7
  else none

/-- A drain's checks. Its target outside the limits of 04/R74 is refused with cause 3, as 13/R283 gives, where R74 names a trap
of its own: a joint operation stands at no instruction that could take one (log 66). -/
def drainCause (s : State) (b : Block) (o : JointOp) : Option Nat :=
  let f := o.f
  let of := drainOf f
  let rows := fun (ok : Nat → Bool) => (drainRows o).all ok
  if (drainDest f == 1 && !rows fun (a : Nat) => (spadPlace b b.core (a : Int) (drainRow f)).isSome)
      || (drainBias f && (spadPlace b b.core (drainBiasAt o : Int) 512).isNone) then some 3
  else if !(pairAt s o.pair).ring.contains (o.block, o.quad) then some 5
  else if !(of ≤ 14 || of == 0x20 || of == 0x21) || 5 < drainRnd f
      || (drainDest f == 0 && !(of == 0 || of == 0x20 || of == 0x21))
      || (drainAos f && (!(of == 0 || of == 2 || of == 3 || of == 0x20) || 4 ≤ drainRnd f))
      || (drainDest f != 0 && drainStride o % 4 != 0) || (drainBias f && drainBiasAt o % 4 != 0) then some 6
  else none

/-- The cause for which an operation is refused, if any. -/
def formCause (s : State) (b : Block) (o : JointOp) (ws : List Warp) (same : Bool) : Option Nat :=
  if !same then some 1
  else match o.kind with
    | 0 => mmaCause s b o ws
    | 1 => if (pairAt s o.pair).ring.contains (o.block, o.quad) then none else some 5
    | 2 => drainCause s b o
    | 3 =>
      let a := (o.sreg o.f.a.toNat).toNat
      if a % 8 ≠ 0 ∨ (spadPlace b b.core (a : Int) 264).isNone then some 3
      else if (pairAt s o.pair).ring.contains (o.block, o.quad) then none else some 5
    | _ => none

/-- IDS naming quad warp 0 of an operation. -/
def opIds (s : State) (o : JointOp) (level : Nat) : W64 :=
  match (o.warps.head?).bind (findWarp s) with
  | some w => warpIds s w level
  | none => idsWord 0 0 (4 * o.quad) (2 * o.pair) level

/-- Word 5 of a record about an operation (17/R398). -/
def opProg (o : JointOp) : W64 := BitVec.ofNat 64 ((if o.isDrain then 5 else 6) * 2 ^ 56)

/-- A refused operation kills its block; it waits while the fault queue is full. -/
def refuseOp (s : State) (o : JointOp) (cause : Nat) : State :=
  match findCtx s ((findBlock s o.block).map (·.ctx) |>.getD 0) with
  | none => s
  | some c =>
    let stay := { s with ops := updWhere (·.id == o.id) (fun o => { o with cause := some cause }) s.ops }
    if fltFull s c then stay
    else
      let n := fresh s
      killBlock (putRecord n.2 c { kind := 14, acc := freeAcc s, va := n.1 % 2 ^ 64, entry := BitVec.ofNat 64 cause, prog5 := opProg o }
        (opIds s o 7) false false 0) o.block .fault

/-! ### Completion -/

/-- The scope of the acquire that an operation's completion is for its warps (07/R146, R148). -/
def opAcquire (o : JointOp) : Option Scope :=
  if o.isMma then some .block else if o.isDrain && drainDest o.f == 2 then some .device else none

/-- The flags fall, the warps see what the operation has done, and go on; `z` is the outcome of a baton instruction. Marked registers that no one has written
return to what they held, others are undefined. -/
def finishOp (s : State) (o : JointOp) (z : Option Bool) : State :=
  let s := (List.range 4).foldl (fun s i =>
    match findWarp s (o.warps.getD i 0) with
    | none => s
    | some w =>
      let w := endWait (w.lower (o.flags.getD i none)) (· == .joint o.block o.quad o.seq)
      let w := match z with
        | some z => w.setZ ((List.range 8).filter fun j => (w.slice j).active != 0) z
        | none => w
      let r := (o.marks.getD i []).foldl (fun (a : State × Warp) m =>
        let now := a.2.readV m.1
        if lane now m.2.1 = m.2.2.1 then (a.1, a.2.putV m.1 (setLane now m.2.1 m.2.2.2))
        else
          let n := fresh a.1
          (n.2, a.2.putV m.1 (setLane now m.2.1 (BitVec.ofNat 32 n.1)))) (s, w)
      let s := seeSpad (setWarp r.1 r.2) w.id (2 * o.warps.getD 0 0 + 1)
      match opAcquire o with
      | some sc => acquireAt s (whoOf s r.2) (levelFor s r.2 sc)
      | none => s) s
  let s := dropPermit { s with ops := s.ops.filter (·.id != o.id) } (o.pair / 48) o.permit
  trySave s o.block

/-! ### The baton (13/R309-R310) -/

/-- Every operation that earlier holders formed has completed. -/
def earlierDone (s : State) (o : JointOp) : Bool := s.ops.all fun q => q.pair != o.pair || 4 ≤ q.kind || !q.past

/-- The baton goes on to the next member: what has been formed belongs to an earlier holder. -/
def passBaton (s : State) (p : Nat) (ring : List (Nat × Nat)) : State :=
  let s1 := putPair s p { pairAt s p with ring, latch := none }
  if ring.length < 2 then s1
  else { s1 with ops := updWhere (·.pair == p) (fun o => { o with past := true }) s1.ops }

/-- A baton instruction that has been formed; a `baton.take` may stay. -/
def batonOp (s : State) (o : JointOp) : State :=
  let p := pairAt s o.pair
  let me := (o.block, o.quad)
  match o.kind with
  | 4 =>
    if 4 ≤ p.ring.length ∨ p.ring.contains me = true then finishOp s o (some true)
    else finishOp (putPair s o.pair { p with ring := p.ring ++ [me] }) o (some false)
  | 5 =>
    if !p.ring.contains me then finishOp s o (some true)
    else if p.ring.head? = some me ∧ earlierDone s o = true then finishOp (emptyLatch s o.pair) o (some false)
    else s
  | _ =>
    match p.ring with
    | h :: rest => if h = me then finishOp (passBaton s o.pair (rest ++ [h])) o (some false)
                   else finishOp s o (some true)
    | [] => finishOp s o (some true)

/-! ### Formation (13/R281-R284) -/

/-- The four warps of a quad. -/
def quadWarps (s : State) (block quad : Nat) : List Warp :=
  (List.range 4).filterMap fun i => s.warps.find? fun w => w.block == block && w.idx == 4 * quad + i

/-- Whether the `mma` takes A from the latch. -/
def fromLatch (p : Pair) (o : JointOp) : Option Latch :=
  p.latch.bind fun l =>
    if o.isMma && o.f.ru && l.block == o.block && l.quad == o.quad && l.af == o.af && l.afield == o.f.a.toNat then some l else none

/-- The A registers of a tied `mma` hold free values until its flag clears (07/R150); with `on` false they hold again what they
held, for one that turns out to read none. -/
def markA (s : State) (w : Warp) (a n : Nat) : State × Warp × List (Nat × Nat × W32 × W32) :=
  ((List.range n).flatMap fun r => (List.range 32).map fun L => (a + r, L)).foldl (fun x p =>
    let v := fresh x.1
    let old := x.2.1.readV p.1
    (v.2, x.2.1.putV p.1 (setLane old p.2 (BitVec.ofNat 32 v.1)), x.2.2 ++ [(p.1, p.2, BitVec.ofNat 32 v.1, lane old p.2)])) (s, w, [])

/-- What an operation does to the A registers of its warps once it is known whether it reads them: those of a tied `mma` that
reads them are marked, those of one that takes A from the latch are not (13/R291). -/
def settleMarks (s : State) (o : JointOp) (latched : Bool) : State × JointOp :=
  if !o.isMma then (s, o)
  else
    let r := (o.warps.zipIdx).foldl (fun (a : State × List (List (Nat × Nat × W32 × W32))) p =>
      let have_ := o.marks.getD p.2 []
      match findWarp a.1 p.1 with
      | none => (a.1, a.2 ++ [have_])
      | some w =>
        if latched then (setWarp a.1 (unmark w have_), a.2 ++ [[]])
        else if have_ = [] ∧ (o.flags.getD p.2 none).isSome = true then
          let m := markA a.1 w o.f.a.toNat (aRegs o.af o.bf)
          (setWarp m.1 m.2.1, a.2 ++ [m.2.2])
        else (a.1, a.2 ++ [have_])) (s, [])
    (r.1, { o with marks := r.2 })

/-- Lanes of any of some registers. -/
def joinLanes (l : List W32) : W32 := l.foldl (· ||| ·) 0

/-- Form the quad's next joint operation if all four warps have issued it and the pair is not being reset. -/
def formQuad (s : State) (block quad : Nat) : State :=
  let ws := quadWarps s block quad
  let qs := ws.filterMap fun w => w.quadQ.head?
  match ws.head?, qs.head?, findBlock s block with
  | some w0, some q0, some b =>
    let pair := pairOf w0.core
    if qs.length ≠ 4 ∨ (pairAt s pair).resetting = true then s
    else
      let plain := fun (q : QuadIssue) => (quadFields q.instr).map fun p => (p.1, { p.2 with cf := .none })
      let same := qs.all fun q => plain q == plain q0
      let n := newId s
      let j := (List.range 8).find? fun j => (w0.slice j).active != 0
      let slice := w0.slice (j.getD 0)
      let o : JointOp := {
        id := n.1, block, quad, pair, seq := q0.seq, instr := q0.instr, warps := ws.map (·.id), flags := qs.map (·.tied)
        pcs := qs.map (·.pc), s := slice.s, fmt := slice.fmt, stamps := qs.map (·.stamp), marks := qs.map (·.marks), src := n.1
        covered := match qs.filterMap (·.fenced) with | [] => none | t :: ts => some (ts.foldl tabMax t)
        spadAt := (qs.map (·.spadAt)).foldl min q0.spadAt }
      let regs := aRegs o.af o.bf
      let o := { o with
        aval := qs.map fun q => q.aval.take regs
        abad := qs.map fun q => joinLanes (q.abad.take regs)
        early := o.isDrain && s.ops.any fun m => m.pair == pair && m.isMma && m.tile == o.tile }
      let latch := fromLatch (pairAt s pair) o
      let o := match latch with
        | some l => { o with aval := l.aval, abad := l.abad, src := l.src }
        | none => o
      let pop := fun (w : Warp) => if (ws.map (·.id)).contains w.id then { w with quadQ := w.quadQ.drop 1 } else w
      let s1 := { n.2 with warps := n.2.warps.map pop }
      let s2 : State × JointOp :=
        if o.isMma || (o.isDrain && (drainBias o.f || drainAct o.f || drainRq o.f)) then
          match findWarp s1 w0.id with
          | some w => let r := requestPermit s1 w (.joint o.id); (setWarp r.1 r.2.1, { o with permit := r.2.2 })
          | none => (s1, o)
        else (s1, o)
      let s2 := settleMarks s2.1 s2.2 latch.isSome
      let o := bindRecs s2.1 s2.2 false
      let s3 := { s2.1 with ops := s2.1.ops ++ [o] }
      match formCause s3 b o ws same with
      | some c => refuseOp s3 o c
      | none =>
        let s4 := if o.isMma && latch.isNone then
            putPair s3 pair { pairAt s3 pair with latch := some {
              block, quad, af := o.af, afield := o.f.a.toNat, aval := o.aval, abad := o.abad, src := o.id } }
          else s3
        if 4 ≤ o.kind then batonOp s4 o else s4
  | _, _, _ => s

/-- A warp issues a quad instruction. `dests`: registers and lanes that its completion writes; `nA`: A registers of an `mma`
that reads them. Tied, they hold undefined values until its flag clears. -/
def issueQuad (s : State) (x : Exe) (b : Block) (i : Instr) (flag : Option Nat) (afield : Option Nat) (nA : Nat)
    (dests : List (Nat × Nat)) : State :=
  let quad := x.w.idx / 4
  let aval := match afield with
    | some a => (List.range 8).map fun r => x.w.readV (a + r)
    | none => []
  let abad := match afield with
    | some a => (List.range 8).map fun r => match x.w.opf with
      | none => BitVec.allOnes 32
      | some o => x.w.lanesSince (a + r) o.1
    | none => []
  let m := if flag = none then (s, x.w, []) else markRegs s x.w false dests
  let y := if flag = none then (m.1, m.2.1, []) else markA m.1 m.2.1 (afield.getD 0) nA
  let marks := (m.2.2.map fun (k : Nat × Nat × Nat) =>
    (k.1, k.2.1, (BitVec.ofNat 32 k.2.2 : W32), lane (x.w.readV k.1) k.2.1)) ++ y.2.2
  let w := y.2.1
  let q : QuadIssue := { seq := w.quadSeq, instr := i, tied := flag, pc := x.g.pc, aval, abad, stamp := w.vclock
                         fenced := w.opf.map (·.2), spadAt := b.spadClock, marks }
  let w := { w.raise flag with quadSeq := w.quadSeq + 1, quadQ := w.quadQ ++ [q] }
  let s1 := retire y.1 w { x.g with wait := if flag = none then .joint b.id quad q.seq else x.g.wait }
  formQuad s1 b.id quad

/-! ### The instructions -/

/-- FMT of the warp's lowest active lane (13/R289). -/
def ownFmt (w : Warp) : W32 :=
  match (List.range 8).find? fun j => (w.slice j).active != 0 with
  | some j => (w.slice j).fmt
  | none => 0

def execMma (f : Fields) (s : State) : Host.Outcome State Fault Refusal :=
  execute s f fun s x => do
    let b ← quadBlock s x
    let flag := tiedFlag x.g f
    tieCheck x.w flag
    let fmt := ownFmt x.w
    let af := bits fmt 7 0
    let bf := bits fmt 15 8
    let n := if 27 < af ∨ 27 < bf then 0 else aRegs af bf
    if n ≠ 0 ∧ x.w.limit < f.a.toNat + n then .error (.trap 5 (max x.w.limit f.a.toNat) 0)
    else do
      holdsBaton s x.w
      let hit := f.ru && ((pairAt s (pairOf x.w.core)).latch.any fun l =>
        l.block == b.id && l.quad == x.w.idx / 4 && l.af == af && l.afield == f.a.toNat)
      .ok (issueQuad s x b (.mma f) flag (some f.a.toNat) (if hit then 0 else n) [])

def execZclr (f : Fields) (s : State) : Host.Outcome State Fault Refusal :=
  execute s f fun s x => do
    let b ← quadBlock s x
    holdsBaton s x.w
    .ok (issueQuad s x b (.zclr f) none none 0 [])

def execDrain (f : Fields) (s : State) : Host.Outcome State Fault Refusal :=
  execute s f fun s x => do
    let b ← quadBlock s x
    let flag := tiedFlag x.g f
    tieCheck x.w flag
    holdsBaton s x.w
    let dests := if drainDest f = 0 then (List.range 32).flatMap fun r => (lanesOf x.act).map fun L => (f.a.toNat + r, L) else []
    .ok (issueQuad s x b (.drain f) flag none 0 dests)

def execAtbl (f : Fields) (s : State) : Host.Outcome State Fault Refusal :=
  execute s f fun s x => do
    let b ← quadBlock s x
    holdsBaton s x.w
    .ok (issueQuad s x b (.atbl f) none none 0 [])

def execBatonJoin (f : Fields) (s : State) : Host.Outcome State Fault Refusal :=
  execute s f fun s x => do
    let b ← quadBlock s x
    .ok (issueQuad s x b (.batonJoin f) none none 0 [])

def execBatonTake (f : Fields) (s : State) : Host.Outcome State Fault Refusal :=
  execute s f fun s x => do
    let b ← quadBlock s x
    .ok (issueQuad s x b (.batonTake f) none none 0 [])

def execBatonPass (f : Fields) (s : State) : Host.Outcome State Fault Refusal :=
  execute s f fun s x => do
    let b ← quadBlock s x
    .ok (issueQuad s x b (.batonPass f) none none 0 [])

/-- `fmtset` (13/R286). The register form traps on the reserved bits [31:16] as on a format id above 27 (log 66). -/
def execFmtset (f : Fields) (s : State) : Host.Outcome State Fault Refusal :=
  execute s f fun s x => do
    let _ ← pairBlockOf s x.w
    let js := activeSlices x.w x.g
    let val := fun (j : Nat) => if f.bk = .imm then f.imm else (x.src.readS j f.b.toNat).setWidth 32
    let bad := fun (v : W32) => bits v 31 16 != 0 || 27 < bits v 15 8 || 27 < bits v 7 0
    if js.any fun j => bad (val j) then .error illegal
    else .ok (retire s (js.foldl (fun w j => w.setSlice j { w.slice j with fmt := val j }) x.w) x.g)

/-- `opfence` marks the point of 13/R292. -/
def execOpfence (f : Fields) (s : State) : Host.Outcome State Fault Refusal :=
  execute s f fun s x => do
    let b ← pairBlockOf s x.w
    .ok (retire s { x.w with opf := some (x.w.vclock, spadBefore s x.w b) } x.g)

/-! ### scpre (13/R296) -/

def execScpreLd (f : Fields) (s : State) : Host.Outcome State Fault Refusal :=
  execute s f fun s x => do
    let b ← pairBlockOf s x.w
    let flag := tiedFlag x.g f
    tieCheck x.w flag
    let c ← ctxOf s x.w
    let sa := x.s f.a.toNat
    let sb := x.s f.b.toNat
    if bits sa 63 16 ≠ 0 ∨ bits sb 63 32 ≠ 0 then .error illegal
    else match tensorRecord (recordsOf s b.id) sa.toNat with
    | none => .error (.fault { kind := 12, acc := 7, va := 0, vaFree := true })
    | some r => do
      let blks := (List.range f.imm.toNat).map fun i => blockKey ((sb.toNat + i : Nat) : Int)
      let _ ← liftFlt (checkAll s c needUnit (blks.map fun k => (scaleVa r k, 4)))
      let id := newId s
      let leader := leaderOf x.w.core
      let keys := blks.map fun k => (sa.toNat, k)
      let s1 := [leader, leader + 1].foldl (fun s core => wantScales s core x.w.ctx b.launch (some id.1) none keys) id.2
      .ok (land s1 x flag false id.1 (s1.scaleReqs.length - s.scaleReqs.length) 1 [] [] none [] [] false)

/-- The removal forms: at once where no operation uses an entry, else when the last of them has completed. -/
def scpreDrop (f : Fields) (s : State) (x : Exe) (tid : Option Nat) : Except Stop State := do
  let flag := tiedFlag x.g f
  tieCheck x.w flag
  let leader := leaderOf x.w.core
  match scaleRemove s leader tid with
  | some s1 => .ok (retire s1 x.w x.g)
  | none =>
    let id := newId s
    let o : Outstanding := { id := id.1, warp := x.w.id, flag, inv := some (leader, tid) }
    .ok (retire { id.2 with outs := id.2.outs ++ [o] } (x.w.raise flag)
      { x.g with wait := if flag = none then .access id.1 else x.g.wait })

def execScpreInv (f : Fields) (s : State) : Host.Outcome State Fault Refusal :=
  execute s f fun s x => do
    let b ← pairBlockOf s x.w
    let sa := x.s f.a.toNat
    if bits sa 63 16 ≠ 0 then .error illegal
    else if (tensorRecord (recordsOf s b.id) sa.toNat).isNone then .error (.fault { kind := 12, acc := 7, va := 0, vaFree := true })
    else scpreDrop f s x (some sa.toNat)

def execScpreAll (f : Fields) (s : State) : Host.Outcome State Fault Refusal :=
  execute s f fun s x => do
    let _ ← pairBlockOf s x.w
    scpreDrop f s x none

/-! ### Start (13/R305-R307, R297, R304) -/

/-- clk of the pair's leader. -/
def opClk (s : State) (o : JointOp) : Nat := tabGet 0 s.coreClk (2 * o.pair)

def setOp (s : State) (o : JointOp) : State := { s with ops := updWhere (·.id == o.id) (fun _ => o) s.ops }

/-- A fault of an operation before it starts: it parks, or its block is killed (13/R297). -/
def opFault (s : State) (o : JointOp) (f : Flt) : State :=
  match findBlock s o.block with
  | none => s
  | some b =>
    match findCtx s b.ctx with
    | none => s
    | some c =>
      let f := { f with prog5 := opProg o }
      if c.replays ∧ (f.kind = 1 ∨ f.kind = 2) then
        match c.parked.find? (fun p => p.page == f.va / 4096 && p.kind == f.kind) with
        | some p =>
          let s1 := setOp s { o with parked := some p.fid }
          if taskClass s b then startSave s1 b.id else s1
        | none =>
          if fltFull s c then s else
          let s1 := putRecord s c f (opIds s o f.level) true (taskClass s b) 0
          let park := fun (x : Ctx) => { x with parked := ⟨c.nextFid, f.va / 4096, f.kind⟩ :: x.parked }
          let s2 := setOp { s1 with ctxs := updWhere (·.slot == c.slot) park s1.ctxs } { o with parked := some c.nextFid }
          if taskClass s b then startSave s2 b.id else s2
      else if fltFull s c then s
      else killBlock (logFault (putRecord s c f (opIds s o f.level) false false 0) f) b.id .fault

/-- Who reads for an operation. -/
def opWho (s : State) (o : JointOp) (b : Block) : Who :=
  { core := 2 * o.pair, ctx := b.ctx, compat := (findCtx s b.ctx).any (·.compat), warp := o.warps.headD 0 }

/-- The records and side-list entries of a pass: all at hand, or asked for, or a fault. -/
def preparePass (s : State) (o : JointOp) (b : Block) (c : Ctx) (second : Bool) : State × Option JointOp :=
  let o := bindRecs s o second
  match missingKeys o second with
  | k :: ks => ((k :: ks).foldl (fun s k => wantScales s k.1 b.ctx b.launch none none [(k.2.1, k.2.2)]) (setOp s o), none)
  | [] =>
    let vas := sideVas o b (recordsOf s b.id) second
    let r := vas.foldl (fun (a : State × Except Stop (List (Nat × Byte))) va =>
      match a.2 with
      | .error e => (a.1, .error e)
      | .ok got =>
        match unitLoad a.1 (opWho a.1 o b) c b.id o.id va 2 with
        | .error e => (a.1, .error e)
        | .ok q => (q.1, .ok (got ++ q.2.mapIdx fun i y => (va + i, y)))) (s, .ok [])
    match r.2 with
    | .ok got => (r.1, some { o with side := o.side ++ got })
    | .error (.fault f) => (opFault (setOp s o) o f, none)
    | .error (.held s') => (s', none)
    | .error _ => (s, none)

/-- The check of a drain to memory: every byte, then the placement of an add-on-store (13/R304, 02/R25). -/
def drainCheck (s : State) (o : JointOp) (c : Ctx) : Except Flt (List Xlat) :=
  let us := (drainRows o).map fun a => (a, drainRow o.f)
  match checkAll s c { perm := 2, acc := 5, writes := true, peer := false } us with
  | .error f => .error f
  | .ok xs =>
    let all := xs.flatten
    let pa0 := (all.head?.map (·.pa)).getD 0
    if drainAos o.f && all.any (fun x => layoutOf s (groupOf x.pa) != 1 || x.pa / 65536 != pa0 / 65536) then
      .error { kind := 4, acc := 5, va := drainDst o, entry := (all.head?.map (·.entry)).getD 0, level := (all.head?.map (·.level)).getD 7 }
    else .ok all

/-- An operation waits for a scale record, a replay or a permit, so that later ones may start first. -/
def heldBack (s : State) (o : JointOp) : Bool :=
  o.parked.isSome || o.permit == .waiting || (o.isMma && (missingKeys (bindRecs s o false) false) != [])

/-- The order of 13/R306, and free arrays and drain paths. -/
def mayStart (s : State) (o : JointOp) : Bool :=
  let mine := s.ops.filter fun q => q.pair == o.pair && q.kind ≤ 3 && q.id != o.id
  let before := (s.ops.takeWhile (·.id != o.id)).filter fun q => q.pair == o.pair && q.kind ≤ 3
  (before.all fun q =>
    (q.tile.isNone || q.tile != o.tile) && !(q.kind == 3 && o.kind == 2) && !(q.kind == 2 && o.kind == 3)
      && (q.st != .formed || heldBack s q))
    && (if o.isDrain then mine.all fun q => q.st == .formed || !q.isDrain || drainHi q.f != drainHi o.f
        else mine.all fun q => q.st == .formed || q.isDrain)

/-- The entries that a pass uses become the most recently used (13/R294). -/
def useRecs (s : State) (o : JointOp) : State := o.recs.foldl (fun s r => scaleTouch s r.1 r.2.1 r.2.2.1) s

def startOp (s : State) (o : JointOp) : State :=
  match o.cause with
  | some c => refuseOp s o c
  | none =>
    if 4 ≤ o.kind ∨ o.st ≠ .formed ∨ o.parked.isSome = true ∨ o.permit = .waiting ∨ (pairAt s o.pair).resetting = true
        ∨ mayStart s o = false then s
    else
      match findBlock s o.block with
      | none => s
      | some b =>
        match findCtx s b.ctx with
        | none => s
        | some c =>
          if !ctxRuns s b.ctx then s
          else if o.isMma then
            match preparePass s o b c false with
            | (s1, some o1) => setOp (useRecs s1 o1) { o1 with st := .started, since := opClk s o }
            | (s1, none) => s1
          else if o.isDrain && drainDest o.f == 2 then
            match drainCheck s o c with
            | .error f => opFault s o f
            | .ok xs =>
              let n := drainRow o.f
              let dst := (drainRows o).mapIdx fun i a => vaParts a (((xs.drop (i * n)).take n).map (·.pa))
              setOp (rememberAll s (opWho s o b) xs) { o with st := .started, since := opClk s o, dst := dst.flatten }
          else setOp s { o with st := .started, since := opClk s o }

def execMatrixOpStart (op : Nat) (s : State) : Host.Outcome State Fault Refusal :=
  event s fun s => match s.ops.find? (·.id == op) with
    | some o => startOp s o
    | none => s

/-- The second pass starts once its records are present (13/R462). -/
def execMatrixSecondPass (op : Nat) (s : State) : Host.Outcome State Fault Refusal :=
  event s fun s => match s.ops.find? (·.id == op) with
    | none => s
    | some o =>
      if o.st ≠ .started ∨ o.twoPass = false ∨ o.parked.isSome = true then s
      else
        match findBlock s o.block with
        | none => s
        | some b =>
          match findCtx s b.ctx with
          | none => s
          | some c =>
            -- the records of the first pass are no longer in use
            let o := if o.recs1 = [] then { o with recs := [], recs1 := o.recs } else o
            match preparePass (setOp s o) o b c true with
            | (s1, some o1) => setOp (useRecs s1 o1) { o1 with st := .secondPass }
            | (s1, none) => s1

/-! ### Completion of `mma`, `zclr`, `atbl` and `baton.take` -/

/-- Lanes of the A registers that have been written since issue are undefined, for the latch and its users too (R292). -/
def spoilA (s : State) (o : JointOp) : State :=
  let n := aRegs o.af o.bf
  if o.src ≠ o.id then s
  else
    let hit := (List.range 4).map fun i => match findWarp s (o.warps.getD i 0) with
      | some w => joinLanes ((List.range n).map fun r => w.lanesSince (o.f.a.toNat + r) (o.stamps.getD i 0))
      | none => 0
    let join := fun (l : List W32) => (l.zip hit).map fun p => p.1 ||| p.2
    let s := { s with ops := updWhere (·.src == o.id) (fun q => { q with abad := join q.abad }) s.ops }
    let p := pairAt s o.pair
    putPair s o.pair { p with latch := p.latch.map fun l => if l.src = o.id then { l with abad := join l.abad } else l }

def completeOp (s : State) (o : JointOp) : State :=
  match findBlock s o.block with
  | none => s
  | some b =>
    match o.kind with
    | 0 =>
      if o.st ≠ (if o.twoPass then .secondPass else .started) then s
      else
        let s1 := spoilA s o
        let o1 := (s1.ops.find? (·.id == o.id)).getD o
        let recs := recordsOf s1 b.id
        finishOp (o1.cores.foldl (fun s core => mmaTile s o1 b recs core) s1) o1 none
    | 1 =>
      if o.st ≠ .started then s
      else finishOp { s with z := o.cores.foldl (fun t core => tabSet 0 t (zKey core o.f.d.toNat) 0) s.z } o none
    | 3 =>
      if o.st ≠ .started then s
      else
        let bytes := match spadPlace b b.core ((o.sreg o.f.a.toNat).toNat : Int) 264 with
          | some p => spadBytes b p 264
          | none => []
        let p := pairAt s o.pair
        finishOp (putPair s o.pair { p with atbl := tabSet [] p.atbl (bits o.f.imm 1 0) bytes }) o none
    | 5 => match o.cause with
      | some c => refuseOp s o c
      | none => batonOp s o
    | _ => s

def execMatrixOpComplete (op : Nat) (s : State) : Host.Outcome State Fault Refusal :=
  event s fun s => match s.ops.find? (·.id == op) with
    | some o => completeOp s o
    | none => s

/-! ### SCALE_RECORD_FETCH (13/R295-R297) -/

/-- The operations of a pair take up records that their caches now hold. -/
def rebind (s : State) (core : Nat) : State :=
  let takes := fun (o : JointOp) =>
    o.pair == core / 2 && o.isMma && o.st != .secondPass && (o.st == .formed || o.recs1 != [])
  { s with ops := updWhere takes (fun o => bindRecs s o (o.recs1 != [])) s.ops }

/-- Operations that wait for a record. -/
def waitingOps (s : State) (r : ScaleReq) : List JointOp :=
  s.ops.filter fun o => o.pair == r.core / 2 && o.isMma && o.parked.isNone
    && (missingKeys o (o.recs1 != [])).contains (r.core, r.tid, r.blk)

/-- A fault on a record's fetch: it is taken by the operation that waits for it, by the warp of the `scpre.ld`, or by the group
whose load asked for it and still stalls. -/
def scaleFault (s : State) (r : ScaleReq) (e : Stop) : State :=
  let drop := fun (s : State) => { s with scaleReqs := s.scaleReqs.filter (·.id != r.id) }
  match r.out with
  | none =>
    match waitingOps s r, e with
    | o :: _, .fault f => opFault (drop s) o f
    | [], e =>
      match r.asker.bind fun a => (findWarp s a.1).bind fun w => (w.groups.find? fun g => g.slices == a.2 && g.wait == .stall).map
          fun g => (w, g) with
      | none => drop s
      | some (w, g) =>
        match e with
        | .fault f => takeFault (drop s) w g f
        | _ => drop s
    | _, _ => drop s
  | some id =>
    match (s.outs.find? (·.id == id)).bind fun o => findWarp s o.warp with
    | none => drop s
    | some w =>
      match e with
      | .fault f =>
        let s1 := takeFaultBy s w (fun _ => w) f
        match findCtx s1 w.ctx with
        | some c => match c.parked.find? (fun p => p.page == f.va / 4096 && p.kind == f.kind) with
          | some p => { s1 with scaleReqs := updWhere (·.id == r.id) (fun r => { r with parked := some p.fid }) s1.scaleReqs }
          | none => s1
        | none => s1
      | _ => s

/-- The block for which a record is fetched. -/
def reqBlock (s : State) (r : ScaleReq) : Nat :=
  ((s.blocks.find? fun b => b.launch == r.launch && leaderOf b.core == leaderOf r.core && b.placed).map (·.id)).getD 0

/-- The context runs, or a block of the pair is being saved: its outstanding instructions and started operations are finished
first, with the records that they wait for (17/R400). -/
def fetches (s : State) (r : ScaleReq) : Bool :=
  ctxRuns s r.ctx || s.blocks.any fun b => b.saving && b.launch == r.launch && leaderOf b.core == leaderOf r.core

def fetchScale (s : State) (r : ScaleReq) : State :=
  if r.parked.isSome || !fetches s r then s
  else
    match findCtx s r.ctx, findLaunch s r.launch with
    | some c, some l =>
      match tensorRecord l.kernel.recs r.tid with
      | none => { s with scaleReqs := s.scaleReqs.filter (·.id != r.id) }
      | some t =>
        let w : Who := { core := r.core, ctx := r.ctx, compat := c.compat, warp := 0 }
        match unitLoad s w c (reqBlock s r) r.id (scaleVa t r.blk) 4 with
        | .error (.held s') => s'
        | .error e => scaleFault s r e
        | .ok q =>
          -- an entry that is present may stay as it is
          let keep := (scaleLookup s r.core r.tid r.blk).isSome && Config.pick s.choice % 2 == 0
          match (if keep then some q.1 else scaleInstall q.1 r.core r.tid r.blk (BitVec.ofNat 32 (ofBytes q.2))) with
          | none => s
          | some s1 =>
            let s2 := match r.out with
              | some id => { s1 with outs := updWhere (·.id == id) (fun o => { o with need := o.need - 1 }) s1.outs }
              | none => s1
            rebind { s2 with scaleReqs := s2.scaleReqs.filter (·.id != r.id), unitGot := s2.unitGot.filter (·.1 != r.id) } r.core
    | _, _ => { s with scaleReqs := s.scaleReqs.filter (·.id != r.id) }

def execScaleRecordFetch (req : Nat) (s : State) : Host.Outcome State Fault Refusal :=
  event s fun s => match s.scaleReqs.find? (·.id == req) with
    | some r => fetchScale s r
    | none => s

/-! ### DRAIN_COMPLETE (13/R303-R304) -/

/-- `.reg`: each quad warp's active lanes take their row. -/
def drainToRegs (s : State) (o : JointOp) (codes : List (List Nat)) : State :=
  (List.range 4).foldl (fun s q =>
    match findWarp s (o.warps.getD q 0) with
    | none => s
    | some w =>
      let marks := (o.marks.getD q []).map fun m => (m.1, m.2.1, m.2.2.1.toNat)
      let places := (List.range 32).flatMap fun r => (lanesOf w.activeLanes).map fun L => (r, L)
      let out := places.foldl (fun (a : State × Warp) p =>
        settle a.1 a.2 false marks (o.f.a.toNat + p.1) p.2
          ((codes.getD (16 * q + p.2 % 16) []).getD (p.1 + 32 * (p.2 / 16)) 0)) (s, w)
      setWarp out.1 out.2) s

/-- `.sp`: at the scratchpad port. -/
def drainToSpad (s : State) (o : JointOp) (codes : List (List Nat)) : State :=
  ((drainRows o).zip codes).foldl (fun s r =>
    match findBlock s o.block with
    | none => s
    | some b =>
      match spadPlace b b.core (r.1 : Int) (drainRow o.f) with
      | none => s
      | some p => spadWrite s b.id (2 * o.warps.getD 0 0 + 1) p (drainBytes o.f r.2 (spadBytes b p (drainRow o.f)))) s

/-- The bytes that a drain to memory writes, row after row: what stands under a row takes in the rows before it. -/
def drainPuts (s : State) (o : JointOp) (codes : List (List Nat)) : List (Nat × Nat × Byte) :=
  let over_ := drainStride o < drainRow o.f
  ((drainRows o).zip codes).foldl (fun (a : List (Nat × Nat × Byte)) r =>
    let vas := (List.range (drainRow o.f)).map (r.1 + ·)
    let old := vas.map fun va =>
      match (if over_ then a.reverse.find? (·.1 == va) else none) with
      | some p => p.2.2
      | none => homeByte s ((o.dstPa va).getD 0)
    a ++ (vas.zip (drainBytes o.f r.2 old)).map fun p => (p.1, (o.dstPa p.1).getD 0, p.2)) []

/-- `.mem`: one update at the home, and of the die's L2 (13/R304); a byte that a copy command reads or writes is free. -/
def drainToMem (s : State) (o : JointOp) (b : Block) (codes : List (List Nat)) : State :=
  let t := taintPuts s b.ctx b.id (drainPuts s o codes)
  engineWrite t.1 (dieOf (2 * o.pair)) (opWho s o b).compat false (t.2.map fun p => (p.2.1, p.2.2))

/-- The first byte under an add-on-store whose read meets an error. -/
def drainBad (s : State) (o : JointOp) : Option Flt :=
  if !drainAos o.f then none
  else o.dst.findSome? fun d => (List.range ((d.2.1 % 128 + d.2.2 + 127) / 128)).findSome? fun i =>
    let pa := if i = 0 then d.2.1 else lineOf d.2.1 + 128 * i
    (badRead s pa).map fun src => mcFault src pa (d.1 + (pa - d.2.1)) 5

def completeDrain (s : State) (o : JointOp) : State :=
  match findBlock s o.block with
  | none => s
  | some b =>
    if o.isDrain = false ∨ o.st ≠ .started then s
    else match (if drainDest o.f = 2 then drainBad s o else none) with
    | some e => opFault s o e
    | none =>
      let r := drainCodes s o b
      match drainDest o.f with
      | 0 =>
        let s1 := drainToRegs r.1 o r.2
        finishOp s1 { o with marks := [] } none
      | 1 => finishOp (drainToSpad r.1 o r.2) o none
      | _ => finishOp (drainToMem r.1 o b r.2) o none

def execDrainComplete (op : Nat) (s : State) : Host.Outcome State Fault Refusal :=
  event s fun s => match s.ops.find? (·.id == op) with
    | some o => completeDrain s o
    | none => s

end Sys2Proof.Machine
end

