-- ==== Sys2Proof/Machine/Sync.lean ====
section
/-! DEFINITION. Fences and hardware barriers (14/R311-R320, 07/R142, R147-R148). -/

namespace Sys2Proof.Machine

/-! ### fence and fwait (14/R312-R314) -/

/-- Engine commands of a warp that have not performed all their reads. -/
def engineIds (s : State) (w : Warp) : List Nat :=
  (s.cmds.filter (·.warp == w.id)).map (·.id) ++ (s.nbcmds.filter (·.warp == w.id)).map (·.id)
    ++ (s.queries.filter fun q => q.warp == w.id && !q.ended).map (·.id)

/-- Everything a fence covers has been performed. -/
def Fence.done (s : State) (w : Warp) (f : Fence) : Bool :=
  (f.accesses.all fun i => !(s.outs.any (·.id == i)))
    && (f.engines.all fun i => !((engineIds s w).contains i))
    && (match f.quads with
      | none => true
      | some n => w.quadQ.all (fun q => n ≤ q.seq) && s.ops.all fun o => !(o.warps.contains w.id) || n ≤ o.seq)

/-- `fence` covers the accesses of the group's lanes of its kinds (R312-R313). The stores that it covers are performed at the level of its scope at its issue (log 30). -/
def execFence (f : Fields) (s : State) : Host.Outcome State Fault Refusal :=
  execute s f fun s x =>
    if 16 ≤ x.w.fences.length then .error (.wait .retry)
    else
      let kinds : BitVec 3 := f.imm.extractLsb' 0 3
      let sc := scopeOf (bits f.sub 2 0)
      let s1 := if bit kinds 1 then releaseAt s (whoOf s x.w) (levelFor s x.w sc) else s
      let n := x.w.fenceNo + 1
      let fe : Fence := {
        token := n, kinds, scope := sc
        accesses := (s.outs.filter fun o =>
          o.warp == x.w.id && o.slices &&& x.g.slices != 0 && o.kinds &&& kinds.extractLsb' 0 2 != 0).map (·.id)
        engines := if bit kinds 2 then engineIds s x.w else []
        quads := if bit kinds 2 then some x.w.quadSeq else none }
      .ok (retire s1 { x.w.setS x.slices f.d.toNat (n.setWidth 64) with fenceNo := n, fences := x.w.fences ++ [fe] } x.g)

/-- An acquire by the issuing core at each of several scopes. -/
def acquireAll (s : State) (w : Warp) (l : List Scope) : State := l.foldl (fun s sc => acquireAt s (whoOf s w) (levelFor s w sc)) s

def execFwait (f : Fields) (s : State) : Host.Outcome State Fault Refusal :=
  execute s f fun s x =>
    let a : W16 := (x.s f.a.toNat).setWidth 16
    let (mine, rest) := x.w.fences.partition fun t => (a - t.token).toNat < 32768
    if mine.all (·.done s x.w) then
      .ok (retire (acquireAll s x.w (mine.map (·.scope))) { x.w with fences := rest } x.g)
    else .error (.wait .stall)

/-! ### Barriers (14/R315-R320) -/

/-- The barrier that a 16-bit name names for a warp, or the illegal-instruction trap of R320. -/
def barOf (s : State) (w : Warp) (name : Nat) : Except Stop (BarOwner × Nat) :=
  let idx := name % 16
  if !barName name then .error illegal
  else match findBlock s w.block with
  | none => .error illegal
  | some b =>
    match findLaunch s b.launch with
    | none => .error illegal
    | some l =>
      match name / 256 with
      | 0 => .ok (.warp w.id, idx)
      | 1 => .ok (.block b.id, idx)
      | 2 => if l.cls = 2 ∨ l.kernel.clus = 0 then .error illegal else .ok (.cluster l.id (clusterNo s b), idx)
      | _ => if l.cls = 1 then .ok (.grid l.id, idx) else .error illegal

/-- Scope of arrival and completion. -/
def barScope : BarOwner → Scope
  | .warp _ => .warp
  | .block _ => .block
  | .cluster _ _ => .cluster
  | .grid _ => .device

/-- The issuing unit has already arrived in the open phase: a slice of the group, or its warp. -/
def hasArrived (b : Barrier) (x : Exe) : Bool :=
  match b.owner with
  | .warp _ => x.slices.any b.arrived.contains
  | _ => b.arrived.contains x.w.id

/-- The slices of a warp that have executed `bar.arv` in the open phase while others have not. -/
def partOf (b : Barrier) (warp : Nat) : BitVec 8 := ((b.part.find? (·.1 == warp)).map (·.2)).getD 0

/-- A slice has made its arrival in the open phase, or its part of its warp's. -/
def sliceArrived (b : Barrier) (w : Warp) (j : Nat) : Bool :=
  match b.owner with
  | .warp _ => b.arrived.contains j
  | _ => b.arrived.contains w.id || bit (partOf b w.id) j

/-- Slices arrive: each for itself, or as a part of their warp's arrival. -/
def arrive (b : Barrier) (w : Warp) (js : List Nat) : Barrier :=
  match b.owner with
  | .warp _ => { b with arrived := b.arrived ++ js }
  | _ => { b with part := (w.id, partOf b w.id ||| sliceSet js) :: b.part.filter (·.1 != w.id) }

/-- `bar.arv` (R315, R317): each slice of the group arrives once. Those that have arrived in the open phase already wait until
it completes and arrive in the next, and the group goes on when all have arrived. -/

def execBarArv (f : Fields) (s : State) : Host.Outcome State Fault Refusal :=
  execute s f fun s x => do
    let o ← barOf s x.w (bits f.imm 15 0)
    let b := barAt s o.1 o.2
    let todo := x.slices.filter fun j => !bit x.g.part j
    let now := todo.filter fun j => !sliceArrived b x.w j
    if now = [] ∧ todo ≠ [] then .error (.wait .retry)
    else do
      let q ← releaseBefore s x (some (barScope o.1))
      let w := x.w.setS now f.d.toNat (b.p.setWidth 64)
      let done := now.length == todo.length
      let s1 := if done then retire q.1 w x.g
        else setWarp q.1 (w.setGroup { x.g with wait := .retry, part := x.g.part ||| sliceSet now })
      let s2 := settleBars (putBar s1 (arrive b x.w now))
      if done then .ok s2 else .error (.held s2)

/-- Phase `n` has completed (R317). -/
def phaseDone (b : Barrier) (n : W16) : Bool := (b.p - 1 - n).toNat < 32768

/-- The acquire of a unit that observes a phase: at the level's scope, and at the scope of R146 for the engine completions
counted in it. -/
def observePhase (s : State) (x : Exe) (b : Barrier) (n : W16) : State :=
  acquireAll s x.w (barScope b.owner :: if b.eng.contains n then [.device] else [])

def execBarWait (f : Fields) (s : State) : Host.Outcome State Fault Refusal :=
  execute s f fun s x => do
    let o ← barOf s x.w (bits f.imm 15 0)
    let b := barAt s o.1 o.2
    let n : W16 := (x.s f.a.toNat).setWidth 16
    if phaseDone b n then .ok (retire (observePhase s x b n) x.w x.g) else .error (.wait .stall)

def execBarArm (f : Fields) (s : State) : Host.Outcome State Fault Refusal :=
  execute s f fun s x => do
    let o ← barOf s x.w (bits f.imm 15 0)
    let a := x.s f.a.toNat
    if bits a 15 0 = 0 ∨ bits a 63 16 ≠ 0 then .error illegal
    else
      let b := barAt s o.1 o.2
      let b := if hasArrived b x then { b with nextA := b.nextA + bits a 15 0 } else { b with a := b.a + bits a 15 0 }
      .ok (putBar (retire s x.w x.g) b)

def execBarTst (f : Fields) (s : State) : Host.Outcome State Fault Refusal :=
  execute s f fun s x => do
    let o ← barOf s x.w (bits f.imm 15 0)
    let b := barAt s o.1 o.2
    let n : W16 := (x.s f.a.toNat).setWidth 16
    let w := (x.w.setS x.slices f.d.toNat (b.p.setWidth 64)).setZ x.slices (!phaseDone b n)
    .ok (retire (if phaseDone b n then observePhase s x b n else s) w x.g)

/-- An engine completion reaches its barrier (R316). -/
def execEngineCompletionDelivery (id : Nat) (s : State) : Host.Outcome State Fault Refusal :=
  event s fun s => match s.deliveries.find? (·.id == id) with
    | none => s
    | some d =>
      let s := { s with deliveries := s.deliveries.filter (·.id != id) }
      if barLive s d.owner then
        let b := barAt s d.owner d.idx
        settleBars (putBar s { b with e := b.e + 1 })
      else s

end Sys2Proof.Machine
end

