-- ==== Sys2Proof/Machine/Router.lean ====
section
/-! DEFINITION. The router instructions (14/R334-R346) and the holding store's event. -/

namespace Sys2Proof.Machine

/-! ### Handles and faults (14/R334, R345, 17/R398) -/

/-- Words 4 and 5 of a record of the router: DONE, EFX and TAG of the reported lane's record, and its SEQ. -/
def routerProg (head : W64) (tag : Nat) : W64 × W64 :=
  (BitVec.ofNat 64 (bits head 7 0 + (if bit head 12 then 256 else 0) + tag % 65536 * 512),
    BitVec.ofNat 64 (10 * 2 ^ 56 + (headSeq head).toNat))

def routerFault (s : State) (cause : Nat) (head : W64) (tag : Nat) : Stop :=
  .fault { kind := 15, acc := freeAcc s, va := 0, vaFree := true, fatal := true, entry := BitVec.ofNat 64 cause
           prog4 := (routerProg head tag).1, prog5 := (routerProg head tag).2 }

/-- The set of the issuing context that a handle names. -/
def setOf (s : State) (w : Warp) (handle : W64) : Except Stop StageSet :=
  match (if bits handle 63 6 = 0 then findSet s (bits handle 5 4) (bits handle 3 0) else none) with
  | some t => if t.ctx = w.ctx then .ok t else .error (routerFault s 2 0 0)
  | none => .error (routerFault s 2 0 0)

/-- The selector names a queue of the set. -/
def selCheck (s : State) (t : StageSet) (sel : Nat) : Except Stop Unit :=
  if (sel < 8 ∧ t.count ≤ sel) ∨ (sel = 9 ∧ t.dropq = false) then .error (routerFault s 3 0 0) else .ok ()

/-- The scope at which a core synchronises with a die's router (14/R342). -/
def routerScope (w : Warp) (die : Nat) : Scope := if dieOf w.core = die then .die else .device

/-- `n` bytes of the scratchpad at an offset, all in range (04/R74). -/
def spadRun (b : Block) (core off n : Nat) : Except Stop (Bool × Nat) :=
  match spadPlace b core (off : Int) n with
  | some p => .ok p
  | none =>
    .error (.trap 8 (((List.range n).find? fun i => (spadPlace b core ((off + i : Nat) : Int) 1).isNone).map (off + ·) |>.getD off) 0)

/-- Offsets of lanes' records, each with its place. -/
def spadRuns (b : Block) (core base skip n : Nat) : List Nat → Except Stop (List (Nat × Bool × Nat))
  | [] => .ok []
  | L :: r => do
    let p ← spadRun b core (base + 64 * L + skip) n
    let q ← spadRuns b core base skip n r
    .ok ((L, p) :: q)

/-! ### Sets -/

/-- A fault of a table or of its rings (14/R463). -/
def setFault (f : Flt) : Stop := .fault { f with fatal := true, prog5 := BitVec.ofNat 64 (10 * 2 ^ 56) }

def execRouteSet (f : Fields) (s : State) : Host.Outcome State Fault Refusal :=
  execute s f fun s x => do
    let c ← ctxOf s x.w
    let va := (x.s f.a.toNat).toNat
    if va % 64 ≠ 0 then .error (routerFault s 1 0 0) else
    match checkBytes s c { needUnit with peer := false } va 192 with
    | .error e => .error (setFault e)
    | .ok _ => do
      let t ← unitLoad s (whoOf s x.w) c x.w.block x.w.id va 192
      if tableBad t.2 then .error (routerFault s 1 0 0) else
      match ringFault t.1 c t.2 with
      | some e => .error (setFault e)
      | none =>
        let die := dieOf x.w.core
        let need := bits (word64 t.2 0) 3 0 + 3
        match (List.range 16).find? (fun n => (findSet s die n).isNone) with
        | some n =>
          if queuesTaken s die + need ≤ 64 then
            let w := (x.w.setS x.slices f.d.toNat (BitVec.ofNat 64 (n + 16 * die))).setZ x.slices false
            .ok (retire { t.1 with sets := t.1.sets ++ [newSet t.1 c t.2 die n] } w x.g)
          else .ok (retire t.1 ((x.w.setS x.slices f.d.toNat (BitVec.allOnes 64)).setZ x.slices true) x.g)
        | none => .ok (retire t.1 ((x.w.setS x.slices f.d.toNat (BitVec.allOnes 64)).setZ x.slices true) x.g)

def execRouteSetFree (f : Fields) (s : State) : Host.Outcome State Fault Refusal :=
  execute s f fun s x => do
    let t ← setOf s x.w (x.s f.a.toNat)
    let s1 := if t.drained then { s with
      sets := s.sets.filter fun y => !(y.die == t.die && y.num == t.num && y.ctx == t.ctx)
      retries := s.retries.filter fun r => !(r.die == t.die && r.set == t.num && r.ctx == t.ctx) } else s
    .ok (retire s1 (x.w.setZ x.slices (!t.drained)) x.g)

def execRouteAdmitClose (f : Fields) (s : State) : Host.Outcome State Fault Refusal :=
  execute s f fun s x => do
    let t ← setOf s x.w (x.s f.a.toNat)
    .ok (retire (putSet s { t with st := .closed }) (x.w.setZ x.slices false) x.g)

/-! ### Admission (14/R334, R336, R340) -/

/-- The header of an admitted record: SEQ and SET. -/
def newHead (t : StageSet) : W64 := BitVec.ofNat 64 (t.seq.toNat * 2 ^ 16 + t.num * 2 ^ 8)

/-- What the lanes of a router instruction leave: the state, the set, the warp, and whether a lane met a full holding store. -/
structure Admit where
  s : State
  t : StageSet
  w : Warp
  full : Bool := false

/-- One lane admits its record. -/
def admitLane (b : Block) (d : Nat) (a : Admit) (p : Nat × Bool × Nat) : Admit :=
  if a.full then a else
  let q := spadRead a.s b p.2 56
  match sendRecord q.1 a.t (.route, toBytes 8 (newHead a.t).toNat ++ q.2) with
  | none => { a with full := true }
  | some r =>
    { s := r.1, t := { r.2 with seq := a.t.seq + 1, admitted := a.t.admitted + 1 }
      w := { a.w.writeV d (laneMask p.1) (setLane (a.w.readV d) p.1 a.t.seq) with routed := a.w.routed ||| BitVec.ofNat 32 (1 <<< p.1) } }

def execRouteAdmit (f : Fields) (s : State) : Host.Outcome State Fault Refusal :=
  execute s f fun s x => do
    let b ← blockOf s x.w
    let t ← setOf s x.w (x.s f.a.toNat)
    if t.st = .closed ∧ x.w.routed &&& x.act = 0 then .ok (retire s (x.w.setZ x.slices true) x.g) else do
    let ps ← spadRuns b x.w.core (x.s f.b.toNat).toNat 8 56 (lanesOf (x.en &&& ~~~ x.w.routed))
    let q ← releaseBefore s x (some (routerScope x.w t.die))
    let a := ps.foldl (admitLane b f.d.toNat) { s := q.1, t, w := x.w }
    if a.full then .error (.held (setWarp (putSet a.s a.t) (a.w.setGroup { x.g with wait := .retry })))
    else .ok (retire (putSet a.s a.t) { a.w.setZ x.slices false with routed := a.w.routed &&& ~~~ x.act } x.g)

/-! ### Pops (14/R335) -/

/-- The lowest free place among a router's held records. -/
def freePlace (s : State) (die : Nat) : Option Nat :=
  (List.range 4096).find? fun i => !(s.held.any fun h => h.die == die && h.place == i)

/-- A ticket for a record of a stage queue. -/
def ticket (die place : Nat) (retry : Bool) : W32 :=
  BitVec.ofNat 32 (2 ^ 31 + (if retry then 2 ^ 30 else 0) + 2 ^ 15 + die * 2 ^ 12 + place)

/-- What pops leave: the state, the set, and the tickets. -/
structure Pop where
  s : State
  t : StageSet
  tickets : List (Nat × W32) := []

/-- One lane pops. -/
def popLane (block by_ sel : Nat) (a : Pop) (p : Nat × Bool × Nat) : Pop :=
  let none_ : Pop := { a with tickets := a.tickets ++ [(p.1, 0)] }
  let ring := a.t.queue sel
  match ring.waiting with
  | [] => none_
  | slot :: rest =>
    let bytes := ringRead a.s ring slot
    if sel < 8 then
      match freePlace a.s a.t.die with
      | none => none_
      | some place =>
        let mine := fun (r : RetryMark) => r.die == a.t.die && r.set == a.t.num && r.ctx == a.t.ctx && r.stage == sel && r.slot == slot
        let retry := a.s.retries.any mine
        let s1 := spadWrite a.s block by_ p.2 bytes
        let h : HeldRec := { die := a.t.die, place, set := a.t.num, stage := sel, slot, ctx := a.t.ctx, block, poppedAt := a.s.clk, retry }
        { s := { s1 with held := s1.held ++ [h], retries := s1.retries.filter fun r => !mine r }
          t := a.t.setQueue sel { ring with waiting := rest }
          tickets := a.tickets ++ [(p.1, ticket a.t.die place retry)] }
    else
      let s1 := spadWrite a.s block by_ p.2 bytes
      let q := tryHolding s1 (a.t.setQueue sel ({ ring with waiting := rest }.release slot))
      { s := q.1, t := q.2, tickets := a.tickets ++ [(p.1, BitVec.ofNat 32 (2 ^ 31))] }

def execRoutePop (f : Fields) (s : State) : Host.Outcome State Fault Refusal :=
  execute s f fun s x => do
    let b ← blockOf s x.w
    let sel := bits f.imm 3 0
    let t ← setOf s x.w (x.s f.a.toNat)
    selCheck s t sel
    let ps ← spadRuns b x.w.core (x.s f.b.toNat).toNat 0 64 (lanesOf x.en)
    let a := ps.foldl (popLane b.id (2 * x.w.id) sel) { s, t }
    let got := a.tickets.any fun q => q.2 != 0
    let done := t.drained && (t.queue sel).waiting == []
    if !got && !bit f.imm 4 && !done then .error (.wait .retry)
    else
      let s1 := putSet a.s a.t
      let s2 := if got then acquireAt s1 (whoOf s1 x.w) (levelFor s1 x.w (routerScope x.w t.die)) else s1
      let d := f.d.toNat
      let w := x.w.writeV d (a.tickets.foldl (fun m q => m ||| laneMask q.1) 0)
        (a.tickets.foldl (fun v q => setLane v q.1 q.2) (x.w.readV d))
      .ok (retire s2 (w.setZ x.slices (!got)) x.g)

/-! ### Verdicts (14/R337, R339) -/

/-- A lane of a `route.verd` that holds a ticket: lane, ticket, verdict. -/
structure Verd where
  lane : Nat
  tic : W32
  code : W32

/-- The record a ticket names, if the block holds it. -/
def heldBy (s : State) (block : Nat) (tic : W32) : Option HeldRec :=
  if bit tic 15 then
    s.held.find? fun h => h.die == bits tic 13 12 && h.place == bits tic 11 0 && h.block == block
  else none

/-- The bytes of a held record. -/
def heldBytes (s : State) (h : HeldRec) : List Byte :=
  match findSet s h.die h.set with
  | some t => ringRead s (t.ring h.stage) h.slot
  | none => []

/-- Every lane's ticket and verdict checked, in lane order; a record named twice faults at the second lane. -/
def verdCheck (s : State) (block : Nat) : List Verd → List (Nat × Nat) → Except Stop Unit
  | [], _ => .ok ()
  | v :: r, seen =>
    let tag := bits v.tic 15 0
    match heldBy s block v.tic with
    | none => .error (routerFault s 4 0 tag)
    | some h =>
      if seen.contains (h.die, h.place) then .error (routerFault s 4 0 tag)
      else if 2 < v.code.toNat then .error (routerFault s 5 (recHead (heldBytes s h)) tag)
      else verdCheck s block r ((h.die, h.place) :: seen)

/-- One verdict on a held record; none while the holding store is full. -/
def giveVerdict (s : State) (h : HeldRec) (code : Nat) (payload : List Byte) : Option State :=
  match findSet s h.die h.set with
  | none => some { s with held := s.held.filter fun y => !(y.die == h.die && y.place == h.place) }
  | some t =>
    let i := h.stage
    let bytes := heldBytes s h
    let t1 := if h.retry then t else countVerdict t i (code != 1) (s.clk - h.poppedAt)
    let bytes := if code = 2 then bytes.take 8 ++ payload else bytes
    let r := if code = 1 then
        let a := resolve s t1 (headSeq (recHead bytes))
        sendRecord a.1 a.2 (.drop, bytes)
      else sendRecord s t1 (.route, passHead bytes i)
    match r with
    | none => none
    | some a =>
      let s1 := { a.1 with held := a.1.held.filter fun y => !(y.die == h.die && y.place == h.place) }
      let q := tryHolding s1 (a.2.setQueue i ((a.2.ring i).release h.slot))
      some (putSet q.1 q.2)

/-- What the lanes of a `route.verd` leave. -/
structure Verdicts where
  s : State
  routed : W32
  full : Bool := false

/-- One lane gives its verdict. -/
def verdLane (b : Block) (places : List (Nat × Bool × Nat)) (a : Verdicts) (v : Verd) : Verdicts :=
  if a.full then a else
  match heldBy a.s b.id v.tic with
  | none => a
  | some h =>
    let q := match places.find? (·.1 == v.lane) with
      | some p => spadRead a.s b p.2 56
      | none => (a.s, [])
    match giveVerdict q.1 h v.code.toNat q.2 with
    | none => { a with full := true }
    | some s => { s, routed := a.routed ||| BitVec.ofNat 32 (1 <<< v.lane) }

def execRouteVerd (f : Fields) (s : State) : Host.Outcome State Fault Refusal :=
  execute s f fun s x => do
    let b ← blockOf s x.w
    let vs : List Verd := ((lanesOf (x.en &&& ~~~ x.w.routed)).map fun L =>
      { lane := L, tic := lane (x.src.readV f.a.toNat) L, code := lane (x.src.readV f.b.toNat) L : Verd }).filter fun v => bit v.tic 31
    let places ← spadRuns b x.w.core (x.s f.c.toNat).toNat 8 56 ((vs.filter (·.code == 2)).map (·.lane))
    verdCheck s b.id vs []
    let own := vs.all fun v => bits v.tic 13 12 == dieOf x.w.core
    let q ← releaseBefore s x (if vs.isEmpty then none else some (if own then .die else .device))
    let a := vs.foldl (verdLane b places) { s := q.1, routed := x.w.routed }
    if a.full then .error (.held (setWarp a.s ({ x.w with routed := a.routed }.setGroup { x.g with wait := .retry })))
    else .ok (retire a.s { x.w with routed := a.routed &&& ~~~ x.act } x.g)

/-! ### Statistics (14/R346) -/

/-- The number of a set's state. -/
def setStateNo (t : StageSet) : Nat := if t.st = .opened then 0 else if t.drained then 2 else 1

/-- A statistic; none where the manual gives no value: p, c and the verdict count of a ring that is no stage's, and NEXT of
a set whose sink is not ordered. -/
def statItem (t : StageSet) (sel item : Nat) : Option Nat :=
  match item with
  | 0 => if 8 ≤ sel then none else some (t.stage sel).p
  | 1 => if 8 ≤ sel then none else some (t.stage sel).c
  | 2 => some (t.queue sel).used.length
  | 3 => some (t.queue sel).cap
  | 4 => if 8 ≤ sel then none else some (t.stage sel).wn
  | 5 => some (if 8 ≤ sel ∨ (t.stage sel).eff = true then 0 else t.weight sel)
  | 6 => some t.lfsr.toNat
  | 7 => if t.ord then some t.next.toNat else none
  | 8 => some (setStateNo t)
  | _ => some t.admitted

def execRouteStat (f : Fields) (s : State) : Host.Outcome State Fault Refusal :=
  execute s f fun s x => do
    let t ← setOf s x.w (x.s f.a.toNat)
    let sel := bits f.imm 3 0
    selCheck s t sel
    match statItem t sel (bits f.imm 7 4) with
    | some v => .ok (retire s (x.w.setS x.slices f.d.toNat (BitVec.ofNat 64 v)) x.g)
    | none =>
      let n := fresh s
      .ok (retire n.2 (x.w.setS x.slices f.d.toNat (BitVec.ofNat 64 n.1)) x.g)

/-- The holding store tries its records (14/R340), and so do held records of blocks that have gone. -/
def execHoldingStoreRetry (die set : Nat) (s : State) : Host.Outcome State Fault Refusal :=
  event s fun s => match findSet s die set with
    | none => s
    | some t =>
      let q := tryHolding s t
      let s1 := putSet q.1 q.2
      returnAll s1 (s1.held.filter fun h => h.die == die && h.set == set && h.ctx == t.ctx && (findBlock s1 h.block).all (·.ended))

end Sys2Proof.Machine
end

