-- ==== Sys2Proof/Machine/System.lean ====
section
/-! DEFINITION. The system instructions (15/R366): control and status registers (08/R183), traps, `halt`, permits and
clocks. -/

namespace Sys2Proof.Machine

/-! ### Control and status registers (08/R183) -/

/-- PERMITS and PWRSTAT (26/R452). -/
def pwrstat (d : Die) : W64 := BitVec.ofNat 64 (permax d.profile * 2 ^ 32 + d.clkMhz % 65536 * 65536 + d.profile % 8)

def permitsWord (d : Die) (w : Warp) : W64 := BitVec.ofNat 64 (w.permits % 65536 * 65536 + d.out % 65536)

/-- A retention register of a die as a context reads it (04/R65). -/
def rtnRead (s : State) (die ctx n : Nat) : W64 :=
  ((s.rtn.find? fun r => r.die == die && r.num == n && r.ctx == ctx).map (·.word)).getD 0

/-- A register of a slice's warp, core, die, context or of the device. -/
def csrRead (s : State) (w : Warp) (c : Ctx) (j n : Nat) : W64 :=
  let d := getDie s (dieOf w.core)
  match n with
  | 0x010 => (w.slice j).fmt.setWidth 64
  | 0x011 => w.tvec
  | 0x012 => w.tepc
  | 0x013 => w.tcause
  | 0x014 => w.tinfo
  | 0x0C0 => c.cfg
  | 0x0C1 => c.root
  | 0x0C2 => c.rng
  | 0x0C3 => c.fltq
  | 0x0D8 => if s.fused.contains (clusterOf w.core) then 1 else 0
  | 0x0D9 => tabGet 0 s.l2cnt w.core
  | 0x0E0 => c.srseed.setWidth 64
  | 0x100 => BitVec.ofNat 64 s.prioShift
  | 0x101 => BitVec.ofNat 64 (s.dlscr * 256 + s.dlres)
  | 0x200 => c.routeseed.setWidth 64
  | 0x300 => pwrstat d
  | 0x301 => permitsWord d w
  | _ => rtnRead s (dieOf w.core) w.ctx (n - 0x0D0)

def execCsrr (f : Fields) (s : State) : Host.Outcome State Fault Refusal :=
  execute s f fun s x => do
    let c ← ctxOf s x.w
    let n := bits f.imm 11 0
    .ok (retire s (x.slices.foldl (fun w j => w.writeS j f.d.toNat (csrRead s x.src c j n)) x.w) x.g)

/-- What `csrw` does to the warp: FMT by slice from each slice's own register, the trap registers from the elected one. -/
def csrWarp (x : Exe) (n a : Nat) : Warp :=
  match n with
  | 0x010 => x.slices.foldl (fun w j => w.setSlice j { w.slice j with fmt := ((x.src.readS j a).setWidth 16).setWidth 32 }) x.w
  | 0x011 => { x.w with tvec := x.s a }
  | 0x012 => { x.w with tepc := x.s a }
  | _ => x.w

/-- What it does to the core and the context. -/
def csrWrite (s : State) (w : Warp) (c : Ctx) (n : Nat) (v : W64) : State :=
  match n with
  | 0x0D9 => { s with l2cnt := tabSet 0 s.l2cnt w.core v }
  | 0x0E0 => setLfsr (setCtx s { c with srseed := v.setWidth 32 }) w.core (lfsrSeed (v.setWidth 32) w.core)
  | 0x200 => setCtx s { c with routeseed := v.setWidth 32 }
  | _ => s

def execCsrw (f : Fields) (s : State) : Host.Outcome State Fault Refusal :=
  execute s f fun s x => do
    let c ← ctxOf s x.w
    let n := bits f.imm 11 0
    .ok (retire (csrWrite s x.w c n (x.s f.a.toNat)) (csrWarp x n f.a.toNat) x.g)

/-! ### Traps and halt -/

def execSyscall (f : Fields) (s : State) : Host.Outcome State Fault Refusal :=
  execute s f fun _ _ => .error (.trap 12 0 (bits f.imm 15 0))

def execEret (f : Fields) (s : State) : Host.Outcome State Fault Refusal :=
  execute s f fun s x =>
    if !x.w.hm then .error illegal
    else match slotIndex x.w.tepc with
      | some t => .ok (setWarp s (returnFrom x.w x.g t))
      | none => .error (.trap 3 (codeAddr x.g.pc).toNat 0)

/-- The context stops and is saved; the group stands behind the `halt`. -/
def execHalt (f : Fields) (s : State) : Host.Outcome State Fault Refusal :=
  execute s f fun s x => do
    let c ← ctxOf s x.w
    if haltRoom s c then .ok (haltCtx (retire s x.w x.g) c (bits f.imm 15 0) (warpIds s x.w 7))
    else .error (.wait .retry)

/-! ### Permits and clocks -/

/-- Unused permits go back; a new request waits at the die's governor. -/
def execPermit (f : Fields) (s : State) : Host.Outcome State Fault Refusal :=
  execute s f fun s x =>
    let die := dieOf x.w.core
    let s1 := returnPermits s die x.w.permits
    let w := { x.w with permits := 0 }
    let n := min f.imm.toNat (permax (getDie s die).profile)
    if n = 0 then .ok (retire s1 w x.g)
    else
      let d := getDie s1 die
      let deadline := ((findBlock s x.w.block).bind fun b => findLaunch s b.launch).any (·.deadline)
      let s2 := putDie s1 die { d with waiting := d.waiting ++ [{ owner := .warp w.id x.g.slices, n, deadline }] }
      .error (.held (setWarp s2 (w.setGroup { x.g with wait := .permits })))

/-- The device timestamp as a die sees it (15/R366). -/
def timestamp (s : State) (die : Nat) : W64 := BitVec.ofNat 64 (s.now + Config.skew die % 64)

def execClkrd (f : Fields) (s : State) : Host.Outcome State Fault Refusal :=
  execute s f fun s x => .ok (retire s (x.w.setS x.slices f.d.toNat (timestamp s (dieOf x.w.core))) x.g)

def execClkrdCore (f : Fields) (s : State) : Host.Outcome State Fault Refusal :=
  execute s f fun s x =>
    .ok (retire s (x.w.setS x.slices f.d.toNat (BitVec.ofNat 64 (tabGet 0 s.coreClk x.w.core))) x.g)

end Sys2Proof.Machine
end

