-- ==== Sys2Proof/Machine/Search.lean ====
section
/-! DEFINITION. `srch`, `kmerge`, `nbcall` and what the Charon controllers do for searches (15/R348-R358, R362, R364). -/

namespace Sys2Proof.Machine

/-! ### Operands and checks (15/R348) -/

/-- The near-bank command fault. -/
def nearBank (cause : Nat) (prog : W64) : Stop :=
  .fault { kind := 17, acc := 7, va := 0, vaFree := true, fatal := true, entry := BitVec.ofNat 64 cause, prog5 := prog }

/-- The first cause whose condition holds. -/
def checkCauses (prog : W64) : List (Nat × Bool) → Except Stop Unit
  | [] => .ok ()
  | (n, bad) :: r => if bad then .error (nearBank n prog) else checkCauses prog r

/-- Needs of the addresses that an engine instruction names: memory of this package, translated at issue (03/R58, R461). -/
def needIn : Need := { perm := 1, acc := 7, peer := false }
def needOut : Need := { perm := 2, acc := 7, writes := true, peer := false }
/-- A frame is read and written; its writes meet a seal when they are made (04/R81). -/
def needFrame : Need := { perm := 3, acc := 7, peer := false }
def needProgram : Need := { perm := 4, acc := 7, peer := false }

/-- A range that passes its checks: the PAs of its 4 KiB pages. -/
def namedRange (s : State) (c : Ctx) (n : Need) (prog : W64) (va len : Nat) : Except Stop (List Nat) :=
  match checkRange s c n va len with
  | .error f => .error (.fault { f with prog5 := prog })
  | .ok _ => .ok ((List.range ((va + len + 4095) / 4096 - va / 4096)).map fun i =>
      match lookup s c ((va / 4096 + i) * 4096) 7 with | .ok x => x.pa | .error _ => 0)

/-- PA of a byte of such a range. -/
def pageByte (va : Nat) (pages : List Nat) (i : Nat) : Nat := pages.getD ((va + i) / 4096 - va / 4096) 0 + (va + i) % 4096

/-- Bytes of such a range, read at their homes. -/
def pageBytes (s : State) (va : Nat) (pages : List Nat) (off n : Nat) : List Byte :=
  (List.range n).map fun i => homeByte s (pageByte va pages (off + i))

/-- The first read of a range that meets an error. -/
def pageError (s : State) (va : Nat) (pages : List Nat) (off n : Nat) : Option Flt :=
  (List.range n).findSome? fun i =>
    (badRead s (pageByte va pages (off + i))).map fun src => mcFault src (pageByte va pages (off + i)) (va + off + i) 7

/-- Such a range is read through the LLC. -/
def pageTouch (s : State) (va : Nat) (pages : List Nat) (off n : Nat) : State :=
  llcRead s ((List.range ((n + 127) / 128 + 1)).map fun i => pageByte va pages (off + min (128 * i) (n - 1)))

/-- Bytes written to such a range at their homes. -/
def pageWrite (s : State) (va : Nat) (pages : List Nat) (bytes : List Byte) : State :=
  homeStore s (bytes.mapIdx fun i b => (pageByte va pages i, b))

/-- The slot index of a program's code address. -/
def programSlot (a : W64) : Nat := (slotIndex a).getD 0

/-! ### Index descriptors (15/R349-R350) -/

def dim (w2 : W64) : Nat := bits w2 47 32
def efmt (w2 : W64) : Nat := bits w2 55 48
def metric (w2 : W64) : Nat := bits w2 63 56

/-- METRIC aside, word 2 lies in its ranges. -/
def vecOk (w2 : W64) : Bool := [11, 2, 3, 9].contains (efmt w2) && 1 ≤ dim w2 && dim w2 ≤ 4096

/-- Element width and bytes of a vector. -/
def elemWidth (w2 : W64) : Nat := if efmt w2 = 2 ∨ efmt w2 = 3 then 16 else 8
def vecBytes (w2 : W64) : Nat := (dim w2 * elemWidth w2 + 127) / 128 * 16

/-- The fields of the other words. -/
def descEntry (d : List W64) : W32 := (d.getD 3 0).extractLsb' 32 32
def descShift (d : List W64) : Nat := bits (d.getD 3 0) 23 16
def descDeg (d : List W64) : Nat := bits (d.getD 3 0) 15 0
def descStack (d : List W64) (j : Nat) : Nat := bits (d.getD (4 + j / 8) 0) (8 * (j % 8) + 7) (8 * (j % 8))
def descTable (d : List W64) (j : Nat) : Nat := bits (d.getD (8 + j / 2) 0) (32 * (j % 2) + 31) (32 * (j % 2))

/-- Shard of a node, and the size of a record. -/
def shardOf (d : List W64) (node : W32) : Nat := node.toNat / 2 ^ descShift d
def recSize (d : List W64) (w2 : W64) : Nat := 16 + vecBytes w2 + 8 * descDeg d

/-- A field outside 15/R349, or an entry whose shard is 16 or more. -/
def descriptorBad (d : List W64) (w2 : W64) : Bool :=
  bits (d.getD 0 0) 63 32 != 0 || 1 < metric w2 || !vecOk w2 || bits (d.getD 3 0) 31 24 != 0 || 31 < descShift d
    || descDeg d == 0 || 1024 < descDeg d || (List.range 16).any (fun j => 16 ≤ descStack d j)
    || d.getD 6 0 != 0 || d.getD 7 0 != 0 || 16 ≤ shardOf d (descEntry d)

/-! ### srch (15/R353) -/

def execSrch (f : Fields) (s : State) : Host.Outcome State Fault Refusal :=
  execute s f fun s x => do
    let flag := tiedFlag x.g f
    tieCheck x.w flag
    let c ← ctxOf s x.w
    let r := fun (i : Nat) => x.s (f.a.toNat + i)
    let prog : W64 := BitVec.ofNat 64 (8 * 2 ^ 56)
    let k := bits (r 2) 10 0
    let o ← barOf s x.w (bits (r 5) 15 0)
    checkCauses prog [
      (1, k == 0 || 1024 < k || bits (r 2) 63 11 != 0 || bits (r 3) 63 32 != 0 || bits (r 5) 63 16 != 0 || bits (r 7) 63 32 != 0),
      (2, (r 0).toNat % 16 != 0 || (r 4).toNat % 16 != 0 || (r 1).toNat % 64 != 0 || (slotIndex (r 6)).isNone)]
    let dva := (r 1).toNat
    let dpas ← namedRange s c needIn prog dva 128
    match pageError s dva dpas 16 8 with
    | some e => .error (.fault { e with prog5 := prog })
    | none => do
      let w2 := word64 (pageBytes s dva dpas 16 8) 0
      let qpas ← namedRange s c needIn prog (r 0).toNat (if vecOk w2 then vecBytes w2 else 16)
      let rpas ← namedRange s c needOut prog (r 4).toNat (16 + 8 * k)
      let pc := programSlot (r 6)
      let _ ← namedRange s c needProgram prog (lineVa pc) 64
      let n := newId (pageTouch s dva dpas 16 8)
      let p := requestPermit n.2 x.w (.query n.1)
      let q : Query := {
        id := n.1, ctx := x.w.ctx, warp := x.w.id, block := x.w.block, core := x.w.core, flag, noprune := bit f.sub 0
        qva := (r 0).toNat, qpas, dva, dpas, k, snap := (r 3).setWidth 32, resva := (r 4).toNat, rpas, owner := o.1, bar := o.2
        prog := pc, budget := if r 7 = 0 then 2 ^ 32 - 1 else (r 7).toNat, word2 := w2, ids := warpIds s x.w 7, permit := p.2.2 }
      .ok (retire { p.1 with queries := p.1.queries ++ [q] } (p.2.1.raise flag)
        { x.g with wait := if flag = none then .query n.1 else x.g.wait })

/-! ### Installation, heaps and results (15/R354-R356) -/

def findQuery (s : State) (id : Nat) : Option Query := s.queries.find? (·.id == id)
def setQuery (s : State) (q : Query) : State := { s with queries := updWhere (·.id == q.id) (fun _ => q) s.queries }

/-- The descriptor as its home holds it, with word 2 as read at issue. -/
def readDescriptor (s : State) (q : Query) : List W64 :=
  let b := pageBytes s q.dva q.dpas 0 128
  setNth ((List.range 16).map fun i => word64 b (8 * i)) 2 q.word2

/-- Its permit is held. -/
def permitted (p : PermitSt) : Bool := p == .held || p == .reserved

/-- The base dies that MAP names. -/
def mapDies (d : List W64) : List Nat := ((List.range 16).map (descStack d)).eraseDups

/-- The context is on the device, and not saved (17/R401). -/
def ctxLoaded (s : State) (slot : Nat) : Bool := (findCtx s slot).any (·.loaded)

/-- Searches in a base die's query table. -/
def tableCount (s : State) (base : Nat) : Nat :=
  (s.queries.filter fun q => q.installed && ctxLoaded s q.ctx && (mapDies q.desc).contains base).length

/-- The home of a query: the owner of ENTRY, none for an entry whose shard is 16 or more. -/
def homeOfQuery (d : List W64) : Option Nat :=
  let j := shardOf d (descEntry d)
  if j < 16 then some (descStack d j) else none

/-- A query is admitted at its home: the table there has room, and no running one that came before it waits there
(15/R354 step 1). -/
def mayAdmit (s : State) (q : Query) : Bool :=
  match homeOfQuery (readDescriptor s q) with
  | none => true
  | some home => tableCount s home < 1024
    && (s.queries.takeWhile (·.id != q.id)).all fun p =>
      p.installed || !permitted p.permit || !ctxRuns s p.ctx || homeOfQuery (readDescriptor s p) != some home

/-- Every base die that MAP names has room in its table (step 4). -/
def tablesFree (s : State) (d : List W64) : Bool := (mapDies d).all fun b => tableCount s b < 1024

/-- The sentinel distance of an element format. -/
def sentinel (w2 : W64) : W32 := if efmt w2 = 11 then 0x7FFFFFFF else 0x7F800000

/-- The result record (15/R356): STATUS, EVALS, SNAP and the entries, filled to `k`. -/
def resultBytes (status evals snap : W32) (entries : List (W32 × W32)) (k : Nat) (fill : W32) : List Byte :=
  let word := fun (hi lo : W32) => toBytes 4 lo.toNat ++ toBytes 4 hi.toNat
  word status (BitVec.ofNat 32 entries.length) ++ word evals snap
    ++ (entries ++ List.replicate (k - entries.length) (fill, (0xFFFFFFFF : W32))).flatMap fun (e : W32 × W32) => word e.2 e.1

/-- The search is over: the result at the home, then the completion to the barrier; its permit goes back. -/
def endSearch (s : State) (q : Query) (entries : List (W32 × W32)) : State :=
  let s := pageWrite s q.resva q.rpas
    (resultBytes (q.status.setWidth 32) (BitVec.ofNat 32 q.evals) q.snap entries q.k (sentinel q.word2))
  let s := deliverTo (dropPermit s (dieOf q.core) q.permit) q.owner q.bar
  { s with
    queries := s.queries.filter (·.id != q.id)
    walkers := s.walkers.filter (·.query != q.id)
    msgs := s.msgs.filter (·.query != q.id)
    pushes := s.pushes.filter (·.query != q.id) }

/-- The instruction has completed: its flag falls, or its warp goes on. -/
def installed (s : State) (q : Query) : State :=
  match findWarp s q.warp with
  | some w => setWarp s (endWait (w.lower q.flag) (· == .query q.id))
  | none => s

/-- Lines of a program from its first on, up to a limit and before the first that does not translate with execute permission;
each with its PA. -/
def programLines (s : State) (c : Ctx) (prog : Nat) : Nat → Nat → List (Nat × FetchLine)
  | 0, _ => []
  | n + 1, i =>
    match checkByte s c needProgram (lineVa prog + 64 * i) with
    | .error _ => []
    | .ok x => (x.pa, homeFetch s x.pa) :: programLines s c prog n (i + 1)

/-- A machine check that an engine consumes: the record and the kill of its block (17/R396); none while the queue is full. -/
def engineCheck (s : State) (ctx block : Nat) (ids : W64) (f : Flt) : Option State :=
  match findCtx s ctx with
  | none => none
  | some c =>
    if fltFull s c then none else some (killBlock (logFault (putRecord s c f ids false false 0) f) block .fault)

/-- Walkers at a base die. -/
def walkersAt (s : State) (base : Nat) : Nat :=
  (s.walkers.filter fun w => w.base == base && (findQuery s w.query).any fun q => ctxLoaded s q.ctx).length

/-- A new walker, or its message while no walker context is free (15/R361). -/
def placeWalker (s : State) (m : WalkerMsg) (entry : Entry) : State :=
  if walkersAt s m.base < 16384 then
    let w := tabSet 0 (m.regs.zipIdx.foldl (fun (t : Tab W64) r => tabSet 0 t r.2 r.1) []) 0 m.node
    { s with walkers := s.walkers ++ [{ id := m.id, query := m.query, base := m.base, w, pc := m.pc, entry, hops := m.hops }] }
  else { s with msgs := s.msgs ++ [m] }

/-- Installation of a query (15/R354). -/
def installQuery (s : State) (c : Ctx) (q : Query) : State :=
  if !mayAdmit s q then s else
  match (match pageError s q.dva q.dpas 0 128 with
      | some e => some e
      | none => if vecOk q.word2 then pageError s q.qva q.qpas 0 (vecBytes q.word2) else none) with
  | some e =>
    match engineCheck s q.ctx q.block q.ids { e with prog5 := BitVec.ofNat 64 (8 * 2 ^ 56 + q.id % 2 ^ 32) } with
    | none => s
    | some s1 =>
      let s2 := dropPermit s1 (dieOf q.core) q.permit
      installed { s2 with queries := s2.queries.filter (·.id != q.id) } q
  | none =>
    let d := readDescriptor s q
    let s := pageTouch s q.dva q.dpas 0 128
    let snap : W32 := if q.snap = 0 then (d.getD 0 0).setWidth 32 else q.snap
    if descriptorBad d q.word2 then endSearch (installed s q) { q with snap, status := 0x40 } []
    else if !tablesFree s d then s
    else
      let home := descStack d (shardOf d (descEntry d))
      let ls := programLines s c q.prog 256 0
      let q1 := { q with
        installed := true, snap, desc := d, home, lines := ls.map (·.2), linePas := ls.map (·.1)
        qvec := pageBytes s q.qva q.qpas 0 (vecBytes q.word2)
        bad := (ls.zipIdx.filter fun l => (badRead s l.1.1).isSome).map (·.2) }
      let s := llcRead (pageTouch s q.qva q.qpas 0 (vecBytes q.word2)) (ls.map (·.1))
      let n := newId (installed (setQuery s q1) q1)
      let node := zx64 (descEntry d)
      placeWalker n.2 { id := n.1, query := q.id, spawn := true, base := home, node, regs := [], pc := q.prog, hops := 0 } .resume

def execQueryInstall (query : Nat) (s : State) : Host.Outcome State Fault Refusal :=
  event s fun s => match findQuery s query with
    | none => s
    | some q => match findCtx s q.ctx with
      | none => s
      | some c => if !q.installed && permitted q.permit && ctxRuns s q.ctx then installQuery s c q else s

/-- The value of a distance: s32 for INT8 indexes, else f32. -/
def distVal (int8 : Bool) (d : W32) : Val := if int8 then ofInt d.toInt else f32Fmt.value d.toNat

/-- The order of entries: by distance, equal distances by id. -/
def entryBefore (int8 : Bool) (a b : W32 × W32) : Bool :=
  match cmpVal (distVal int8 a.1) (distVal int8 b.1) with
  | some .lt => true
  | some .gt => false
  | some .eq => a.2.toNat < b.2.toNat
  | none => !(distVal int8 a.1).isNan || ((distVal int8 b.1).isNan && a.2.toNat < b.2.toNat)

/-- Of two distances of one id, the smaller; of two equal ones the lower bit pattern. -/
def lessDist (int8 : Bool) (a b : W32) : Bool :=
  match cmpVal (distVal int8 a) (distVal int8 b) with
  | some .lt => true
  | some .gt => false
  | some .eq => a.toNat < b.toNat
  | none => if (distVal int8 a).isNan = (distVal int8 b).isNan then a.toNat < b.toNat else (distVal int8 b).isNan

/-- Insertion in order. -/
def insertEntry (int8 : Bool) (e : W32 × W32) : List (W32 × W32) → List (W32 × W32)
  | [] => [e]
  | x :: r => if entryBefore int8 e x then e :: x :: r else x :: insertEntry int8 e r

/-- A push at the home heap (15/R355). -/
def heapPush (int8 : Bool) (k : Nat) (h : List (W32 × W32)) (e : W32 × W32) : List (W32 × W32) :=
  match h.find? (·.2 == e.2) with
  | some x => if lessDist int8 e.1 x.1 then insertEntry int8 e (h.filter (·.2 != e.2)) else h
  | none => (insertEntry int8 e h).take k

def isInt8 (q : Query) : Bool := efmt q.word2 == 11

def execHeapPushArrive (push : Nat) (s : State) : Host.Outcome State Fault Refusal :=
  event s fun s => match s.pushes.find? (·.id == push) with
    | none => s
    | some p =>
      let s := { s with pushes := s.pushes.filter (·.id != push) }
      match findQuery s p.query with
      | none => s
      | some q => if q.ended then s else setQuery s { q with heap := heapPush (isInt8 q) q.k q.heap (p.dist, p.node) }

/-- The home sends the k-th distance to the query's base dies (15/R360). -/
def execBoundBroadcast (query : Nat) (s : State) : Host.Outcome State Fault Refusal :=
  event s fun s => match findQuery s query with
    | none => s
    | some q =>
      match q.heap[q.k - 1]? with
      | none => s
      | some e =>
        let v := if isInt8 q then sx64 e.1 else zx64 e.1
        setQuery s { q with bounds := (mapDies q.desc).foldl (fun t b => tabSet none t b (some v)) [] }

/-- The search ends (15/R356): nothing of it is left, or the budget has ended it. -/
def execSearchEnd (query : Nat) (s : State) : Host.Outcome State Fault Refusal :=
  event s fun s => match findQuery s query with
    | none => s
    | some q =>
      let idle := !(s.walkers.any (·.query == query)) && !(s.msgs.any (·.query == query)) && !(s.pushes.any (·.query == query))
      if q.installed && ctxRuns s q.ctx && (idle || q.ended) then endSearch s q q.heap else s

/-- A hop or spawn message finds a free walker context (15/R361). -/
def execWalkerMessageArrive (msg : Nat) (s : State) : Host.Outcome State Fault Refusal :=
  event s fun s => match s.msgs.find? (·.id == msg) with
    | none => s
    | some m =>
      let live := (findQuery s m.query).any fun q => ctxRuns s q.ctx
      if live && walkersAt s m.base < 16384 then
        placeWalker { s with msgs := s.msgs.filter (·.id != msg) } m (if m.regs == [] then .resume else .transfer m.pc)
      else s

/-! ### kmerge (15/R362) -/

def execKmerge (f : Fields) (s : State) : Host.Outcome State Fault Refusal :=
  execute s f fun s x => do
    tieCheck x.w (tiedFlag x.g f)
    let c ← ctxOf s x.w
    let r := fun (i : Nat) => x.s (f.a.toNat + i)
    let id := bits (r 1) 7 0
    let prog : W64 := BitVec.ofNat 64 (9 * 2 ^ 56 + id)
    let tree := tabGet {} s.trees id
    let root := bit tree.word 62
    let k := bits (r 2) 10 0
    let o ← if bit tree.word 63 && root then barOf s x.w (bits (r 3) 15 0) else .ok (.warp x.w.id, 0)
    checkCauses prog [
      (1, k == 0 || 1024 < k || bits (r 1) 31 8 != 0 || bits (r 2) 63 11 != 0 || bits (r 3) 63 16 != 0),
      (2, (r 0).toNat % 64 != 0 || (root && (r 4).toNat % 16 != 0)), (4, !bit tree.word 63)]
    let va := (r 0).toNat
    let hpas ← namedRange s c needIn prog va 16
    match pageError s va hpas 0 16 with
    | some e => .error (.fault { e with prog5 := prog })
    | none => do
      let h := pageBytes s va hpas 0 16
      let n := min (bits (word64 h 0) 31 0) k
      let pas ← namedRange s c needIn prog va (16 + 8 * n)
      let rpas ← if root then namedRange s c needOut prog (r 4).toNat (16 + 8 * k) else .ok []
      match pageError s va pas 16 (8 * n) with
      | some e => .error (.fault { e with prog5 := prog })
      | none =>
        let b := pageBytes s va pas 16 (8 * n)
        let entries := (List.range n).map fun i =>
          let e := word64 b (8 * i)
          ((e.setWidth 32 : W32), (e.extractLsb' 32 32 : W32))
        let m := newId (pageTouch s va pas 0 (16 + 8 * n))
        let t : Contribution := {
          tree := id, round := (r 1).extractLsb' 32 32, k, status := (word64 h 0).extractLsb' 32 32
          evals := (word64 h 8).extractLsb' 32 32, snap := (word64 h 8).setWidth 32, entries, loc := some m.1, sender := none }
        .ok (retire { m.2 with
          kmcmds := m.2.kmcmds ++ [{ id := m.1, ctx := x.w.ctx, resva := (r 4).toNat, rpas, owner := o.1, bar := o.2, k }]
          kmflight := m.2.kmflight ++ [{ id := m.1, k := t }] } x.w x.g)

/-! ### nbcall (15/R364) -/

/-- A translation that gives another layout than channel-local. -/
def otherLayout (s : State) (c : Ctx) (va : Nat) : Bool :=
  match lookup s c va 7 with
  | .ok x => x.layout != 2
  | .error _ => false

/-- The frames translate, each with channel-local layout; the PAs of their pages. -/
def frameRanges (s : State) (c : Ctx) (va : Nat) : Nat → Nat → Except Stop (List (List Nat))
  | 0, _ => .ok []
  | n + 1, i => do
    let prog : W64 := BitVec.ofNat 64 (7 * 2 ^ 56 + i)
    let at_ := (va + i * 2 ^ 21) % 2 ^ 64
    let pas ← (match checkRange s c needFrame at_ (2 ^ 21) with
      | .error e => if e.kind = 4 ∧ otherLayout s c e.va = true then .error (nearBank 3 prog) else .error (.fault { e with prog5 := prog })
      | .ok _ =>
        if (List.range 512).any (fun p => otherLayout s c (at_ + 4096 * p)) then .error (nearBank 3 prog)
        else namedRange s c needFrame prog at_ (2 ^ 21))
    let rest ← frameRanges s c va n (i + 1)
    .ok (pas :: rest)

def execNbcall (f : Fields) (s : State) : Host.Outcome State Fault Refusal :=
  execute s f fun s x => do
    let flag := tiedFlag x.g f
    tieCheck x.w flag
    let c ← ctxOf s x.w
    let r := fun (i : Nat) => x.s (f.a.toNat + i)
    let nobar := bit f.sub 0
    let prog : W64 := BitVec.ofNat 64 (7 * 2 ^ 56)
    let n := bits (r 2) 6 0
    let loops := bits (r 3) 15 0
    let o ← if nobar then .ok none else (barOf s x.w (bits (r 4) 15 0)).map some
    checkCauses prog [
      (1, bits (r 2) 63 7 != 0 || bits (r 3) 63 16 != 0 || (!nobar && bits (r 4) 63 16 != 0)), (2, (slotIndex (r 0)).isNone),
      (3, (r 1).toNat % 2 ^ 21 != 0 || n == 0 || 64 < n || loops == 0)]
    let pc := programSlot (r 0)
    let _ ← namedRange s c needProgram prog (lineVa pc) 64
    let frames ← frameRanges s c (r 1).toNat n 0
    let m := newId s
    let p := requestPermit m.2 x.w (.nb m.1)
    let cmd : NbCmd := {
      id := m.1, ctx := x.w.ctx, warp := x.w.id, block := x.w.block, core := x.w.core, flag, bar := o, prog := pc, loops
      va := (r 1).toNat, frames := n, ids := warpIds s x.w 7, permit := p.2.2 }
    let add := fun (s : State) (fr : List Nat × Nat) =>
      let j := newId s
      { j.2 with insts := j.2.insts ++ [{ id := j.1, cmd := m.1, ctx := x.w.ctx, chan := chanOf s (fr.1.headD 0), pages := fr.1
                                          frameIdx := fr.2, pc }] }
    let s1 := frames.zipIdx.foldl add { p.1 with nbcmds := p.1.nbcmds ++ [cmd] }
    .ok (retire s1 (p.2.1.raise flag) { x.g with wait := if flag = none then .nb m.1 else x.g.wait })

end Sys2Proof.Machine
end

