-- ==== Sys2Proof/Machine/Walker.lean ====
section
/-! DEFINITION. Walker instructions (15/R351, R357, R359-R361). -/

namespace Sys2Proof.Machine

/-! ### The issuing walker -/

/-- How a walker ends: the STATUS bit it sets, if any, the address of a consumed memory error, and whether the search ends
with it. -/
structure WalkEnd where
  bit : Option Nat := none
  log : Option Nat := none
  search : Bool := false

def endBit (n : Nat) : WalkEnd := { bit := some n }

def findWalker (s : State) (id : Nat) : Option Walker := s.walkers.find? (·.id == id)
def setWalker (s : State) (w : Walker) : State := { s with walkers := updWhere (·.id == w.id) (fun _ => w) s.walkers }

def Walker.readW (w : Walker) (n : Nat) : W64 := tabGet 0 w.w n
def Walker.writeW (w : Walker) (n : Nat) (x : W64) : Walker := { w with w := tabSet 0 w.w n x }

/-- The walker moves to the next slot. -/
def Walker.next (w : Walker) : Walker := { w with pc := w.pc + 1, entry := if w.pc % 5 = 4 then .fall else w.entry }

/-- A STATUS bit of the query. -/
def Query.mark (q : Query) (n : Nat) : Query := { q with status := q.status ||| BitVec.ofNat 7 (1 <<< n) }

/-- The walker ends. -/
def endWalker (s : State) (w : Walker) (e : WalkEnd) : State :=
  let s := { s with walkers := s.walkers.filter (·.id != w.id) }
  let s := match e.log with
    | some pa => { s with out := s.out ++ [.machineCheckLog (lineOf pa)] }
    | none => s
  match findQuery s w.query with
  | none => s
  | some q =>
    let q := match e.bit with
      | some n => q.mark n
      | none => q
    setQuery s { q with ended := q.ended || e.search }

/-- Run a meaning for the issuing walker. A walker of a search that has ended ends before its next instruction (15/R356). -/
def walkDo (s : State) (body : State → Walker → Query → Except WalkEnd (State × Walker)) : Host.Outcome State Fault Refusal :=
  match s.cur with
  | .walker id =>
    match findWalker s id with
    | none => .fault .noIssuer
    | some w => match findQuery s w.query with
      | none => .next { endWalker s w {} with last := .trapped }
      | some q =>
        if q.ended then .next { endWalker s w {} with last := .trapped }
        else match body s w q with
          | .ok (s', w') => .next { setWalker s' w' with last := .retired }
          | .error e => .next { endWalker s w e with last := .trapped }
  | _ => .fault .noIssuer

/-- Operand B: a register, or the immediate sign-extended. -/
def walkB (w : Walker) (f : Fields) : W64 := if f.bk = .imm then sx64 f.imm else w.readW f.b.toNat

/-- A branch target; one that has no code address ends the walker (08/R167). -/
def walkTarget (w : Walker) (f : Fields) : Except WalkEnd Nat :=
  match slotPlus w.pc f.imm.toInt with
  | some t => .ok t
  | none => .error (endBit 2)

/-! ### Node records (15/R350-R351) -/

/-- Bytes of the record of a node, read at its home through the LLC by the walkers of a base die: a check that fails or a bad read sets bit
5, memory of another base die bit 1 (02/R24). -/
def nodeBytes (s : State) (q : Query) (base : Nat) (node : W32) (off n : Nat) : Except WalkEnd (State × List Byte) :=
 
  match findCtx s q.ctx with
  | none => .error (endBit 5)
  | some c =>
    let j := shardOf q.desc node
    let va := (descTable q.desc j * 2 ^ 21 + node.toNat % 2 ^ descShift q.desc * recSize q.desc q.word2 + off) % 2 ^ 64
    match checkBytes s c { perm := 1, acc := 0, peer := false } va n with
    | .error _ => .error (endBit 5)
    | .ok xs =>
      match xs.find? (fun x => homeOf s x.pa != base), xs.find? (fun x => (badRead s x.pa).isSome) with
      | some _, _ => .error (endBit 1)
      | none, some x => .error { bit := some 5, log := some x.pa }
      | none, none => .ok (llcRead s (xs.map (·.pa)), xs.map fun x => homeByte s x.pa)

/-- The header of a record, read as its two words. -/
def nodeHead (s : State) (q : Query) (base : Nat) (node : W32) : Except WalkEnd (State × W64 × W64) := do
  let b ← nodeBytes s q base node 0 16
  .ok (b.1, word64 b.2 0, word64 b.2 8)

/-- Visible at the snapshot: BIRTH ≤ V < DEATH. -/
def visible (snap : W32) (h : W64) : Bool := bits h 31 0 ≤ snap.toNat && snap.toNat < bits h 63 32

/-- The current node; a walker without one ends. -/
def currentNode (w : Walker) : Except WalkEnd W32 :=
  match w.node with
  | some n => .ok n
  | none => .error (endBit 2)

/-- All ones. -/
def allOnes : W64 := BitVec.allOnes 64

def execWnode (f : Fields) (s : State) : Host.Outcome State Fault Refusal :=
  walkDo s fun s w q => do
    let a := w.readW f.a.toNat
    let node : W32 := a.setWidth 32
    if bits a 63 32 ≠ 0 then .error (endBit 2)
    else if 16 ≤ shardOf q.desc node then .error (endBit 3)
    else if descStack q.desc (shardOf q.desc node) ≠ w.base then .error (endBit 1)
    else
      let (s, h) ← nodeHead s q w.base node
      .ok (s, ({ w with node := some node }.writeW f.d.toNat
        (if visible q.snap h.1 then BitVec.ofNat 64 (bits h.2 15 0) else allOnes)).next)

def execWnbr (f : Fields) (s : State) : Host.Outcome State Fault Refusal :=
  walkDo s fun s w q => do
    let node ← currentNode w
    let (s, h) ← nodeHead s q w.base node
    let e := (w.readW f.a.toNat).toNat
    if e < bits h.2 15 0 ∧ e < descDeg q.desc then
      let (s, b) ← nodeBytes s q w.base node (16 + vecBytes q.word2 + 8 * e) 8
      let x := word64 b 0
      .ok (s, (w.writeW f.d.toNat (if bits x 63 32 ≤ q.snap.toNat then BitVec.ofNat 64 (bits x 31 0) else allOnes)).next)
    else .ok (s, (w.writeW f.d.toNat allOnes).next)

def execWld (f : Fields) (s : State) : Host.Outcome State Fault Refusal :=
  walkDo s fun s w q => do
    let node ← currentNode w
    let off := (w.readW f.a.toNat + sx64 f.imm).toNat
    if off % 8 ≠ 0 ∨ recSize q.desc q.word2 ≤ off then .error (endBit 5)
    else
      let (s, b) ← nodeBytes s q w.base node off 8
      .ok (s, (w.writeW f.d.toNat (word64 b 0)).next)

/-- The visited filter (15/R360): exact up to 65,536 nodes for each query and base die. Beyond, a node that it holds may
still read as new, and one that it does not hold is not kept. -/
def execWseen (f : Fields) (s : State) : Host.Outcome State Fault Refusal :=
  walkDo s fun s w q => do
    let node ← currentNode w
    let here := (q.seen.filter (·.1 == w.base)).length
    let d := f.d.toNat
    if q.seen.contains (w.base, node) then
      if !q.full.contains w.base then .ok (s, (w.writeW d 1).next)
      else
        let n := fresh s
        .ok (n.2, (w.writeW d (BitVec.ofNat 64 (n.1 % 2))).next)
    else if here < 65536 then .ok (setQuery s { q with seen := (w.base, node) :: q.seen }, (w.writeW d 0).next)
    else .ok (setQuery s { q.mark 4 with full := (w.base :: q.full).eraseDups }, (w.writeW d 0).next)

/-! ### Distances (15/R357) -/

/-- Element `i` of a packed vector. -/
def vecCode (w2 : W64) (b : List Byte) (i : Nat) : Nat :=
  let n := elemWidth w2 / 8
  ofBytes ((b.drop (n * i)).take n)

/-- The value of an element of a float format; DM8 as 05/R95 decodes it. -/
def vecVal (w2 : W64) (code : Nat) : Val := if efmt w2 = 9 then e8m11 (dm8Value 0 code) else elemValue (efmt w2) code

/-- The exact distance of INT8 vectors. -/
def intDistance (w2 : W64) (q x : List Byte) : Int :=
  let e := fun (b : List Byte) (i : Nat) => sextNat 8 (vecCode w2 b i)
  let sum := (List.range (dim w2)).foldl (fun (a : Int) i =>
    if metric w2 = 0 then a + (e q i - e x i) * (e q i - e x i) else a + e q i * e x i) 0
  if metric w2 = 0 then sum else -sum

/-- The terms of a group of 16 dimensions, summed exactly and rounded once to f32. -/
def groupSum (w2 : W64) (q x : List Byte) (g : Nat) : Nat :=
  let e := fun (b : List Byte) (i : Nat) => vecVal w2 (vecCode w2 b i)
  let terms := (List.range (min 16 (dim w2 - 16 * g))).map fun i =>
    let a := e q (16 * g + i)
    let b := e x (16 * g + i)
    if metric w2 = 0 then let d := addVal 0 a (negVal b); mulVal d d else mulVal a b
  f32Fmt.round 0 false 0 (terms.foldl (addVal 0) (.fin false 0))

/-- The distance of float vectors: group sums added in order into an f32 accumulator. -/
def floatDistance (w2 : W64) (q x : List Byte) : Nat :=
  let add := fun (a b : Nat) => f32Fmt.round 0 false 0 (addVal 0 (f32Fmt.value a) (f32Fmt.value b))
  let sum := (List.range ((dim w2 + 15) / 16)).foldl (fun a g => add a (groupSum w2 q x g)) 0
  if metric w2 = 0 then sum else f32Fmt.round 0 false 0 (negVal (f32Fmt.value sum))

/-- A distance as `wdist` writes it. -/
def distance (w2 : W64) (q x : List Byte) : W64 :=
  if efmt w2 = 11 then toBits 64 (intDistance w2 q x) else BitVec.ofNat 64 (floatDistance w2 q x)

def execWdist (f : Fields) (s : State) : Host.Outcome State Fault Refusal :=
  walkDo s fun s w q => do
    let node ← currentNode w
    if q.budget ≤ q.evals then .error { bit := some 0, search := true }
    else
      let (s, h) ← nodeHead s q w.base node
      if visible q.snap h.1 then do
        let (s, x) ← nodeBytes s q w.base node 16 (vecBytes q.word2)
        .ok (setQuery s { q with evals := q.evals + 1 }, (w.writeW f.d.toNat (distance q.word2 q.qvec x)).next)
      else .ok (s, (w.writeW f.d.toNat allOnes).next)

/-! ### Pushes, bounds, counts -/

def execWpush (f : Fields) (s : State) : Host.Outcome State Fault Refusal :=
  walkDo s fun s w q =>
    let dist : W32 := (w.readW f.a.toNat).setWidth 32
    if !isInt8 q && (f32Fmt.value dist.toNat).isNan then .ok (s, w.next)
    else
      let n := newId s
      .ok ({ n.2 with pushes := n.2.pushes ++ [{ id := n.1, query := q.id, dist, node := (w.readW f.b.toNat).setWidth 32 }] }, w.next)

def execWbound (f : Fields) (s : State) : Host.Outcome State Fault Refusal :=
  walkDo s fun s w q =>
    let most : W64 := zx64 (sentinel q.word2)
    .ok (s, (w.writeW f.d.toNat (if q.noprune then most else (tabGet none q.bounds w.base).getD most)).next)

/-- EVALS as last reported to a base die is at most the true count: a free value up to it. -/
def execWcnt (f : Fields) (s : State) : Host.Outcome State Fault Refusal :=
  walkDo s fun s w q =>
    match f.imm.toNat with
    | 0 =>
      let n := fresh s
      .ok (n.2, (w.writeW f.d.toNat (BitVec.ofNat 64 (n.1 % (q.evals + 1)))).next)
    | 1 => .ok (s, (w.writeW f.d.toNat (BitVec.ofNat 64 w.hops)).next)
    | 2 => .ok (s, (w.writeW f.d.toNat (BitVec.ofNat 64 q.k)).next)
    | _ => .error (endBit 2)

/-! ### Walkers that move and are made (15/R360-R361) -/

/-- w0 and the registers that go along. -/
def carried (w : Walker) (a : W64) : List W64 := a :: (List.range 7).map fun i => w.readW (i + 1)

def execWspawn (f : Fields) (s : State) : Host.Outcome State Fault Refusal :=
  walkDo s fun s w q => do
    let a := w.readW f.a.toNat
    let node : W32 := a.setWidth 32
    let t ← walkTarget w f
    if 16 ≤ shardOf q.desc node then .ok (setQuery s (q.mark 3), w.next)
    else
      let n := newId s
      let m : WalkerMsg := { id := n.1, query := q.id, spawn := true, base := descStack q.desc (shardOf q.desc node), node := a
                             regs := carried w a, pc := t, hops := (w.hops + 1) % 65536 }
      .ok ({ n.2 with msgs := n.2.msgs ++ [m] }, w.next)

def execWhop (f : Fields) (s : State) : Host.Outcome State Fault Refusal :=
  walkDo s fun s w q => do
    let a := w.readW f.a.toNat
    let node : W32 := a.setWidth 32
    let t ← walkTarget w f
    if 16 ≤ shardOf q.desc node then .error (endBit 3)
    else
      let base := descStack q.desc (shardOf q.desc node)
      let w1 : Walker := { w with
        w := (carried w a).zipIdx.foldl (fun (x : Tab W64) r => tabSet 0 x r.2 r.1) []
        pc := t, entry := .transfer w.pc, flags := {}, node := none, hops := (w.hops + 1) % 65536 }
      if base = w.base then .ok (s, w1)
      else
        -- the walker leaves its context; the message makes it again at its target
        let m : WalkerMsg := { id := w.id, query := q.id, spawn := false, base, node := a, regs := carried w a, pc := t, hops := w1.hops }
        .ok ({ s with msgs := s.msgs ++ [m], walkers := s.walkers.filter (·.id != w.id) }, w1)

def execWend (_f : Fields) (s : State) : Host.Outcome State Fault Refusal :=
  walkDo s fun _ _ _ => .error {}

/-! ### Arithmetic and branches -/

def execWmovi (f : Fields) (s : State) : Host.Outcome State Fault Refusal :=
  walkDo s fun s w _ => .ok (s, (w.writeW f.d.toNat (sx64 f.imm)).next)

def execWmoviHi (f : Fields) (s : State) : Host.Outcome State Fault Refusal :=
  walkDo s fun s w _ => .ok (s, (w.writeW f.d.toNat (putBits (w.readW f.d.toNat) 63 32 f.imm.toNat)).next)

def execWadd (f : Fields) (s : State) : Host.Outcome State Fault Refusal :=
  walkDo s fun s w _ => .ok (s, (w.writeW f.d.toNat (w.readW f.a.toNat + walkB w f)).next)

def execWsub (f : Fields) (s : State) : Host.Outcome State Fault Refusal :=
  walkDo s fun s w _ => .ok (s, (w.writeW f.d.toNat (w.readW f.a.toNat - walkB w f)).next)

def execWand (f : Fields) (s : State) : Host.Outcome State Fault Refusal :=
  walkDo s fun s w _ => .ok (s, (w.writeW f.d.toNat (w.readW f.a.toNat &&& walkB w f)).next)

def execWshr (f : Fields) (s : State) : Host.Outcome State Fault Refusal :=
  walkDo s fun s w _ => .ok (s, (w.writeW f.d.toNat (w.readW f.a.toNat >>> bits (walkB w f) 7 0)).next)

def execWcmp (f : Fields) (s : State) : Host.Outcome State Fault Refusal :=
  walkDo s fun s w _ => .ok (s, { w with flags := subFlags 64 (w.readW f.a.toNat).toNat (walkB w f).toNat }.next)

def execWcmpF (f : Fields) (s : State) : Host.Outcome State Fault Refusal :=
  walkDo s fun s w _ =>
    let v := fun (x : W64) => f32Fmt.value (bits x 31 0)
    .ok (s, { w with flags := fcmpFlags (v (w.readW f.a.toNat)) (v (walkB w f)) }.next)

def execWbr (f : Fields) (s : State) : Host.Outcome State Fault Refusal :=
  walkDo s fun s w _ => do
    if f.sub = 15 then .error (endBit 2)
    else if w.flags.holds f.sub.toNat then
      let t ← walkTarget w f
      .ok (s, { w with pc := t, entry := .transfer w.pc })
    else .ok (s, w.next)

def execWj (f : Fields) (s : State) : Host.Outcome State Fault Refusal :=
  walkDo s fun s w _ => do
    let t ← walkTarget w f
    .ok (s, { w with pc := t, entry := .transfer w.pc })

end Sys2Proof.Machine
end

