-- ==== Sys2Proof/Machine/Bank.lean ====
section
/-! DEFINITION. Bank microprograms (15/R364-R365), their suspension and the channel controllers (17/R402, 23/R434). -/

namespace Sys2Proof.Machine

/-! ### Channels (17/R402, 23/R434) -/

/-- A channel's controller; one with nothing to hold is not listed. -/
def findChan (s : State) (chan : Nat) : Chan :=
  match s.chans.find? (·.chan == chan) with
  | some c => c
  | none => { chan }

def putChan (s : State) (c : Chan) : State :=
  let rest := s.chans.filter (·.chan != c.chan)
  { s with chans := if c = { chan := c.chan } then rest else c :: rest }

/-- The instance that a channel's sequencer runs. -/
def runningOn (s : State) (chan : Nat) : Option NbInst := s.insts.find? fun i => i.chan == chan && i.started
def setInst (s : State) (i : NbInst) : State := { s with insts := updWhere (·.id == i.id) (fun _ => i) s.insts }

/-- The controller takes up the first waiting access and opens its row. -/
def takeUp (s : State) (c : Chan) : Chan :=
  match c.waiting with
  | [] => c
  | pa :: rest =>
    let r := bankRow s pa
    { c with waiting := rest, serving := some pa, openRows := r :: c.openRows.filter fun x => x.1 != r.1 }

/-- The sequencer suspends, and the first waiting access is taken up. -/
def suspend (s : State) (i : NbInst) (c : Chan) : State :=
  putChan (setInst s { i with suspended := true }) (takeUp s { c with windowPassed := false })

/-- The sequencer resumes: every row opened for ordinary accesses is closed, and it owes a row step. -/
def resumeChan (s : State) (i : NbInst) (c : Chan) : State :=
  putChan (setInst s { i with suspended := false }) { c with owesStep := true, windowPassed := false, openRows := [] }

/-- An ordinary access waits at the controller. -/
def execChannelAccessArrive (chan pa : Nat) (s : State) : Host.Outcome State Fault Refusal :=
  event s fun s =>
    if !isHbm pa || chanOf s pa != chan then s
    else
      let c := findChan s chan
      let c := { c with waiting := c.waiting ++ [lineOf pa] }
      match runningOn s chan with
      | some i => if i.suspended || i.inStep || c.owesStep then putChan s c else suspend s i c
      | none => putChan s (if c.serving.isNone then takeUp s c else c)

/-- The line of the access being served is returned; the next one is taken up while the window lasts. -/
def execChannelAccessServed (chan : Nat) (s : State) : Host.Outcome State Fault Refusal :=
  event s fun s =>
    let c := findChan s chan
    match c.serving with
    | none => s
    | some _ =>
      let c := { c with serving := none }
      match runningOn s chan with
      | some i =>
        if !i.suspended then putChan s c
        else if c.waiting = [] ∨ c.windowPassed = true then resumeChan s i c
        else putChan s (takeUp s c)
      | none => putChan s (takeUp s (if c.waiting = [] then { c with openRows := [] } else c))

/-- The arbitration window of NBARB.WIN has passed; an access taken up before is completed. -/
def execArbitrationWindowExpiry (chan : Nat) (s : State) : Host.Outcome State Fault Refusal :=
  event s fun s => match runningOn s chan with
    | some i =>
      let c := findChan s chan
      if !i.suspended then s
      else if c.serving.isNone then resumeChan s i c
      else putChan s { c with windowPassed := true }
    | none => s

/-- The row step in progress ends. -/
def execRowStepEnd (chan : Nat) (s : State) : Host.Outcome State Fault Refusal :=
  event s fun s => match runningOn s chan with
    | some i =>
      if !i.inStep then s
      else
        let i1 := { i with inStep := false, rowSteps := i.rowSteps + 1 }
        let c : Chan := { findChan s chan with owesStep := false }
        if !ctxRuns s i.ctx then benchInsts (putChan (setInst s i1) c) i.ctx
        else if c.waiting = [] then putChan (setInst s i1) c else suspend s i1 c
    | none => s

/-! ### Commands and instances -/

def findInst (s : State) (id : Nat) : Option NbInst := s.insts.find? (·.id == id)
def findNb (s : State) (id : Nat) : Option NbCmd := s.nbcmds.find? (·.id == id)

/-- The command is over: its permit goes back. Complete, it clears its flag or lets its warp go on, with the acquire of
R146, and is delivered to its barrier. -/
def endNb (s : State) (c : NbCmd) (complete : Bool) : State :=
  let s := dropPermit s (dieOf c.core) c.permit
  let s := { s with nbcmds := s.nbcmds.filter (·.id != c.id), insts := s.insts.filter (·.cmd != c.id) }
  if !complete then s
  else
    let s := match c.bar with
      | some b => deliverTo s b.1 b.2
      | none => s
    match findWarp s c.warp with
    | some w => acquireAt (setWarp s (endWait (w.lower c.flag) (· == .nb c.id))) (whoOf s w) .home
    | none => s

/-- An instance leaves its sequencer. -/
def leaveChan (s : State) (i : NbInst) : State :=
  putChan { s with insts := s.insts.filter (·.id != i.id) } { findChan s i.chan with owesStep := false, windowPassed := false }

/-- Words 4 and 5 of an instance's record (17/R398). -/
def instProg (c : NbCmd) (i : NbInst) : W64 × W64 :=
  (BitVec.ofNat 64 (i.rowSteps % 2 ^ 32 + i.i % 2 ^ 16 * 2 ^ 32 + (i.pc - c.prog / 5 * 5) % 512 * 2 ^ 48),
    BitVec.ofNat 64 (7 * 2 ^ 56 + i.frameIdx % 64))

/-- The instance stops: the record, the block that issued the command is killed, and the command's remaining
instances are abandoned. While the fault queue is full it waits. -/
def stopInst (s : State) (c : NbCmd) (i : NbInst) (f : Flt) : State :=
  match findCtx s c.ctx with
  | none => s
  | some x =>
    if fltFull s x then { s with last := .waited }
    else
      let p := instProg c i
      let o := if f.kind = 18 then openFlt s f else (s, f)
      let s1 := endNb (leaveChan (logFault (putRecord o.1 x { o.2 with prog4 := p.1, prog5 := p.2 } c.ids false false 0) f) i) c false
      { killBlock s1 c.block .fault with last := .trapped }

/-- How an instruction of an instance ends without its own effect. -/
inductive BankStop where
  /-- one of the stops of 15/R365, with its cause -/
  | stop (cause : Nat)
  /-- a write to a sealed byte (04/R81), or a machine check (17/R396) -/
  | fault (f : Flt)

/-- Run a meaning for the issuing instance. -/
def bankDo (s : State) (body : State → NbCmd → NbInst → Except BankStop State) : Host.Outcome State Fault Refusal :=
  match s.cur with
  | .bank id =>
    match findInst s id with
    | none => .fault .noIssuer
    | some i => match findNb s i.cmd with
      | none => .fault .noIssuer
      | some c =>
        match body s c i with
        | .ok s' => .next { s' with last := .retired }
        | .error (.stop cause) => .next (stopInst s c i { kind := 18, acc := 0, va := 0, entry := BitVec.ofNat 64 cause })
        | .error (.fault f) => .next (stopInst s c i f)
  | _ => .fault .noIssuer

/-- The instance moves to the next slot. -/
def NbInst.next (i : NbInst) : NbInst := { i with pc := i.pc + 1, entry := if i.pc % 5 = 4 then .fall else i.entry }

def NbInst.readB (i : NbInst) (n : Nat) : Row := tabGet 0 i.b n
def NbInst.writeB (i : NbInst) (n : Nat) (x : Row) : NbInst := { i with b := tabSet 0 i.b n x }

/-- A sequencer starts the first waiting instance of its channel whose command has its permit: b0 to b7 zero, FP32, loop
index 0, and the program read (15/R365). -/
def execNbInstanceStart (inst : Nat) (s : State) : Host.Outcome State Fault Refusal :=
  event s fun s => match findInst s inst with
    | none => s
    | some i =>
      let runs := !i.started && (runningOn s i.chan).isNone && ctxRuns s i.ctx
      if i.saved then (if runs then setInst s { i with started := true, saved := false } else s) else
      let ready := fun (j : NbInst) => (findNb s j.cmd).any fun c => permitted c.permit
      let first := (s.insts.find? fun j => j.chan == i.chan && !j.saved && ctxRuns s j.ctx && ready j).map (·.id)
      match findNb s i.cmd, findCtx s i.ctx with
      | some c, some x =>
        let kept := s.insts.any fun j => j.chan == i.chan && j.saved && ctxRuns s j.ctx
        if runs && first == some inst && !kept then
          let ls := programLines s x c.prog 64 0
          setInst (llcRead s (ls.map (·.1))) { i with
            started := true, lines := ls.map (·.2), linePas := ls.map (·.1)
            bad := ls.zipIdx.filterMap fun l => (badRead s l.1.1).map fun src => (l.2, src) }
        else s
      | _, _ => s

/-! ### Rows (15/R365, 02/R22, R28) -/

/-- The row that base + i × step names. -/
def rowNo (i : NbInst) (f : Fields) : Nat := bits f.imm 15 0 + i.i * bits f.imm 31 16

/-- PA of a row: chunk r of the frame. -/
def rowPa (i : NbInst) (r : Nat) : Nat := i.pages.getD (r / 4) 0 + r % 4 * 1024

def execNbrow (f : Fields) (s : State) : Host.Outcome State Fault Refusal :=
  bankDo s fun s c i =>
    let r := rowNo i f
    let pa := rowPa i r
    let va := c.va + i.frameIdx * 2 ^ 21 + r * 1024
    if 2048 ≤ r then .error (.stop 2)
    else match (List.range 8).findSome? (fun l => (badRead s (pa + 128 * l)).map fun src => mcFault src (pa + 128 * l) (va + 128 * l) 7) with
      | some e => .error (.fault e)
      | none =>
        -- a page of the frame that lies on another channel is out of its reach (02/R23, log 70)
        let n := if chanOf s pa = i.chan then (ofBytes (homeBytes s pa 1024), cleanRow s pa)
          else (let v := freshes 128 s; (ofBytes (v.1.flatMap fun x => toBytes 8 x), v.2))
        .ok (setInst n.2 { i.writeB f.d.toNat (BitVec.ofNat 8192 n.1) with inStep := true }.next)

def execNbst (f : Fields) (s : State) : Host.Outcome State Fault Refusal :=
  bankDo s fun s c i =>
    let r := rowNo i f
    let va := c.va + i.frameIdx * 2 ^ 21 + r * 1024
    if 2048 ≤ r then .error (.stop 2)
    else match (findCtx s c.ctx).bind fun x => (List.range 1024).find? fun n => sealedAt x (va + n) with
      | some n => .error (.fault { kind := 8, acc := 7, va := va + n })
      | none =>
        let s1 := if chanOf s (rowPa i r) = i.chan then rowWrite s (rowPa i r) (toBytes 1024 (i.readB f.a.toNat).toNat) else s
        .ok (setInst s1 { i with inStep := true }.next)

/-! ### Arithmetic (15/R365) -/

/-- Width of an element of the current format. -/
def bankWidth (fmt : Nat) : Nat := if fmt = 0 then 32 else if fmt = 11 then 8 else 16

def bankInt (fmt : Nat) : Bool := fmt == 10 || fmt == 11

/-- One element: exact, then rounded once to nearest even, or saturated. -/
def bankElem (fmt : Nat) (op : Val → Val → Val → Val) (x y z : Nat) : Nat :=
  let v := fun (c : Nat) => elemValue fmt c
  if bankInt fmt then
    let w := bankWidth fmt
    (toBits w (clampInt (intMin w true) (intMax w true) (op (v x) (v y) (v z)).rat.floor)).toNat
  else match binFmt fmt with
    | some F => F.round 0 false 0 (op (v x) (v y) (v z))
    | none => 0

/-- An accumulator computed element by element from three. -/
def bankMap (fmt : Nat) (op : Val → Val → Val → Val) (a b c : Row) : Row :=
  let w := bankWidth fmt
  (List.range (8192 / w)).foldl (fun (r : Row) n =>
    let at_ := fun (x : Row) => bits x (w * n + w - 1) (w * n)
    putBits r (w * n + w - 1) (w * n) (bankElem fmt op (at_ a) (at_ b) (at_ c))) 0

/-- The immediate of `nbscale`: f32 for float formats, s32 for integer formats. -/
def bankImm (fmt : Nat) (imm : W32) : Val := if bankInt fmt then ofInt imm.toInt else f32Fmt.value imm.toNat

def execNbscale (f : Fields) (s : State) : Host.Outcome State Fault Refusal :=
  bankDo s fun s _ i =>
    let a := i.readB f.a.toNat
    .ok (setInst s (i.writeB f.d.toNat (bankMap i.fmt (fun x _ _ => mulVal x (bankImm i.fmt f.imm)) a a a)).next)

def execNbadd (f : Fields) (s : State) : Host.Outcome State Fault Refusal :=
  bankDo s fun s _ i =>
    let b := i.readB f.b.toNat
    .ok (setInst s (i.writeB f.d.toNat (bankMap i.fmt (fun x y _ => addVal 0 x y) (i.readB f.a.toNat) b b)).next)

def execNbfma (f : Fields) (s : State) : Host.Outcome State Fault Refusal :=
  bankDo s fun s _ i =>
    let d := i.readB f.d.toNat
    .ok (setInst s (i.writeB f.d.toNat
      (bankMap i.fmt (fun x y z => addVal 0 (mulVal x y) z) (i.readB f.a.toNat) (i.readB f.b.toNat) d)).next)

def execNbfmt (f : Fields) (s : State) : Host.Outcome State Fault Refusal :=
  bankDo s fun s _ i => .ok (setInst s { i with fmt := f.imm.toNat }.next)

def execNbclr (f : Fields) (s : State) : Host.Outcome State Fault Refusal :=
  bankDo s fun s _ i => .ok (setInst s (i.writeB f.d.toNat 0).next)

/-! ### Loops, signals and the end -/

/-- A target among the lines read with its BTGT bit set (08/R170, 15/R365). -/
def bankTarget (c : NbCmd) (i : NbInst) (t : Nat) : Bool :=
  match i.lines[t / 5 - c.prog / 5]? with
  | some l => c.prog / 5 ≤ t / 5 && bit (lineWord l) (22 + t % 5)
  | none => false

def execNbloop (f : Fields) (s : State) : Host.Outcome State Fault Refusal :=
  bankDo s fun s c i =>
    let i1 := { i with i := i.i + 1 }
    if i1.i < c.loops then
      match slotPlus i.pc f.imm.toInt with
      | some t =>
        if bankTarget c i t then .ok (setInst s { i1 with pc := t, entry := .transfer i.pc }) else .error (.stop 1)
      | none => .error (.stop 1)
    else .ok (setInst s i1.next)

def execNbend (_f : Fields) (s : State) : Host.Outcome State Fault Refusal :=
  bankDo s fun s c i =>
    let s1 := leaveChan s i
    .ok (if s1.insts.any (·.cmd == c.id) then s1 else endNb s1 c true)

def execNbsig (_f : Fields) (s : State) : Host.Outcome State Fault Refusal :=
  bankDo s fun s c i =>
    match c.bar with
    | some b => .ok (deliverTo (setInst s i.next) b.1 b.2)
    | none => .error (.stop 1)

end Sys2Proof.Machine
end

