-- ==== Sys2Proof/Machine/Maintenance.lean ====
section
/-! DEFINITION. Prefetch, cache maintenance, seals and retention (09/R210-R218, 07/R154-R155, 04/R65-R68, R80-R82), and the
commit of a compatibility-mode write-back (02/R39). -/

namespace Sys2Proof.Machine

/-! ### pref (09/R210) -/

/-- The line of one lane; one that would fault or that a machine check would meet is dropped. -/
def prefLine (s : State) (x : Exe) (c : Ctx) (f : Fields) (L : Nat) : State :=
  let va := (toBits 64 (laneAddr s x f L)).toNat
  match checkByte s c needLoad va with
  | .error _ => s
  | .ok y =>
    let who := whoOf s x.w
    let keep := sealedAt c va
    if !isHbm y.pa then s
    else if f.sub = 1 then
      if missesL2 s who y.pa allBytes keep && (badRead s y.pa).isSome then s
      else (loadL2 s who va y.pa allBytes (bit f.md 3) keep).1
    else
      let want := wantsL2 s who y.pa allBytes false
      if want != 0 && missesL2 s who y.pa want keep && (badRead s y.pa).isSome then s
      else (loadLine s who va y.pa allBytes (bit f.md 3) false keep).1

def execPref (f : Fields) (s : State) : Host.Outcome State Fault Refusal :=
  execute s f fun s x => do
    let c ← ctxOf s x.w
    .ok (retire ((lanesOf x.en).foldl (fun s L => prefLine s x c f L) s) x.w x.g)

/-! ### Group instructions (09/R211-R213) -/

/-- The length operand of a range. -/
def rangeLen (x : Exe) (f : Fields) : Nat := if f.bk = .imm then f.imm.toNat else (x.s f.b.toNat).toNat

/-- A range that extends past VA 2^56 is not canonical (09/R212). -/
def rangeCheck (va len acc : Nat) : Except Stop Unit :=
  if len ≠ 0 ∧ 2 ^ 56 < va + len then .error (.fault { kind := 6, acc, va := max va (2 ^ 56) }) else .ok ()

/-- First VA and length of the part of a range in each page. -/
def rangePages (va len : Nat) : List (Nat × Nat) :=
  if len = 0 then []
  else (List.range ((va + len - 1) / 4096 + 1 - va / 4096)).map fun i =>
    let lo := max va ((va / 4096 + i) * 4096)
    let hi := min (va + len) ((va / 4096 + i + 1) * 4096)
    (lo, hi - lo)

/-- The pages of a range that are present: PA and length; pages not present are skipped (09/R213). -/
def presentPages (s : State) (c : Ctx) (n : Need) : List (Nat × Nat) → Except Stop (List (Nat × Nat))
  | [] => .ok []
  | p :: r =>
    match checkByte s c n p.1 with
    | .error f => if f.kind = 1 then presentPages s c n r else .error (.fault f)
    | .ok y =>
      match presentPages s c n r with
      | .ok t => .ok ((y.pa, p.2) :: t)
      | .error e => .error e

/-- The lines of a piece of physical memory with the bytes of it that lie inside. -/
def pieceLines (pa len : Nat) : List (Nat × BitVec 128) :=
  (List.range ((pa + len + 127) / 128 - pa / 128)).map fun i =>
    let line := (pa / 128 + i) * 128
    let lo := max pa line - line
    let hi := min (pa + len) (line + 128) - line
    (line, BitVec.ofNat 128 ((2 ^ (hi - lo) - 1) <<< lo))

/-- Decided cell copies of a range held by the core or its die are dropped (07/R154). -/
def dropCopies (s : State) (core pa len : Nat) : State :=
  { s with cellCopies := s.cellCopies.filter fun c =>
      !(pa ≤ c.pa + 15 && c.pa < pa + len && (c.core == some core || (c.core.isNone && c.die == dieOf core))) }

/-- The meaning of `cclean` (0), `cinv` (1) and `cdisc` (2). Behind a peer window no cache holds a line, only decided cell copies
(18/R415): such a page raises no fault (log 66). -/
def maintain (kind : Nat) (f : Fields) (s : State) (x : Exe) : Except Stop State := do
  if x.slices = [] then .ok (retire s x.w x.g)
  else
    let c ← ctxOf s x.w
    let va := (x.s f.a.toNat).toNat
    let len := rangeLen x f
    let acc := if kind = 2 then 1 else 0
    rangeCheck va len acc
    let ps ← presentPages s c { perm := if kind = 2 then 2 else 1, anyCell := true, acc } (rangePages va len)
    let who := whoOf s x.w
    let s1 := ps.foldl (fun s p =>
      let s := if !isHbm p.1 then s else (pieceLines p.1 p.2).foldl (fun s l =>
        match kind with
        | 0 => cleanLine s who l.1
        | 1 => flushLine s who l.1
        | _ => discardLine s who l.1 l.2) s
      if kind = 0 then s else dropCopies s x.w.core p.1 p.2) s
    .ok (retire s1 (x.w.setZ x.slices false) x.g)

def execCclean (f : Fields) (s : State) : Host.Outcome State Fault Refusal :=
  execute s f fun s x => maintain 0 f s x

def execCinv (f : Fields) (s : State) : Host.Outcome State Fault Refusal :=
  execute s f fun s x => maintain 1 f s x

def execCdisc (f : Fields) (s : State) : Host.Outcome State Fault Refusal :=
  execute s f fun s x => maintain 2 f s x

/-! ### Seals (09/R214-R216, 04/R80-R82) -/

def execSealRange (f : Fields) (s : State) : Host.Outcome State Fault Refusal :=
  execute s f fun s x => do
    if x.slices = [] then .ok (retire s x.w x.g)
    else
      let c ← ctxOf s x.w
      let va := (x.s f.a.toNat).toNat
      let len := rangeLen x f
      rangeCheck va len (freeAcc s)
      match (if len = 0 then none else (List.range 16).find? fun h => !c.seals.any (·.handle == h)) with
      | none => .ok (retire s ((x.w.setS x.slices f.d.toNat (BitVec.allOnes 64)).setZ x.slices true) x.g)
      | some h =>
        let s1 := setCtx s { c with seals := { handle := h, va, len, complete := false } :: c.seals }
        .ok (retire s1 ((x.w.setS x.slices f.d.toNat (BitVec.ofNat 64 h)).setZ x.slices false) { x.g with wait := .seal c.slot h })

def execUnsealRange (f : Fields) (s : State) : Host.Outcome State Fault Refusal :=
  execute s f fun s x => do
    if x.slices = [] then .ok (retire s x.w x.g)
    else
      let c ← ctxOf s x.w
      let h := (x.s f.a.toNat).toNat
      if c.seals.any (·.handle == h) then
        -- one that is not complete has nothing left to wait for
        let over_ := fun (w : Warp) => if w.ctx = c.slot then endWait w (· == .seal c.slot h) else w
        let s1 := { s with warps := s.warps.map over_ }
        .ok (retire (setCtx s1 { c with seals := c.seals.filter (·.handle != h) }) ((over_ x.w).setZ x.slices false) x.g)
      else .ok (retire s (x.w.setZ x.slices true) x.g)

/-- Write back and invalidate every copy of a line in every L1 and L2 of the device (04/R80). -/
def flushEverywhere (s : State) (line : Nat) : State :=
  let cores := ((s.l1.filter fun p => p.2.any (·.pa == line)).map fun p => p.1 / 256).eraseDups
  let s1 := cores.foldl (fun s core =>
    match l1Line s core line with
    | some l => dropL1 (writeL1Back s core l) core line
    | none => s) s
  (List.range 4).foldl (fun s die =>
    match l2Line s die line with
    | some l => dropL2 (writeHome s l) die line
    | none => s) s1

/-- A store of a context to a range of it, or to its pages, is still on its way (04/R80, 09/R216): a copy's writes, a started
drain, a result of a search or merge, a cell proposal, an access through a peer window. -/
def storesOnWay (s : State) (c : Ctx) (va len : Nat) (pas : List (Nat × Nat)) : Bool :=
  let meets := fun (lo n : Nat) => lo < va + len && va < lo + n
  let there := fun (pa n : Nat) => pas.any fun p => p.1 < pa + n && pa < p.1 + p.2
  let mine := fun (w : Nat) => (findWarp s w).any (·.ctx == c.slot)
  s.cmds.any (fun k => k.ctx == c.slot && (copyDst s k).any fun r => r.space == .memory && meets r.at_ r.len)
    || s.ops.any (fun o => (findBlock s o.block).any (·.ctx == c.slot) && o.dst.any fun d => meets d.1 d.2.2)
    || s.queries.any (fun q => q.ctx == c.slot && meets q.resva (16 + 8 * q.k))
    || s.kmcmds.any (fun k => k.ctx == c.slot && meets k.resva (16 + 8 * k.k))
    || s.cellOps.any (fun o => o.kind == 0 && there o.pa 16 && s.outs.any fun x => x.id == o.out && mine x.warp)
    || s.peerOuts.any fun o => o.warp.any mine && (match o.op with
      | .write bytes => there o.pa bytes.length
      | .atomic _ _ _ => there o.pa 8
      | .cells _ => there o.pa 16
      | _ => false)

/-- The seal completes once no store to its range is on its way: every copy of the range leaves every cache, every unit has
received it, and the warp goes on (04/R80). -/
def completeSeal (s : State) (ctx handle : Nat) : State :=
  match findCtx s ctx with
  | none => s
  | some c =>
    match c.seals.find? (fun l => l.handle == handle && !l.complete) with
    | none => s
    | some l =>
      let pas := (rangePages l.va l.len).filterMap fun p =>
        match lookup s c p.1 0 with | .ok y => some (y.pa, p.2) | .error _ => none
      if storesOnWay s c l.va l.len pas then s else
      let s1 := pas.foldl (fun s p => if isHbm p.1 then (pieceLines p.1 p.2).foldl (fun s q => flushEverywhere s q.1) s else s) s
      let done := fun (c : Ctx) => { c with seals := updWhere (·.handle == handle) (fun l => { l with complete := true }) c.seals }
      let s2 := { s1 with ctxs := updWhere (·.slot == ctx) done s1.ctxs }
      let copied := fun (k : CellCopy) => pas.any fun p => p.1 < k.pa + 16 && k.pa < p.1 + p.2
      { s2 with
        cellCopies := s2.cellCopies.filter fun k => !copied k
        warps := s2.warps.map fun w => if w.ctx = ctx then endWait w (· == .seal ctx handle) else w }

def execSealComplete (ctx handle : Nat) (s : State) : Host.Outcome State Fault Refusal :=
  event s fun s => completeSeal s ctx handle

/-! ### Retention (09/R217-R218, 04/R65-R68, 25/R442-R443) -/

/-- The registers of a die in use. -/
def rtnOf (s : State) (die : Nat) : List Retention := s.rtn.filter (·.die == die)

/-- The word of a retention register (04/R65). -/
def rtnWord (va size ways : Nat) : W64 :=
  BitVec.ofNat 64 (2 ^ 63 + ways * 2 ^ 59 + (size / 65536 - 1) * 2 ^ 40 + va / 65536 % 2 ^ 40)

def execPin (f : Fields) (s : State) : Host.Outcome State Fault Refusal :=
  execute s f fun s x =>
    if x.slices = [] then .ok (retire s x.w x.g)
    else
      let die := dieOf x.w.core
      let va := (x.s f.a.toNat).toNat
      let size := (x.s f.b.toNat).toNat
      let ways := bits f.imm 3 0
      let good := va % 65536 == 0 && size % 65536 == 0 && size != 0 && size ≤ 2 ^ 32 && reservedWays s die + ways ≤ 12
      match (if good then (List.range 8).find? fun n => !(rtnOf s die).any (·.num == n) else none) with
      | some n =>
        let s1 := freeReserved { s with rtn := { die, num := n, ctx := x.w.ctx, word := rtnWord va size ways } :: s.rtn } die
        .ok (retire s1 ((x.w.setS x.slices f.d.toNat (BitVec.ofNat 64 n)).setZ x.slices false) x.g)
      | none => .ok (retire s ((x.w.setS x.slices f.d.toNat (BitVec.allOnes 64)).setZ x.slices true) x.g)

/-- A register is released: its lines lose their mark and stand at the least recently used end (04/R68, 25/R443). -/
def releaseRtn (s : State) (die num : Nat) : State :=
  { s with
    rtn := s.rtn.filter fun r => !(r.die == die && r.num == num)
    l2 := s.l2.map fun p =>
      if p.1 / 32768 = die then
        let mine := p.2.filter (·.rtn == some num)
        (p.1, mine.map (fun l => { l with rtn := none }) ++ p.2.filter (·.rtn != some num))
      else p }

def execUnpin (f : Fields) (s : State) : Host.Outcome State Fault Refusal :=
  execute s f fun s x =>
    if x.slices = [] then .ok (retire s x.w x.g)
    else
      let die := dieOf x.w.core
      let n := (x.s f.a.toNat).toNat
      if rtnValid s die x.w.ctx n then .ok (retire (releaseRtn s die n) (x.w.setZ x.slices false) x.g)
      else .ok (retire s (x.w.setZ x.slices true) x.g)

/-! ### Memory side -/

/-- The first accepted write-back commits (02/R39). -/
def execCompatWritebackCommit (s : State) : Host.Outcome State Fault Refusal := event s fun s => commitOne s

/-- A changed group has been zero-filled (02/R19): its bytes are zero and raw, and a metadata group sets every count to 0
(02/R37). BUSY falls with the last. -/
def execLayoutFillDone (s : State) : Host.Outcome State Fault Refusal :=
  event s fun s =>
    match s.fillQueue with
    | [] => s
    | g :: r => { s with
        fillQueue := r
        filled := if r = [] then [] else g :: s.filled
        busygOpen := s.busygOpen || r == []
        mem := s.mem.filter fun p => p.1 / 2 ^ 31 != g
        stale := s.stale.filter fun p => p.1 / 2 ^ 31 != g
        llc := s.llc.filterMap fun p =>
          let ls := p.2.filter fun l => l.pa / 2 ^ 31 != g
          if ls = [] then none else some (p.1, ls)
        poison := s.poison.filter fun p => p / 2 ^ 31 != g
        counts := if layoutOf s g = 3 then [] else s.counts.filter fun p => p.1 * 256 / 2 ^ 31 != g
        mdc := if layoutOf s g = 3 then [] else s.mdc
        commits := s.commits.filter fun c => c.pa / 2 ^ 31 != g }

end Sys2Proof.Machine
end

