-- ==== Sys2Proof/Machine/CopyWork.lean ====
section
/-! DEFINITION. What a copy engine does for a command (10/R224-R231, 04/R75-R79): the unit of each kind (a byte, or a tile of
`cpyq`), its faults, its reads and writes, check-out pieces, and the end of a command. -/

namespace Sys2Proof.Machine

/-- A place: a space and an address in it. -/
abbrev Spot2 := Space × Nat

/-! ### Units -/

/-- The check-out that a command makes or ends. -/
def outOf (b : Block) (k : CopyCmd) : Option CheckOut :=
  match k.kind with
  | .chko _ _ => b.outs.find? (·.cmd == k.id)
  | .chki n _ => b.outs.find? (·.cmd == n)
  | _ => none

/-- Units that the command performs: bytes, or tiles. -/
def unitCount (b : Block) (k : CopyCmd) : Nat :=
  match k.kind with
  | .cpy _ _ _ _ _ d0 _ _ => (srcBox 0 d0 0).bytes
  | .cpyq _ _ _ _ _ _ _ ntx nty => ntx * nty
  | .chko _ _ => ((outOf b k).map (·.len)).getD 0
  | .chki _ drop => match outOf b k with
    | some o => if o.excl && !drop then o.len else 0
    | none => 0

/-- The byte of a box that comes `i`-th in the order of 10/R226. -/
def Box.byteAt (x : Box) (i : Nat) : Nat := x.base + i / (x.nx * x.ny) * x.sz + i / x.nx % x.ny * x.sy + i % x.nx

/-- A byte of memory, or of a scratchpad where the offset lies in an allocation. -/
def placeOf (b : Block) (core : Nat) (spad : Bool) (a : Nat) : Spot2 :=
  if spad then match spadPlace b core (a : Int) 1 with
    | some p => (spaceOf p.1, p.2)
    | none => (.own, b.scr)
  else (.memory, a % 2 ^ 64)

/-- The source and the destination of the `i`-th byte of a byte command. -/
def moveAt (b : Block) (k : CopyCmd) (i : Nat) : Spot2 × Spot2 :=
  match k.kind with
  | .cpy fsp tsp _ dst src d0 d1 d2 =>
    (placeOf b k.core fsp ((srcBox src d0 d1).byteAt i), placeOf b k.core tsp ((dstBox dst d0 d2).byteAt i))
  | .chko _ _ => match outOf b k with
    | some o => ((.memory, o.va + i), placeOf b k.core true (o.off + i))
    | none => ((.memory, 0), (.memory, 0))
  | .chki _ _ => match outOf b k with
    | some o => (placeOf b k.core true (o.off + i), (.memory, o.va + i))
    | none => ((.memory, 0), (.memory, 0))
  | .cpyq _ _ _ _ _ _ _ _ _ => ((.memory, 0), (.memory, 0))

/-- Check-outs go to the home and name no peer window (04/R78, 18/R415). -/
def CopyCmd.atHome (k : CopyCmd) : Bool :=
  match k.kind with
  | .chko _ _ | .chki _ _ => true
  | _ => false

def CopyCmd.ef (k : CopyCmd) : Bool :=
  match k.kind with
  | .cpy _ _ ef .. | .cpyq _ _ ef .. => ef
  | _ => false

def copyReadNeed (k : CopyCmd) : Need := { perm := 1, acc := 4, peer := !k.atHome }
def copyWriteNeed (k : CopyCmd) : Need := { perm := 2, acc := 5, writes := true, peer := !k.atHome }

/-! ### Tiles of cpyq (10/R227-R229) -/

/-- The rows and columns of a tile. -/
def tileElems (org : W64) (ntx t : Nat) : List (Nat × Nat) :=
  (List.range 32).flatMap fun i => (List.range 32).map fun j =>
    (bits org 31 0 + 32 * (t / ntx) + i, bits org 63 32 + 32 * (t % ntx) + j)

/-- The element (m, j) of a record and whether it is accessed. -/
def tileElem (r : BufRec) (e : Nat × Nat) : Elem × Bool :=
  let x := r.elem ((e.1 * r.rl + e.2 : Nat) : Int)
  (x, !((r.oobf || r.oobz) && !r.inside x))

/-- The places that an element touches. -/
def elemPlaces (b : Block) (core : Nat) (spad : Bool) (r : BufRec) (x : Elem) : List Spot2 :=
  (List.range (r.span x)).map fun i => placeOf b core spad (x.va + i)

/-- One tile's work: source record and elements, destination records, block-record addresses. -/
structure TileWork where
  src : BufRec
  row : BufRec
  col : BufRec
  fsp : Bool
  tsp : Bool
  elems : List (Nat × Nat)

def tileWork (s : State) (k : CopyCmd) (t : Nat) : Option TileWork :=
  match k.kind with
  | .cpyq fsp tsp _ org src row col ntx _ =>
    some { src := recordOf s k.block src, row := recordOf s k.block row, col := recordOf s k.block col, fsp, tsp
           elems := tileElems org ntx t }
  | _ => none

def TileWork.reads (b : Block) (core : Nat) (w : TileWork) : List Spot2 :=
  w.elems.flatMap fun e =>
    let x := tileElem w.src e
    if x.2 then elemPlaces b core w.fsp w.src x.1 else []

/-- Addresses of the block records of a tile. -/
def TileWork.records (w : TileWork) : List Nat :=
  ((w.elems.map fun (e : Nat × Nat) => scaleVa w.row (rowBlock w.row e.1 e.2))
    ++ w.elems.map fun (e : Nat × Nat) => scaleVa w.col (colBlock w.col e.1 e.2)).eraseDups

def TileWork.writes (b : Block) (core : Nat) (w : TileWork) : List Spot2 :=
  (w.elems.flatMap fun e =>
    let x := tileElem w.row e
    let y := tileElem w.col e
    (if x.2 then elemPlaces b core w.tsp w.row x.1 else []) ++ if y.2 then elemPlaces b core w.tsp w.col y.1 else [])
  ++ w.records.flatMap fun a => (List.range 4).map fun i => (.memory, a + i)

/-- Places that a unit reads, and places that it writes. -/
def unitReads (s : State) (b : Block) (k : CopyCmd) (i : Nat) : List Spot2 :=
  match tileWork s k i with
  | some w => w.reads b k.core
  | none => [(moveAt b k i).1]

def unitWrites (s : State) (b : Block) (k : CopyCmd) (i : Nat) : List Spot2 :=
  match tileWork s k i with
  | some w => w.writes b k.core
  | none => [(moveAt b k i).2]

/-! ### Faults (10/R223) -/

/-- How a command uses the caches: the die's L2 with the view of the issuing lane at issue (07/R146). -/
def cmdWho (s : State) (k : CopyCmd) : Who :=
  { core := k.core, ctx := k.ctx, compat := (findCtx s k.ctx).any (·.compat), warp := k.warp }

/-- The check of one byte read. -/
def readFault (s : State) (k : CopyCmd) (c : Ctx) (p : Spot2) : Option Stop :=
  match p.1 with
  | .memory =>
    match checkByte s c (copyReadNeed k) p.2 with
    | .error f => some (.fault f)
    | .ok y =>
      let m : BitVec 128 := BitVec.ofNat 128 (1 <<< (y.pa % 128))
      let home := isHbm y.pa && (k.atHome || missesL2 s (cmdWho s k) y.pa m (sealedAt c p.2))
      match (if home then badRead s y.pa else none) with
      | some src => some (.fault (mcFault src (lineOf y.pa) p.2 4))
      | none => none
  | _ => none

def writeFault (s : State) (k : CopyCmd) (c : Ctx) (p : Spot2) : Option Stop :=
  match p.1 with
  | .memory => match checkByte s c (copyWriteNeed k) p.2 with
    | .error f => some (.fault f)
    | .ok _ => none
  | _ => none

/-- An element out of bounds under OOBF. -/
def boundFault (w : TileWork) : Option Stop :=
  let bad := fun (r : BufRec) (acc : Nat) =>
    (w.elems.find? fun e => r.oobf && !r.inside (tileElem r e).1).map fun e =>
      (.fault { kind := 11, acc, va := (tileElem r e).1.va } : Stop)
  (bad w.src 4).or ((bad w.row 5).or (bad w.col 5))

/-- The first fault of a unit: bounds, the bytes it reads, the bytes it writes. -/
def unitFault (s : State) (b : Block) (k : CopyCmd) (c : Ctx) (i : Nat) : Option Stop :=
  ((tileWork s k i).bind boundFault).or
    (((unitReads s b k i).findSome? (readFault s k c)).or ((unitWrites s b k i).findSome? (writeFault s k c)))

/-- The first unit, from the command's progress on, that faults. -/
def firstBad (s : State) (b : Block) (k : CopyCmd) (c : Ctx) : Option (Nat × Stop) :=
  ((List.range (unitCount b k - k.progress)).map (k.progress + ·)).findSome? fun i => (unitFault s b k c i).map fun e => (i, e)

/-! ### Bytes read and written -/

/-- A byte that a command reads is undefined: another command writes it, or another agent has written it since (10/R224). -/
def readTainted (s : State) (k : CopyCmd) (p : Spot2) : Bool :=
  k.taint.contains (p.1 != .memory, p.1 == .follower, p.2)
    || s.cmds.any fun o => o.id != k.id && o.near k.ctx k.block p.1 && (copyDst s o).any fun r => r.holds p.1 p.2

/-- Read one byte. -/
def cmdRead (s : State) (k : CopyCmd) (p : Spot2) : State × Byte :=
  if readTainted s k p then
    let n := fresh s
    (n.2, BitVec.ofNat 8 n.1)
  else match p.1 with
  | .memory =>
    match findCtx s k.ctx with
    | none => (s, 0)
    | some c =>
      match checkByte s c (copyReadNeed k) p.2 with
      | .error _ => (s, 0)
      | .ok y =>
        if !isHbm y.pa then (s, ((k.got.find? (·.1 == y.pa)).map (·.2)).getD 0)
        else if k.atHome then (rememberAll (llcRead s [y.pa]) (cmdWho s k) [y], homeByte s y.pa)
        else
          let now := tabGet 0 s.acq k.core
          let m : BitVec 128 := BitVec.ofNat 128 (1 <<< (y.pa % 128))
          let r := loadL2 { s with acq := tabSet 0 s.acq k.core k.acq } (cmdWho s k) p.2 y.pa m k.ef (sealedAt c p.2)
          (rememberAll { r.1 with acq := tabSet 0 r.1.acq k.core now } (cmdWho s k) [y], r.2.1.extractLsb' (8 * (y.pa % 128)) 8)
  | sp =>
    match findBlock s k.block with
    | some b => (s, spadByte b (sp == .follower) p.2)
    | none => (s, 0)

/-- A byte of memory that a command has written, or sends to a peer: its translation, its value. -/
structure OutByte where
  x : Xlat
  val : Byte
deriving DecidableEq, Repr

def OutByte.pa (b : OutByte) : Nat := b.x.pa

/-- Write one byte; where another command is at work, and where the byte is one of the command's own source bytes, its
value is undefined. A byte of memory is returned; behind a peer window it is to be sent. -/
def cmdWrite (s : State) (k : CopyCmd) (p : Spot2) (v : Byte) : State × List OutByte :=
  let t := taintCopies s (some k.id) k.ctx k.block p.1 p.2
  let own := (copySrc s k).any fun r => r.holds p.1 p.2
  let wrote := k.taint.contains (p.1 != .memory, p.1 == .follower, p.2)
  let n := fresh t.1
  let (s, v) := if t.2 || own || wrote then (n.2, BitVec.ofNat 8 n.1) else (t.1, v)
  match p.1 with
  | .memory =>
    match findCtx s k.ctx with
    | none => (s, [])
    | some c =>
      match checkByte s c (copyWriteNeed k) p.2 with
      | .error _ => (s, [])
      | .ok y =>
        let put := fun (s : State) =>
          if !isHbm y.pa then s
          else if k.atHome then homeStoreAs s c.compat [(y.pa, v)]
          else engineWrite s (dieOf k.core) c.compat k.ef [(y.pa, v)]
        (rememberAll (put s) (cmdWho s k) [y], [⟨y, v⟩])
  | sp =>
    match findBlock s k.block with
    | some b => (setBlock s (putSpad b (2 * k.warp + 1) (sp == .follower, p.2) [v]), [])
    | none => (s, [])

def cmdReads (s : State) (k : CopyCmd) (ps : List Spot2) : State × List Byte :=
  ps.foldl (fun a p => let r := cmdRead a.1 k p; (r.1, a.2 ++ [r.2])) (s, [])

def cmdWrites (s : State) (k : CopyCmd) (ps : List (Spot2 × Byte)) : State × List OutByte :=
  ps.foldl (fun a p => let r := cmdWrite a.1 k p.1 p.2; (r.1, a.2 ++ r.2)) (s, [])

/-! ### Quantisation (10/R229) -/

/-- The scale code and its value for a block. -/
def blockScale (fmt : Nat) (vals : List Val) : Nat × Rat :=
  let amax := vals.foldl (fun (m : Rat) v => match v with | .fin _ x => if m < x then x else m | _ => m) 0
  if fmt ≤ 20 then
    if amax = 0 then (0x7F, 1)
    else
      let emax : Int := match fmt with | 15 => 8 | 16 => 15 | 17 => 4 | 18 => 2 | 19 => 2 | _ => 0
      let c := (clampInt 0 254 (log2Rat amax - emax + 127)).toNat
      (c, pow2 ((c : Int) - 127))
  else if amax = 0 then (0, 0)
  else
    let c := e4m3Fmt.round 2 true 0 (.fin false (amax / (if fmt = 21 then 6 else 448)))
    (c, (e4m3Fmt.value c).rat)

/-- Scale code and element codes of a block; the LFSR goes through the elements in order. -/
def quantBlock (fmt rnd : Nat) (l : W32) (vals : List Val) : Nat × List Nat × W32 :=
  if vals.any fun v => v.isNan || v.isInf then ((if fmt ≤ 20 then 0xFF else 0x7F), vals.map (fun _ => 0), l)
  else
    let sc := blockScale fmt vals
    let r := vals.foldl (fun (a : List Nat × W32) v =>
      let q : Val := if sc.2 = 0 then .fin v.neg 0
        else mulVal v (.fin false ((if fmt = 20 then 64 else 1) / sc.2))
      let e := roundElem a.2 (fmtElem fmt) rnd true q false
      (a.1 ++ [e.1], e.2)) ([], l)
    (sc.1, r.1, r.2)

/-- Bits put at a place: the places, the bits set there and their mask, over what was put before. -/
def putBitsAt (ps : List Spot2) (sh width code : Nat) (acc : List (Spot2 × Nat × Nat)) : List (Spot2 × Nat × Nat) :=
  let v := code % 2 ^ width * 2 ^ sh
  let m := (2 ^ width - 1) * 2 ^ sh
  ps.zipIdx.foldl (fun acc p =>
    let vb := v / 256 ^ p.2 % 256
    let mb := m / 256 ^ p.2 % 256
    match acc.find? (·.1 == p.1) with
    | some old => acc.map fun x => if x.1 == p.1 then (x.1, old.2.1 - (old.2.1 &&& mb) + vb, old.2.2 ||| mb) else x
    | none => acc ++ [(p.1, vb, mb)]) acc

/-- One copy of a tile: blocks taken along rows, or down columns; element bits, block records, LFSR. -/
def quantCopy (b : Block) (core : Nat) (w : TileWork) (r : BufRec) (down : Bool) (vals : List ((Nat × Nat) × Val)) (l : W32) :
    List (Spot2 × Nat × Nat) × List (Nat × Nat) × W32 :=
  let L := fmtBlock r.fmt
  let order := if down then sortBy (fun x y => x.1.2 < y.1.2 || (x.1.2 == y.1.2 && x.1.1 ≤ y.1.1)) vals else vals
  let step := fun (a : List (Spot2 × Nat × Nat) × List (Nat × Nat) × W32) (i : Nat) =>
    let blk := (order.drop (i * L)).take L
    let q := quantBlock r.fmt r.rnd a.2.2 (blk.map (·.2))
    let e := (blk.head?.map (·.1)).getD (0, 0)
    let n := if down then colBlock r e.1 e.2 else rowBlock r e.1 e.2
    let puts := (blk.zip q.2.1).foldl (fun acc p =>
      let x := tileElem r p.1.1
      if x.2 then putBitsAt (elemPlaces b core w.tsp r x.1) x.1.sh r.width p.2 acc else acc) a.1
    (puts, a.2.1 ++ [(scaleVa r n, q.1)], q.2.2)
  (List.range (1024 / L)).foldl step ([], [], l)

/-- Perform one tile. -/
def doTile (s : State) (b : Block) (k : CopyCmd) (w : TileWork) : State × List OutByte :=
  let read := w.elems.foldl (fun (a : State × List ((Nat × Nat) × Val)) e =>
    let x := tileElem w.src e
    if x.2 then
      let r := cmdReads a.1 k (elemPlaces b k.core w.fsp w.src x.1)
      (r.1, a.2 ++ [(e, elemValue (fmtElem w.src.fmt) (ofBytes r.2 / 2 ^ x.1.sh % 2 ^ w.src.width))])
    else (a.1, a.2 ++ [(e, .fin false 0)])) (s, [])
  let l0 := coreLfsr read.1 k.core
  let q := quantCopy b k.core w w.row false read.2 l0
  let p := quantCopy b k.core w w.col true read.2 q.2.2
  let s1 := if p.2.2 = l0 then read.1 else setLfsr read.1 k.core p.2.2
  -- bits of a byte that the tile leaves are those that stand there
  let old := fun (x : Spot2) => (cmdRead s1 { k with taint := [], got := [] } x).2
  let bytes := (q.1 ++ p.1).map fun x =>
    (x.1, (BitVec.ofNat 8 (if x.2.2 = 255 then x.2.1 else (old x.1).toNat - ((old x.1).toNat &&& x.2.2) + x.2.1) : Byte))
  let recs := (q.2.1 ++ p.2.1).flatMap fun r =>
    (toBytes 4 r.2).zipIdx.map fun y => (((.memory, r.1 + y.2) : Spot2), y.1)
  cmdWrites s1 k (bytes ++ recs)

/-- Perform one unit; the bytes to send to peers. -/
def doUnit (s : State) (b : Block) (k : CopyCmd) (i : Nat) : State × List OutByte :=
  match tileWork s k i with
  | some w => doTile s b k w
  | none =>
    let m := moveAt b k i
    let r := cmdRead s k m.1
    cmdWrite r.1 k m.2 r.2

def setCmd (s : State) (k : CopyCmd) : State := { s with cmds := updWhere (·.id == k.id) (fun _ => k) s.cmds }

/-- Perform the units from the command's progress up to `upTo`; a line that they have written whole is poisoned no more
(02/R30). -/
def doUnits (s : State) (b : Block) (k : CopyCmd) (upTo : Nat) : State × List OutByte :=
  let r := (List.range (upTo - k.progress)).foldl (fun a i =>
    let r := doUnit a.1 b k (k.progress + i)
    (r.1, r.2.reverse ++ a.2)) (s, [])
  (clearPoison r.1 (r.2.map fun p => (p.pa, p.val)), r.2.reverse)

/-- Bytes written through peer windows, one request for each run; the command waits for their answers. -/
def sendBytes (s : State) (k : CopyCmd) (bytes : List OutByte) : State × Nat :=
  let bytes := bytes.filter fun p => !isHbm p.pa
  let last := fun (pa : Nat) => ((bytes.reverse.find? fun p => p.pa == pa).map (·.val)).getD 0
  let lay := fun (pa : Nat) => ((bytes.find? fun p => p.pa == pa).map (·.x)).getD noXlat
  let runs := runsOf ((bytes.map (·.pa)).foldr insertNat [])
  (runs.foldl (fun s r => askPeer s { id := 0, peer := peerIndex r.1, pa := r.1, cmd := some k.id
                                      op := .write ((List.range r.2).map fun i => last (r.1 + i)) } (lay r.1)) s, runs.length)

/-- Peer bytes that the rest of a command still needs. -/
def farNeeds (s : State) (b : Block) (k : CopyCmd) (c : Ctx) : List Xlat :=
  (((List.range (unitCount b k - k.progress)).flatMap fun i => unitReads s b k (k.progress + i)).filterMap fun p =>
    match p.1 with
    | .memory => match checkByte s c (copyReadNeed k) p.2 with
      | .ok y => if isHbm y.pa || k.got.any (·.1 == y.pa) then none else some y
      | .error _ => none
    | _ => none).eraseDups

/-- Ask peers for the bytes not yet asked for. -/
def askBytes (s : State) (k : CopyCmd) (needs : List Xlat) : State :=
  let asked := fun (pa : Nat) => s.peerOuts.any fun o => o.cmd == some k.id &&
    (match o.op with | .read n => o.pa ≤ pa && pa < o.pa + n | _ => false)
  let new := needs.filter fun p => !asked p.pa
  (runsOf ((new.map (·.pa)).foldr insertNat [])).foldl (fun s r =>
    askPeer s { id := 0, peer := peerIndex r.1, pa := r.1, cmd := some k.id, op := .read r.2 }
      ((new.find? fun p => p.pa == r.1).getD noXlat)) s

/-! ### Check-out pieces (04/R75-R77) -/

/-- The pieces of a check-out: one for each run of bytes that keeps its base die and its physical order, ascending. -/
def piecesOf (s : State) (c : Ctx) (o : CheckOut) (block : Nat) : List Piece :=
  let chunks := ((List.range ((o.va + o.len + 4095) / 4096 - o.va / 4096)).filterMap fun i =>
    let lo := max o.va ((o.va / 4096 + i) * 4096)
    let hi := min (o.va + o.len) ((o.va / 4096 + i + 1) * 4096)
    match lookup s c lo 4 with
    | .ok y => some ({ id := 0, base := homeOf s y.pa, lo := y.pa, hi := y.pa + (hi - lo), va := lo, excl := o.excl, block, cmd := o.cmd } : Piece)
    | .error _ => none)
  let sorted := sortBy (fun x y => x.lo ≤ y.lo) chunks
  sorted.foldr (fun p acc => match acc with
    | q :: r => if q.base = p.base ∧ q.lo = p.hi ∧ q.va = p.va + (p.hi - p.lo) then { p with hi := q.hi } :: r else p :: acc
    | [] => [p]) []

/-- The engine starts a check-out: its pieces set out for their base dies. -/
def startCheckout (s : State) (k : CopyCmd) : State :=
  match k.kind, findBlock s k.block, findCtx s k.ctx with
  | .chko _ _, some b, some c =>
    match outOf b k with
    | some o =>
      if s.pieces.any (·.cmd == k.id) || (firstBad s b k c).isSome then s
      else (piecesOf s c o k.block).foldl (fun s p =>
        let n := newId s
        { n.2 with pieces := n.2.pieces ++ [{ p with id := n.1 }] }) s
    | none => s
  | _, _, _ => s

/-- Entries of a base die's range table (01/R9). -/
def rangeEntries : Nat := 4096

def Piece.overlaps (p q : Piece) : Bool := p.id != q.id && p.base == q.base && p.lo < q.hi && q.lo < p.hi

/-- What a piece that arrives meets (04/R76): none, it registers; or it waits; or a fault with a cause. -/
inductive Meets where
  | registers | waits | fault (cause : Nat)
deriving DecidableEq, Repr

/-- No piece ahead of a waiting one holds it back, so that it waits for a free entry only. -/
def wantsEntry (others : List Piece) (q : Piece) : Bool :=
  let hit := (others.takeWhile (·.id != q.id) ++ others.filter (·.held)).filter q.overlaps
  if q.excl then hit.isEmpty else hit.all fun x => !x.excl

/-- What the held and waiting pieces ahead of one mean for it: all of them for one that arrives, the held ones and those before
it for one that waits. An entry that frees goes to the piece that has waited longest for one. -/
def meets (others : List Piece) (p : Piece) (nowait : Bool) : Meets :=
  let hit := others.filter p.overlaps
  let full := rangeEntries ≤ (others.filter fun q => q.base == p.base && (q.held || wantsEntry others q)).length
  if p.excl ∧ hit.any (·.excl) = true then .fault 1
  else if (if p.excl then hit ≠ [] else hit.any (·.excl) = true) then (if nowait then .fault 2 else .waits)
  else if hit.isEmpty && full then (if nowait then .fault 3 else .waits)
  else .registers

def updPiece (s : State) (p : Piece) : State := { s with pieces := updWhere (·.id == p.id) (fun _ => p) s.pieces }

/-- A piece reaches its base die, all earlier ones of its check-out being registered, or one that waits is granted. -/
def grantPiece (s : State) (id : Nat) : State :=
  match s.pieces.find? (·.id == id) with
  | none => s
  | some p =>
    match s.cmds.find? (·.id == p.cmd) with
    | none => s
    | some k =>
      let earlier := s.pieces.takeWhile (·.id != id)
      let nowait := match k.kind with | .chko _ n => n | _ => false
      -- a registration acts as an acquire at device scope (04/R78)
      let see := fun (s : State) => acquireAt s (cmdWho s k) .home
      if p.held || k.conflict.isSome || !ctxRuns s k.ctx then s
      else if !p.arrived then
        -- it goes behind every piece that is there already
        if s.pieces.any (fun q => q.cmd == p.cmd && q.lo < p.lo && !q.held) then s
        else
          match meets (s.pieces.filter (·.arrived)) p nowait with
          | .registers => see { s with pieces := (s.pieces.filter (·.id != id)) ++ [{ p with arrived := true, held := true }] }
          | .waits => { s with pieces := (s.pieces.filter (·.id != id)) ++ [{ p with arrived := true }] }
          | .fault cause => setCmd s { k with conflict := some cause }
      else
        let before := (earlier.filter (·.arrived)) ++ s.pieces.filter fun q => q.held && !earlier.contains q
        match meets before p false with
        | .registers => see (updPiece s { p with held := true })
        | _ => s

/-- Every piece of a check-out is registered. -/
def allHeld (s : State) (cmd : Nat) : Bool :=
  (s.pieces.any (·.cmd == cmd)) && s.pieces.all fun p => p.cmd != cmd || p.held

/-- Release a check-out: its pieces go and its handle is free. -/
def releaseOut (s : State) (block cmd : Nat) : State :=
  let s := { s with pieces := s.pieces.filter (·.cmd != cmd) }
  match findBlock s block with
  | some b => setBlock s { b with outs := b.outs.filter (·.cmd != cmd) }
  | none => s

/-! ### The end of a command -/

/-- Commands of a warp that have issued before this one, on its engine, and not started (10/R220). -/
def waitsBehind (s : State) (k : CopyCmd) : Bool :=
  s.cmds.any fun o => o.warp == k.warp && o.engine == k.engine && o.id < k.id && o.permit == .waiting

/-- The scratchpad bytes of a command's destination: it is over when the command completes (13/R293). -/
def stampDst (s : State) (k : CopyCmd) : State :=
  let runs := (copyDst s k).filter (·.space != .memory)
  match findBlock s k.block with
  | some b => setBlock s (stampSpad b (2 * k.warp + 1) (runs.flatMap fun r => (List.range r.len).map fun i => (r.space == .follower, r.at_ + i)))
  | none => s

/-- Wait of a batch: the tied `bwait`s whose batches have all completed give their acquire and clear their flags. -/
def endBatches (s : State) (w : Warp) : State × Warp :=
  let live := w.batches.map (·.num)
  let (done, rest) := w.bwaits.partition fun b => b.2.all fun n => !live.contains n
  (if done = [] then s else seeSpad (acquireAt s (whoOf s w) .home) w.id (2 * w.id + 1), { done.foldl (fun w b => w.lower (some b.1)) w with bwaits := rest })

/-- A command is complete: the warp sees its writes (07/R148), its flag clears, its batch loses it, its permit returns. -/
def finishCmd (s : State) (k : CopyCmd) : State :=
  let s := dropPermit { stampDst s k with cmds := s.cmds.filter (·.id != k.id) } (dieOf k.core) k.permit
  match findWarp s k.warp with
  | none =>
    -- a check-out that an ended block had under way is released (10/R231)
    if (findBlock s k.block).any (·.ended) then releaseOut s k.block k.id else s
  | some w =>
    let s := acquireAt s (whoOf s w) .home
    let s := if k.flag.isSome || w.groups.any (·.wait == .copy k.id) then seeSpad s w.id (2 * w.id + 1) else s
    let drop := fun (l : List Nat) => l.filter (· != k.id)
    let w := endWait (w.lower k.flag) (· == .copy k.id)
    let w := { w with openBatch := drop w.openBatch
                      batches := (w.batches.map fun b => { b with cmds := drop b.cmds }).filter (·.cmds != []) }
    let r := endBatches s w
    let live := r.2.batches.map (·.num)
    setWarp r.1 (endWait r.2 fun x => match x with | .batch n => !live.contains n | _ => false)

/-- The engine may work on a command. -/
def canWork (s : State) (k : CopyCmd) : Bool :=
  k.parked.isNone && k.permit != .waiting && !waitsBehind s k && ctxRuns s k.ctx && k.conflict.isNone

/-- What must have happened before the bytes of a command move: a `chko` needs its pieces; a `chki`, a release, its own `chko`
and the answers to the warp's earlier accesses (04/R78, 07/R139). -/
def readyToMove (s : State) (k : CopyCmd) : Bool :=
  match k.kind with
  | .chko _ _ => allHeld s k.id
  | .chki n _ => !(s.cmds.any (·.id == n)) && !(s.outs.any fun o => o.warp == k.warp && o.id < k.id && o.need != 0)
  | _ => true

/-- Do what is left of a command, unless it faults, waits for peers or is not yet ready. -/
def completeCmd (s : State) (k : CopyCmd) : State :=
  match findBlock s k.block, findCtx s k.ctx with
  | some b, some c =>
    if !canWork s k then s
    else if !readyToMove s k then startCheckout s k
    else if (firstBad s b k c).isSome then s
    else
      match farNeeds s b k c with
      | n :: ns => askBytes s k (n :: ns)
      | [] =>
        let total := unitCount b k
        let r := if k.progress < total then doUnits s b k total else (s, [])
        let q := sendBytes r.1 k r.2
        match q.1.cmds.find? (·.id == k.id) with
        | none => q.1
        | some k' =>
          let k' := { k' with progress := max total k.progress, sent := k'.sent + q.2 }
          let s1 := setCmd q.1 k'
          if k'.sent ≠ 0 then s1
          else
            match k.kind with
            | .chko _ _ =>
              match findBlock s1 k.block with
              | some b1 => finishCmd (setBlock s1 { b1 with outs := updWhere (·.cmd == k.id) (fun o => { o with complete := true }) b1.outs }) k'
              | none => finishCmd s1 k'
            | .chki n _ => finishCmd (releaseOut (releaseAt s1 (cmdWho s1 k) .home) k.block n) k'
            | _ => finishCmd s1 k'
  | _, _ => s

/-! ### Faults of engine commands (10/R223, 03/R54-R58) -/

/-- Words 4 and 5 of a command's record (17/R398). -/
def cmdProg (k : CopyCmd) : W64 × W64 :=
  let src := match k.kind with | .cpy .. => 1 | .cpyq .. => 2 | .chko _ _ => 3 | .chki _ _ => 4
  (BitVec.ofNat 64 k.progress,
    BitVec.ofNat 64 (src * 2 ^ 56 + match k.batch with | some n => n.toNat | none => 2 ^ 16))

/-- IDS of an engine command. -/
def cmdIds (s : State) (k : CopyCmd) (level : Nat) : W64 :=
  match findBlock s k.block with
  | some b => idsWord (((findLaunch s b.launch).map (·.grid)).getD 0) b.idx k.widx k.core level
  | none => idsWord 0 0 k.widx k.core level

/-- A fault of a command: it pauses on a FID in replayable mode, otherwise the record is written and its block killed. -/
def cmdFault (s : State) (k : CopyCmd) (f : Flt) : State :=
  match findCtx s k.ctx, findBlock s k.block with
  | some c, some b =>
    let f := { f with prog4 := (cmdProg k).1, prog5 := (cmdProg k).2 }
    if c.replays ∧ (f.kind = 1 ∨ f.kind = 2) then
      let fut := taskClass s b
      -- a task-class block becomes a waiter on the FID and is saved (03/R57)
      let park := fun (s : State) (fid : Nat) =>
        let s1 := setCmd s { k with parked := some fid }
        if fut then startSave s1 b.id else s1
      match c.parked.find? (fun p => p.page == f.va / 4096 && p.kind == f.kind) with
      | some p => park s p.fid
      | none =>
        if fltFull s c then s else
        let s1 := putRecord s c f (cmdIds s k f.level) true fut 0
        let add := fun (x : Ctx) => { x with parked := ⟨c.nextFid, f.va / 4096, f.kind⟩ :: x.parked }
        park { s1 with ctxs := updWhere (·.slot == c.slot) add s1.ctxs } c.nextFid
    else if fltFull s c then s
    else killBlock (logFault (putRecord s c f (cmdIds s k f.level) false false 0) f) b.id .fault
  | _, _ => s

/-- The engine meets a fault: the units before it are performed, and the fault is handled. -/
def faultCmd (s : State) (k : CopyCmd) : State :=
  match findBlock s k.block, findCtx s k.ctx with
  | some b, some c =>
    match k.conflict with
    | some cause =>
      if fltFull s c then s else
      let va := ((s.pieces.find? fun p => p.cmd == k.id && !p.arrived).map (·.va)).getD 0
      -- the pieces that it had registered are released (04/R77)
      cmdFault (releaseOut s k.block k.id) k { kind := 9, acc := 4, va, entry := BitVec.ofNat 64 cause }
    | none =>
      if !canWork s k then s
      else
        let pending := match k.kind with | .chko _ _ => !(s.pieces.any (·.cmd == k.id)) | _ => false
        if !(readyToMove s k || pending) then s
        else match firstBad s b k c with
        | none => s
        | some (i, e) =>
          if (farNeeds s b k c) ≠ [] ∧ pending = false then askBytes s k (farNeeds s b k c)
          else
            let r := if pending then (s, []) else doUnits s b k i
            let q := sendBytes r.1 k r.2
            match q.1.cmds.find? (·.id == k.id) with
            | none => q.1
            | some k' =>
              let k' := { k' with progress := if pending then k.progress else i, sent := k'.sent + q.2 }
              match e with
              | .fault f => cmdFault (setCmd q.1 k') k' f
              | _ => q.1
  | _, _ => s

end Sys2Proof.Machine
end

