-- ==== Sys2Proof/Machine/Copy.lean ====
section
/-! DEFINITION. Copies, check-outs, batches and `dec` (10/R219-R236), and the events of the copy engines. -/

namespace Sys2Proof.Machine

/-! ### Issue (10/R219-R223) -/

/-- A warp has at most 32 commands that have issued and not completed. -/
def copyRoom (s : State) (w : Warp) : Except Stop Unit :=
  if 32 ≤ (s.cmds.filter (·.warp == w.id)).length then .error (.wait .retry) else .ok ()

/-- A command issues: it joins the open batch, asks for a permit if it is heavy, and starts on the warp's engine. -/
def issueCopy (s : State) (x : Exe) (flag : Option Nat) (mk : Nat → CopyKind) (bytes : Nat) : State :=
  let n := newId s
  let p := if 65536 ≤ bytes then requestPermit n.2 x.w (.copy n.1) else (n.2, x.w, .notNeeded)
  let w := { p.2.1 with openBatch := p.2.1.openBatch ++ [n.1] }
  let k : CopyCmd := { id := n.1, warp := w.id, block := w.block, ctx := w.ctx, core := w.core, kind := mk n.1, flag
                       widx := w.idx, acq := tabGet 0 s.acq w.core, permit := p.2.2 }
  let s1 := retire { p.1 with cmds := p.1.cmds ++ [k] } (w.raise flag) { x.g with wait := if flag = none then .copy n.1 else x.g.wait }
  if canWork s1 k then startCheckout s1 k else s1

/-- The scratchpad rows of a box lie in the range of 04/R74. -/
def boxRange (b : Block) (core : Nat) (spad : Bool) (x : Box) : Except Stop Unit :=
  if spad && x.nx != 0 then
    match x.rows.find? fun (a : Nat) => (spadPlace b core (a : Int) x.nx).isNone with
    | some a => .error (.trap 8 (if (spadPlace b core (a : Int) 1).isNone then a else if 0x80000 ≤ a then 0x80000 + b.scr else b.scr) 0)
    | none => .ok ()
  else .ok ()

def execCpy (f : Fields) (s : State) : Host.Outcome State Fault Refusal :=
  execute s f fun s x => do
    let flag := tiedFlag x.g f
    tieCheck x.w flag
    let b ← blockOf s x.w
    let c := f.c.toNat
    let src := x.s f.a.toNat
    let dst := x.s f.d.toNat
    let d0 := x.s c
    let fsp := bit f.sub 0
    let tsp := bit f.sub 1
    boxRange b x.w.core fsp (srcBox src d0 (x.s (c + 1)))
    boxRange b x.w.core tsp (dstBox dst d0 (x.s (c + 2)))
    if bits d0 31 0 = 0 then .ok (retire s x.w x.g)
    else do
      copyRoom s x.w
      .ok (issueCopy s x flag (fun _ => .cpy fsp tsp (bit f.md 3) dst src d0 (x.s (c + 1)) (x.s (c + 2)))
        (srcBox src d0 0).bytes)

/-- The checks of `cpyq` on its records (10/R228, 09/R194): the number of the access that fails. -/
def cpyqBad (src row col : BufRec) : Option Nat :=
  let dst := fun (r : BufRec) => r.bad .f32 false || r.fmt < 15 || 22 < r.fmt || r.il == 0 || r.qf != 0xFF || r.rl % 32 != 0
  if src.bad .f32 false || 3 < src.fmt || src.il == 0 || src.qf != 0xFF then some 4
  else if dst row || dst col then some 5 else none

/-- An offset of an element that lies outside the scratchpad range. -/
def tileRange (b : Block) (core : Nat) (r : BufRec) (es : List (Nat × Nat)) : Except Stop Unit :=
  match es.findSome? fun e =>
      let x := tileElem r e
      if x.2 then ((List.range (r.span x.1)).map (x.1.va + ·)).find? fun (a : Nat) => (spadPlace b core (a : Int) 1).isNone
      else none with
  | some a => .error (.trap 8 a 0)
  | none => .ok ()

def execCpyq (f : Fields) (s : State) : Host.Outcome State Fault Refusal :=
  execute s f fun s x => do
    let flag := tiedFlag x.g f
    tieCheck x.w flag
    let b ← blockOf s x.w
    let org := x.s f.d.toNat
    let src := recordOf s x.w.block f.a.toNat
    let row := recordOf s x.w.block f.b.toNat
    let col := recordOf s x.w.block (bits f.imm 7 0)
    let ntx := bits f.imm 15 8
    let nty := bits f.imm 23 16
    if bits org 31 0 % 32 ≠ 0 ∨ bits org 63 32 % 32 ≠ 0 then .error illegal
    else match cpyqBad src row col with
    | some acc => .error (.fault { kind := 12, acc, va := 0, vaFree := true, prog5 := BitVec.ofNat 64 (2 * 2 ^ 56 + 2 ^ 16) })
    | none => do
      let es := cpyqElems org ntx nty
      let fsp := bit f.sub 1
      let tsp := bit f.sub 0
      if fsp then tileRange b x.w.core src es
      if tsp then do
        tileRange b x.w.core row es
        tileRange b x.w.core col es
      copyRoom s x.w
      .ok (issueCopy s x flag (fun _ => .cpyq fsp tsp (bit f.md 3) org f.a.toNat f.b.toNat (bits f.imm 7 0) ntx nty)
        (1024 * ntx * nty * (src.width / 8)))

def execChko (f : Fields) (s : State) : Host.Outcome State Fault Refusal :=
  execute s f fun s x => do
    let flag := tiedFlag x.g f
    tieCheck x.w flag
    let b ← blockOf s x.w
    let va := (x.s f.a.toNat).toNat
    let len := rangeLen x f
    let off := (x.s f.c.toNat).toNat
    boxRange b x.w.core true { base := off, nx := len, ny := 1, nz := 1, sy := 0, sz := 0 }
    match (if len = 0 then none else (List.range 16).find? fun h => !b.outs.any (·.handle == h)) with
    | none => .ok (retire s ((x.w.setS x.slices f.d.toNat (BitVec.allOnes 64)).setZ x.slices true) x.g)
    | some h => do
      copyRoom s x.w
      let w := (x.w.setS x.slices f.d.toNat (BitVec.ofNat 64 h)).setZ x.slices false
      -- the command's number is the next new one
      let o : CheckOut := { handle := h, excl := bit f.sub 0, va, len, off, complete := false, cmd := s.nextId }
      .ok (issueCopy (setBlock s { b with outs := o :: b.outs }) { x with w } flag (fun _ => .chko h (bit f.sub 1)) len)

/-- The meaning of `chki` (10/R231). -/
def checkIn (drop : Bool) (f : Fields) (s : State) (x : Exe) : Except Stop State := do
  let flag := tiedFlag x.g f
  tieCheck x.w flag
  let b ← blockOf s x.w
  match b.outs.find? (fun (o : CheckOut) => o.handle == (x.s f.a.toNat).toNat) with
  | none => .ok (retire s (x.w.setZ x.slices true) x.g)
  | some o => do
    copyRoom s x.w
    .ok (issueCopy s { x with w := x.w.setZ x.slices false } flag (fun _ => .chki o.cmd drop)
      (if o.excl && !drop then o.len else 0))

def execChki (f : Fields) (s : State) : Host.Outcome State Fault Refusal :=
  execute s f fun s x => checkIn false f s x

def execChkiDrop (f : Fields) (s : State) : Host.Outcome State Fault Refusal :=
  execute s f fun s x => checkIn true f s x

/-! ### Batches (10/R232-R233) -/

def execBclose (f : Fields) (s : State) : Host.Outcome State Fault Refusal :=
  execute s f fun s x =>
    match (if 8 ≤ x.w.batches.length then x.w.batches.head? else none) with
    | some oldest => .error (.wait (.batch oldest.num))
    | none =>
      let n := x.w.batchNo + 1
      let w := x.w.setS x.slices f.d.toNat (n.setWidth 64)
      let w := { w with batchNo := n, openBatch := []
                        batches := if w.openBatch = [] then w.batches else w.batches ++ [⟨n, w.openBatch⟩] }
      .ok (retire { s with cmds := updWhere (fun k => x.w.openBatch.contains k.id) (fun k => { k with batch := some n }) s.cmds } w x.g)

/-- The batches that `bwait` of a number waits for. -/
def batchesUpTo (w : Warp) (n : W16) : List W16 := (w.batches.map (·.num)).filter fun b => (n - b).toNat < 32768

def execBwait (f : Fields) (s : State) : Host.Outcome State Fault Refusal :=
  execute s f fun s x => do
    let flag := tiedFlag x.g f
    tieCheck x.w flag
    let n : W16 := if f.bk = .imm then f.imm.setWidth 16 else (x.s f.b.toNat).setWidth 16
    match batchesUpTo x.w n, flag with
    | [], _ => .ok (retire (seeSpad (acquireAt s (whoOf s x.w) .home) x.w.id (2 * x.w.id + 1)) x.w x.g)
    | _, none => .error (.wait .stall)
    | bs, some a => .ok (retire s { x.w.raise flag with bwaits := x.w.bwaits ++ [(a, bs)] } x.g)

/-! ### dec (10/R234-R236) -/

/-- The elements of a `dec` go to its registers, and the offsets advance. -/
def landDec (x : Exe) (f : Fields) (form : Nat) (flag : Option Nat) (d : Stream8) (es : List Nat) (svals : List (Nat × W64)) : State :=
  let regs := decRegs f (lanesOf x.en) es
  let sregs := svals.flatMap fun v => x.slices.map fun j => (v.1, j, v.2.toNat)
  let put := fun (w : Warp) => sregs.foldl (fun w r => writeReg w true r.1 r.2.1 r.2.2)
    (regs.foldl (fun w r => writeReg w false r.1 r.2.1 r.2.2) w)
  match flag with
  | none => retire d.s (put x.w) x.g
  | some _ =>
    let id := newId d.s
    let m := markRegs id.2 x.w false (regs.map fun r => (r.1, r.2.1))
    let q := markRegs m.1 m.2.1 true (sregs.map fun r => (r.1, r.2.1))
    let o : Outstanding := { id := id.1, warp := x.w.id, flag, vwrites := vList regs, swrites := sList sregs
                             vmarks := vList m.2.2, smarks := sList q.2.2, spad := true, kinds := 1, slices := lanesSlices x.en
                             reads := d.seen, redo := some (form, f, x.s f.a.toNat, x.s f.b.toNat) }
    retire { q.1 with outs := q.1.outs ++ [o] } (q.2.1.raise flag) x.g

/-- The meaning of a form of `dec` (SUB). -/
def decode32 (form : Nat) (f : Fields) (s : State) (x : Exe) : Except Stop State := do
  let flag := tiedFlag x.g f
  tieCheck x.w flag
  let b ← blockOf s x.w
  let r ← decGo f form { s, b, core := x.w.core } (x.s f.a.toNat) (x.s f.b.toNat)
  .ok (landDec x f form flag r.1 r.2.1 r.2.2)

def execDecLut (f : Fields) (s : State) : Host.Outcome State Fault Refusal :=
  execute s f fun s x => decode32 0 f s x

def execDecRle0 (f : Fields) (s : State) : Host.Outcome State Fault Refusal :=
  execute s f fun s x => decode32 1 f s x

def execDecSp24 (f : Fields) (s : State) : Host.Outcome State Fault Refusal :=
  execute s f fun s x => decode32 2 f s x

/-! ### Events -/

/-- A fault met by a command's engine (10/R223). -/
def execCopyEngineFault (cmd : Nat) (s : State) : Host.Outcome State Fault Refusal :=
  event s fun s => match s.cmds.find? (·.id == cmd) with
    | some k => faultCmd s k
    | none => s

/-- A `cpy`, `cpyq` or `chko` has performed its last byte (10/R221). -/
def execCopyCommandComplete (cmd : Nat) (s : State) : Host.Outcome State Fault Refusal :=
  event s fun s => match s.cmds.find? (·.id == cmd) with
    | some k => match k.kind with
      | .chki _ _ => s
      | _ => completeCmd s k
    | none => s

def execCheckoutPieceGrant (piece : Nat) (s : State) : Host.Outcome State Fault Refusal :=
  event s fun s => grantPiece s piece

/-- A check-in has performed its data and released its pieces (10/R231). -/
def execCheckinComplete (cmd : Nat) (s : State) : Host.Outcome State Fault Refusal :=
  event s fun s => match s.cmds.find? (·.id == cmd) with
    | some k => match k.kind with
      | .chki _ _ => completeCmd s k
      | _ => s
    | none => s

end Sys2Proof.Machine
end

