-- ==== Sys2Proof/Machine/Launch.lean ====
section
/-! DEFINITION. From launch to core (16/R367-R386): the front end's accesses, kernel headers and launch records, dependence
counters, placement and dispatch. -/

namespace Sys2Proof.Machine

/-! ### Accesses of the front end and the dispatcher (16/R464) -/

def needFrontRead : Need := { perm := 1, acc := 7, peer := false }
def needFrontWrite : Need := { perm := 2, acc := 7, writes := true, peer := false }

/-- Bytes read at the home in a context, and the lines of the LLC that the read has used. -/
def frontRead (s : State) (c : Ctx) (va n : Nat) : Except Flt (State × List Byte) :=
  match checkBytes s c needFrontRead va n with
  | .error f => .error f
  | .ok xs =>
    match (xs.mapIdx fun i x => (badRead s x.pa).map fun src => mcFault src x.pa (va + i) 7).findSome? id with
    | some f => .error f
    | none => .ok (llcRead s (xs.map (·.pa)), xs.map fun x => homeByte s x.pa)

/-- Bytes written at the home in a context. -/
def frontWrite (s : State) (c : Ctx) (va : Nat) (bytes : List Byte) : Except Flt State :=
  match checkBytes s c needFrontWrite va bytes.length with
  | .error f => .error f
  | .ok xs => .ok (homeStoreAs s c.compat ((xs.map (·.pa)).zip bytes))

/-- The record of a failure: no core, and the grid and block where there is one. None while the fault queue is full. -/
def frontRecord (s : State) (ctx : Nat) (f : Flt) (grid block : Nat) : Option State :=
  match findCtx s ctx with
  | none => some s
  | some c =>
    if fltFull s c then none else some (logFault (putRecord s c f (idsWord grid block 0 0x1FF f.level) false false 0) f)

/-! ### Records (16/R367-R369) -/

/-- Size of a state slot by its code. -/
def slotSize (code : Nat) : Nat := if code = 0 then 0 else 128 * 2 ^ code

/-- What makes a launch record malformed by itself; `n` counters belong to the context. -/
def recordBad (r : List W64) (n : Nat) : Bool :=
  let w := fun i => r.getD i 0
  let cls := bits (w 1) 43 40
  let size := slotSize (bits (w 6) 2 0)
  bits (w 1) 63 45 != 0 || bits (w 3) 31 29 != 0 || bits (w 3) 15 13 != 0 || bits (w 6) 63 27 != 0 || bits (w 6) 7 3 != 0
    || 3 ≤ cls || bits (w 1) 39 32 == 0 || 32 < bits (w 1) 39 32 || bits (w 1) 31 0 == 0 || 65536 < bits (w 1) 31 0
    || 6 ≤ bits (w 6) 2 0 || (cls ≤ 1 && size != 0) || bits (w 6) 26 8 % 256 != 0
    || (size != 0 && (w 5).toNat % size != 0) || (w 7).toNat % 16 != 0 || (w 0).toNat % 64 != 0
    || (bit (w 3) 12 && n ≤ bits (w 3) 11 0) || (bit (w 3) 28 && n ≤ bits (w 3) 27 16)

/-- What makes it malformed together with its kernel header. -/
def headerBad (r h : List W64) : Bool :=
  let w := fun i => r.getD i 0
  let k := fun i => h.getD i 0
  let nwarp := bits (w 1) 39 32
  let clus := bits (k 3) 44 41
  let size := slotSize (bits (w 6) 2 0)
  bits (k 3) 63 45 != 0 || bits (k 3) 31 29 != 0 || bits (k 3) 15 9 != 0 || [4, 5, 6, 7].any (fun i => k i != 0)
    || 8 < clus || 80 < bits (k 3) 40 32 || 6 < bits (k 3) 27 24 || 256 < bits (k 3) 8 0 || (k 2).toNat % 64 != 0
    || (slotIndex (k 0)).isNone || (k 1 != 0 && (slotIndex (k 1)).isNone) || (!bit (k 3) 28 && 16 < nwarp)
    || (clus != 0 && (bits (w 1) 43 40 == 2 || bits (w 1) 31 0 % clus != 0)) || (bit (w 1) 44 && clus == 0)
    || (size != 0 && bits (k 3) 40 32 * 4096 < bits (w 6) 26 8 + size)
    || (List.range 8).any fun j => bit (k 3) (16 + j) && (4 ≤ j || nwarp < 4 * j + 4)

/-- The kernel of a header with its record table. -/
def kernelOf (h : List W64) (recs : List Byte) : Kernel :=
  let k := fun i => h.getD i 0
  { entry := (slotIndex (k 0)).getD 0, access := if k 1 = 0 then none else slotIndex (k 1), clus := bits (k 3) 44 41
    scr := bits (k 3) 40 32 * 4096, pair := bit (k 3) 28, maxLimit := 64 + 32 * bits (k 3) 27 24
    baton := (k 3).extractLsb' 16 8
    recs := (List.range (bits (k 3) 8 0)).map fun n => (List.range 5).map fun i => word64 recs (40 * n + 8 * i) }

/-- The dispatcher reads the header and the record table: the kernel, or that the record is malformed, with the failure of a
read. -/
def readKernel (s : State) (c : Ctx) (r : List W64) : Except (Option Flt) (State × Kernel) :=
  if recordBad r (64 * c.cgCount) then .error none
  else match frontRead s c (r.getD 0 0).toNat 64 with
  | .error f => .error (some f)
  | .ok hb =>
    let h := (List.range 8).map fun i => word64 hb.2 (8 * i)
    if headerBad r h then .error none
    else match frontRead hb.1 c (h.getD 2 0).toNat (40 * bits (h.getD 3 0) 8 0) with
    | .error f => .error (some f)
    | .ok rb => .ok (rb.1, kernelOf h rb.2)

/-! ### Dependence counters (16/R373-R374) -/

def counterKey (c : Ctx) (n : Nat) : Nat := 64 * c.cgFirst + n

/-- Launches that wait on a counter become ready when it reads 0. -/
def wake (s : State) (c : Ctx) (n : Nat) : State :=
  if tabGet 0 s.counters (counterKey c n) = 0 then
    let waits := fun (l : Launch) => l.ctx == c.slot && l.wctr == some n && !l.ready
    { s with launches := updWhere waits (fun l => { l with ready := true, readyAt := s.clk }) s.launches }
  else s

def setCounter (s : State) (c : Ctx) (n : Nat) (x : W32) : State :=
  wake { s with counters := tabSet 0 s.counters (counterKey c n) x } c n

def addCounter (s : State) (c : Ctx) (n : Nat) (d : W32) : State :=
  setCounter s c n (tabGet 0 s.counters (counterKey c n) + d)

/-! ### Completion (16/R372) -/

/-- Write a completion report and decrement the successor counter; none while the fault queue has no room for the record of a
failed write. -/
def reportEnd (s : State) (ctx : Nat) (crep : Nat) (sctr : Option Nat) (grid status nfail : Nat) : Option State :=
  match findCtx s ctx with
  | none => some s
  | some c =>
    let words := [BitVec.ofNat 64 (status + nfail * 2 ^ 32), BitVec.ofNat 64 s.now]
    let r : Option State := if crep = 0 then some s else
      match frontWrite s c crep (wordsToBytes words) with
      | .ok s1 => some s1
      | .error f => frontRecord s ctx f grid 0
    r.map fun s1 => match sctr with
      | some n => addCounter s1 c n (-1)
      | none => s1

/-! ### Room on a core (16/R379, R383, 06/R109-R110, R127, 04/R73) -/

/-- Deadline slots of every core. -/
def dlSlots (s : State) : Nat := min 2 s.dlres

def spadSize : Nat := 327680

/-- A block takes up a core. -/
def onCore (b : Block) (core : Nat) : Bool := b.core == core || (b.pair && b.core + 1 == core)

/-- A block still has engine commands. -/
def hasCommands (s : State) (block : Nat) : Bool :=
  s.cmds.any (·.block == block) || s.nbcmds.any (·.block == block) || s.queries.any (fun q => q.block == block && !q.ended)
    || s.ops.any (·.block == block) || s.packets.any (·.block == block)

/-- What a block takes up on a core; its scratchpad until its warps have left and its commands are complete (11/R253). -/
def footAmong (ws : List Warp) (b : Block) (core : Nat) : Foot :=
  let ws := ws.filter (·.block == b.id)
  { core, there := b.placed, slotted := b.slotted, warps := ws.map fun w => (w.quad, w.limit)
    frags := ws.flatMap fun w => (w.groups.filter (·.frag.isSome)).map fun _ => w.quad
    base := if b.core = core then b.base else b.baseF, scr := b.scr }

/-- Warps resident on a core. -/
def coreWarps (s : State) (core : Nat) : List Warp := s.warps.filter fun w => w.core == core && w.resident

/-- What is taken on a core, but for one block. -/
def feetOn (s : State) (core : Nat) (but : Option Nat) : List Foot :=
  match s.blocks.filter fun b => onCore b core && some b.id != but && (b.placed || hasCommands s b.id) with
  | [] => []
  | bs => let ws := coreWarps s core; bs.map (footAmong ws · core)

/-- Deadline slots of a core that are reserved or in use. -/
def slotsTaken (s : State) (fs : List Foot) : Nat := max (dlSlots s) (fs.filter fun f => f.there && f.slotted).length

def total (l : List Nat) : Nat := l.foldl (· + ·) 0

/-- Warps of a block in a quadrant, and their registers. -/
def Foot.places (f : Foot) (quad : Nat) : Nat := (f.warps.filter (·.1 == quad)).length
def Foot.regs (f : Foot) (quad : Nat) : Nat := total ((f.warps.filter (·.1 == quad)).map (·.2))
def Foot.extra (f : Foot) (quad : Nat) : Nat := (f.frags.filter (· == quad)).length

/-- Places of a quadrant outside the deadline slots that are free. -/
def freePlaces (s : State) (fs : List Foot) (quad : Nat) : Nat :=
  16 - slotsTaken s fs - total (fs.map fun f => (if f.slotted then 0 else f.places quad) + f.extra quad)

/-- The free remainder of a quadrant's register file, deadline slots aside: 64 registers of each of their warps belong to the
slot. -/
def freeRegs (s : State) (fs : List Foot) (quad : Nat) : Nat :=
  1024 - 64 * slotsTaken s fs - total (fs.map fun f => if f.slotted then f.regs quad - 64 * f.places quad else f.regs quad)

/-- The pool of a quadrant (06/R127). -/
def poolFree (s : State) (core quad : Nat) : Nat := freeRegs s (feetOn s core none) quad

/-- A run of scratchpad meets none that is taken. -/
def runFree (fs : List Foot) (base len : Nat) : Bool := fs.all fun f => f.scr = 0 || base + len ≤ f.base || f.base + f.scr ≤ base

/-- The lowest free run of an allocation below the deadline slots' share, which stands at the top (04/R73, 16/R383, log 48). -/
def lowestRun (s : State) (fs : List Foot) (len : Nat) : Option Nat :=
  let top := spadSize - dlSlots s * s.dlscr * 4096
  ((0 :: fs.map fun f => f.base + f.scr).filter fun a => a + len ≤ top && runFree fs a len).foldl (fun r a => match r with
    | none => some a
    | some m => some (min m a)) none

/-- The scratchpad of a free deadline slot. -/
def slotRun (s : State) (fs : List Foot) : Option Nat :=
  let one := s.dlscr * 4096
  ((List.range (dlSlots s)).map fun k => spadSize - (k + 1) * one).find? fun a => runFree fs a one

/-- What a block asks for: the register limit of each of its warps in order, and the rest. -/
structure Shape where
  id : Option Nat := none
  ctx : Nat
  pair : Bool
  scr : Nat
  limits : List Nat
  baton : Nat

/-- Register limits that a quadrant must take. -/
def quadLimits (limits : List Nat) (q : Nat) : List Nat := (limits.zipIdx.filter fun p => p.2 % 4 == q).map (·.1)

/-- The warps of one core, in order, fit among what is taken there (16/R383). -/
def halfFits (s : State) (fs : List Foot) (limits : List Nat) : Bool :=
  (List.range 4).all (fun q =>
      (quadLimits limits q).length ≤ freePlaces s fs q && total (quadLimits limits q) ≤ freeRegs s fs q)
    && (fs.filter fun f => f.there && !f.slotted).length + slotsTaken s fs < 16

/-- Where a block goes: its core, whether into a deadline slot, and its runs of scratchpad. -/
structure Berth where
  core : Nat
  slotted : Bool := false
  base : Nat := 0
  baseF : Nat := 0
deriving DecidableEq, Repr

/-- What launches that reserve places leave to others on their dies (16/R378). -/
abbrev Shadows := List (Nat × List Foot)

/-- A free run of one core for a block whose warps fit there, and also where reserved places count as taken. -/
def halfBerth (s : State) (sh : Shadows) (x : Shape) (core : Nat) (limits : List Nat) : Option Nat :=
  let real := feetOn s core x.id
  let kept := (sh.filter (·.1 == dieOf core)).map fun p => p.2.filter (·.core == core)
  if halfFits s real limits && kept.all (halfFits s · limits) then lowestRun s (real ++ kept.flatten) x.scr else none

/-- The pair takes the pair-block: room in the ring, no pair-block of another context, no reset; a saved one goes where its
pair's state can be put back (log 33). -/
def pairFits (s : State) (x : Shape) (core : Nat) : Bool :=
  let p := pairOf core
  let here := s.blocks.filter fun b => b.placed && b.pair && pairOf b.core == p
  let kept := s.savedPairs.any fun k => k.pair == p && k.ctx == x.ctx
  core % 2 == 0 && !(tabGet {} s.pairs p).resetting && here.all (·.ctx == x.ctx)
    && (match x.id with
      | some _ => !kept || here == []
      | none => !kept && (tabGet {} s.pairs p).ring.length + x.baton ≤ 4)

/-- The berth of a block on a core outside the deadline slots, if it fits. -/
def openBerth (s : State) (sh : Shadows) (x : Shape) (core : Nat) : Option Berth :=
  if x.pair then
    if !pairFits s x core then none
    else match halfBerth s sh x core (x.limits.take 16), halfBerth s sh x (core + 1) (x.limits.drop 16) with
      | some a, some b => some { core, base := a, baseF := b }
      | _, _ => none
  else (halfBerth s sh x core x.limits).map fun a => { core, base := a }

/-- A free deadline slot of a core takes the block, whose registers beyond a slot's come from the pool. Reservations under R378
do not touch the slots. -/
def slotBerth (s : State) (x : Shape) (core : Nat) : Option Berth :=
  let fs := feetOn s core x.id
  let room := (List.range 4).all fun q =>
    let mine := quadLimits x.limits q
    mine.length ≤ 1 && total (fs.map fun f => f.places q + f.extra q) + mine.length ≤ 16
      && total mine - 64 ≤ freeRegs s fs q && total (fs.map fun f => f.regs q) + total mine ≤ 1024
  if (fs.filter fun f => f.there && f.slotted).length < dlSlots s && (fs.filter (·.there)).length < 16
      && x.scr ≤ s.dlscr * 4096 && !x.pair && room then
    (slotRun s fs).map fun a => { core, slotted := true, base := a }
  else none

/-! ### The choice of a core (16/R384) -/

/-- The stack that holds an affinity's home, where it translates. -/
def affStack (s : State) (c : Ctx) (aff : W64) : Option Nat :=
  if aff = 0 then none
  else match lookup s c aff.toNat 7 with
    | .ok x => if isHbm x.pa then some (homeOf s x.pa) else none
    | .error _ => none

/-- The core with the fewest hops to a stack among those that `ok` allows, ties to the lowest number. -/
def nearest (ok : Nat → Bool) (stack : Nat) (cores : List Nat) : Option Nat :=
  cores.foldl (fun r core => match r with
    | none => if ok core then some core else none
    | some best => if Config.meshHops core stack < Config.meshHops best stack && ok core then some core else some best) none

def chooseBy (s : State) (ok : Nat → Bool) (stack : Option Nat) : Option Nat :=
  match stack with
  | some h => nearest ok h (List.range 384)
  | none => ((List.range 384).map fun i => (s.prevPlace + 1 + i) % 384).find? ok

/-- The berth of a block: a free deadline slot for one of the deadline class, else unreserved places (R381). -/
def chooseBerth (s : State) (sh : Shadows) (x : Shape) (deadline : Bool) (stack : Option Nat) (allowed : Nat → Bool) :
    Option Berth :=
  match (if deadline then chooseBy s (fun c => allowed c && (slotBerth s x c).isSome) stack else none) with
  | some c => slotBerth s x c
  | none => (chooseBy s (fun c => allowed c && (openBerth s sh x c).isSome) stack).bind (openBerth s sh x)

/-! ### Dispatch of a block (16/R371, R382, 13/R300, R309, 05/R105, 06/R110) -/

/-- A context is loaded on a core that holds no block of it: the LFSR starts again (05/R105) and the scale cache is empty
(13/R294). -/
def setNthLoaded (s : State) (core : Nat) (c : Ctx) : State :=
  if s.blocks.any fun b => b.placed && b.ctx == c.slot && onCore b core then s
  else { s with lfsr := tabSet none s.lfsr core (some (lfsrSeed c.srseed core)), scale := tabSet [] s.scale core [] }

/-- The pair's state before a pair-block comes to it: kept state comes back with a saved block, otherwise a pair without
pair-blocks starts afresh. -/
def preparePair (s : State) (b : Block) (saved : Bool) : State :=
  let p := pairOf b.core
  if !b.pair || s.blocks.any (fun x => x.id != b.id && x.placed && x.pair && pairOf x.core == p) then s
  else
    let clean := { s with z := s.z.filter fun t => t.1 / 8 != p, pairs := tabSet {} s.pairs p {} }
    match (if saved then s.savedPairs.find? fun k => k.pair == p && k.ctx == b.ctx else none) with
    | none => clean
    | some k => { clean with
        z := k.tiles.foldl (fun t x => tabSet 0 t x.1 x.2) clean.z
        pairs := tabSet {} clean.pairs p k.state
        savedPairs := clean.savedPairs.filter fun x => !(x.pair == p && x.ctx == b.ctx) }

/-- Warps resident in a quadrant of a core. -/
def quadResidents (s : State) (core quad : Nat) : List Warp := s.warps.filter fun w => w.resident && w.core == core && w.quad == quad

/-- The places taken in a quadrant, of warps and of fragments (06/R110, R122). -/
def quadPlaces (ws : List Warp) : List Place := ws.flatMap fun w => w.place :: w.groups.filterMap (·.frag)

/-- Warps enter the active set of their quadrant while it has room (16/R385). -/
def enterQuad (s : State) (w : Warp) : Warp :=
  let others := quadPlaces ((quadResidents s w.core w.quad).filter (·.id != w.id))
  { w with place := { active := (others.filter (·.active)).length < 8, readySince := tabGet 0 s.coreClk w.core, since := s.choice } }

/-- The dispatch of a block is an acquire at device scope for its warps (14/R322, 16/R382, 07/R145). -/
def acquireBlock (s : State) (block : Nat) : State :=
  (s.warps.filter (·.block == block)).foldl (fun s w => acquireAt s (whoOf s w) .home) s

/-- Core of a warp of a block. -/
def warpCore (b : Block) (idx : Nat) : Nat := if b.pair && 16 ≤ idx then b.core + 1 else b.core

/-- A new warp (R371, 11/R247). -/
def newWarp (l : Launch) (b : Block) (id idx age : Nat) : Warp :=
  let slice : Slice := { active := 15, s := if l.arg = 0 then [] else [(1, l.arg)] }
  let core := warpCore b idx
  { id, block := b.id, ctx := l.ctx, idx, core, quad := idx % 4, slices := tabFill { active := 0 } 8 slice
    groups := [{ slices := 0xFF, pc := l.kernel.entry }], runs := 0xFF, age
    acc := match l.kernel.access with
      | some pc => { st := .running, pc }
      | none => {}
    q := tabFill {} 8 (if l.kernel.access.isSome then {} else { stream := { st := .closed } }) }

/-- What a block takes up counts as taken for the launches that reserve its die (16/R378). -/
def shadowed (s : State) (b : Block) : State :=
  if s.launches.all (·.reserves != some (dieOf b.core)) then s else
  let feet := (if b.pair then [b.core, b.core + 1] else [b.core]).map fun k => footAmong (coreWarps s k) b k
  { s with launches := updWhere (·.reserves == some (dieOf b.core)) (fun m => { m with shadow := m.shadow ++ feet }) s.launches }

/-- Put a new block of a launch on a core, its slot's bytes staged in its scratchpad. -/
def placeNew (s : State) (c : Ctx) (l : Launch) (idx : Nat) (at_ : Berth) (staged : List Byte) : State :=
  let n := newId s
  let core := at_.core
  let b : Block := { id := n.1, launch := l.id, ctx := l.ctx, idx, core, pair := l.kernel.pair, scr := l.kernel.scr
                     slotted := at_.slotted, base := at_.base, baseF := at_.baseF
                     slot := if l.ssize = 0 then none else some ((l.sslot.toNat + idx * l.ssize) % 2 ^ 64) }
  let b := if staged = [] then b else { putSpad b 0 (false, l.ssoff) staged with spadClock := 0, spadStamp := [] }
  let s1 := preparePair n.2 b false
  let cores := if b.pair then [core, core + 1] else [core]
  let s2 := cores.foldl (fun s k => restartGrow (setNthLoaded s k c) k) s1
  let s3 := { s2 with blocks := s2.blocks ++ [b], prevPlace := core }
  let s4 := (List.range l.nwarp).foldl (fun s i =>
    let m := newId s
    let w := enterQuad m.2 (newWarp l b m.1 i n.1)
    { m.2 with warps := m.2.warps ++ [w] }) s3
  let quads := if b.pair then (List.range 4).filter fun j => bit l.kernel.baton j else []
  let p := tabGet {} s4.pairs (pairOf core)
  let s5 := if quads = [] then s4 else { s4 with pairs := tabSet {} s4.pairs (pairOf core) { p with ring := p.ring ++ quads.map fun j => (b.id, j) } }
  shadowed (acquireBlock s5 b.id) b

/-- The shape of a block of a launch. -/
def Launch.shape (l : Launch) : Shape :=
  { ctx := l.ctx, pair := l.kernel.pair, scr := l.kernel.scr, limits := List.replicate l.nwarp 64
    baton := ((List.range 4).filter fun j => bit l.kernel.baton j).length }

/-- A block of a launch counts as ended without having run. -/
def countFailed (s : State) (l : Launch) (idx : Nat) : State :=
  { s with launches := updWhere (·.id == l.id) (fun l => { l with fails := l.fails ++ [(idx, .fault)], endedBlocks := l.endedBlocks + 1 }) s.launches }

/-- Dispatch a new block on a core, staging its slot (R382, R464). None while the fault queue has no room for the record of a
failed read. -/
def startBlock (s : State) (c : Ctx) (l : Launch) (idx : Nat) (at_ : Berth) : Option State :=
  if l.ssize = 0 then some (placeNew s c l idx at_ [])
  else match frontRead s c ((l.sslot.toNat + idx * l.ssize) % 2 ^ 64) l.ssize with
    | .ok r => some (placeNew r.1 c l idx at_ r.2)
    | .error f => (frontRecord s l.ctx f l.grid idx).map fun s => countFailed s l idx

/-- A saved block comes back on a core (17/R401, 07/R145): its warps keep their state and acquire at device scope; the restore
of a pair-block empties the reuse latch (13/R291). -/
def restoreBlock (s : State) (c : Ctx) (b : Block) (at_ : Berth) : State :=
  let core := at_.core
  let b := { b with core, placed := true, slotted := at_.slotted, base := at_.base, baseF := at_.baseF }
  let s1 := preparePair s b true
  let cores := if b.pair then [core, core + 1] else [core]
  let s2 := cores.foldl (fun s k => restartGrow (setNthLoaded s k c) k) s1
  let n := newId s2
  let s3 := { setBlock n.2 b with prevPlace := core }
  let ids := (s3.warps.filter (·.block == b.id)).map (·.id)
  let s4 := ids.foldl (fun s id => match findWarp s id with
    | none => s
    | some w =>
      -- its reservation of permits goes with it (log 48)
      let s := takePermits (returnPermits s (dieOf w.core) w.permits) (dieOf (warpCore b w.idx)) w.permits
      let w := { w with core := warpCore b w.idx, resident := true, age := n.1 }
      let s := setWarp s w
      setWarp s (enterQuad s w)) s3
  let s5 := shadowed (acquireBlock s4 b.id) b
  if b.pair then emptyLatch s5 (pairOf b.core) else s5

/-! ### Gang-class launches (06/R112, 04/R72) -/

/-- No block of another launch is on the cluster. -/
def clusterClear (s : State) (launch cluster : Nat) : Bool :=
  s.blocks.all fun b => !b.placed || b.launch == launch || clusterOf b.core != cluster

/-- A cluster that another launch has fused takes no block, also while that launch's blocks are saved (04/R72). -/
def clusterOpen (s : State) (launch cluster : Nat) : Bool :=
  !s.fused.contains cluster
    || ((findLaunch s launch).any (·.fuse) && s.blocks.any fun b => b.launch == launch && clusterOf b.core == cluster)

/-- Place blocks `idx` to `idx + n - 1` on cores that `ok` allows, one after another. -/
def placeRun (c : Ctx) (l : Launch) (sh : Shadows) (stack : Option Nat) (ok : State → Nat → Bool) : Nat → Nat → State → Option State
  | _, 0, s => some s
  | idx, n + 1, s =>
    match chooseBerth s sh l.shape l.deadline stack (ok s) with
    | none => none
    | some k => placeRun c l sh stack ok (idx + 1) n (placeNew s c l idx k [])

/-- Fuse the L1s of a cluster: each is written back and invalidated first. -/
def fuse (s : State) (cluster : Nat) : State :=
  if s.fused.contains cluster then s
  else
    let s1 := (List.range 8).foldl (fun s i => flushL1 s (8 * cluster + i)) s
    { s1 with fused := cluster :: s1.fused }

def unfuse (s : State) (cluster : Nat) : State :=
  if s.fused.contains cluster then
    let s1 := (List.range 8).foldl (fun s i => flushL1 s (8 * cluster + i)) s
    { s1 with fused := s1.fused.filter (· != cluster) }
  else s

/-- The L1s of a launch's clusters are fused no more once all its blocks have ended (04/R72). -/
def settleFused (s : State) : State :=
  s.launches.foldl (fun s l =>
    let mine := s.blocks.filter (·.launch == l.id)
    if l.fuse && l.next == l.nblk && mine.all (·.ended) then
      let s1 := (mine.map fun b => clusterOf b.core).eraseDups.foldl unfuse s
      { s1 with launches := updWhere (·.id == l.id) (fun l => { l with fuse := false }) s1.launches }
    else s) s

/-- One cluster's blocks, all on one cluster of cores. -/
def placeCluster (c : Ctx) (l : Launch) (sh : Shadows) (stack : Option Nat) (idx : Nat) (s : State) : Option State :=
  let good := fun (k : Nat) => clusterOpen s l.id k && (!l.fuse || clusterClear s l.id k)
  let on := fun (k : Nat) => if good k then placeRun c l sh stack (fun _ core => clusterOf core == k) idx l.kernel.clus s else none
  match chooseBy s (fun core => (openBerth s sh l.shape core).isSome && (on (clusterOf core)).isSome) stack with
  | none => none
  | some core => on (clusterOf core)

/-- `m` clusters, one after another. -/
def placeClusters (c : Ctx) (l : Launch) (sh : Shadows) (stack : Option Nat) : Nat → Nat → State → Option State
  | _, 0, s => some s
  | k, m + 1, s =>
    match placeCluster c l sh stack (k * l.kernel.clus) s with
    | none => none
    | some s1 => placeClusters c l sh stack (k + 1) m s1

/-- Every block of a gang-class launch, at once. -/
def placeGang (s : State) (c : Ctx) (l : Launch) (sh : Shadows) (stack : Option Nat) : Option State :=
  if 6144 < l.nblk then none
  else if l.kernel.clus = 0 then placeRun c l sh stack (fun s core => clusterOpen s l.id (clusterOf core)) 0 l.nblk s
  else placeClusters c l sh stack 0 (l.nblk / l.kernel.clus) s

/-- The device as it is with nothing placed. -/
def emptied (s : State) : State :=
  { s with blocks := [], warps := [], pairs := [], savedPairs := [], cmds := [], nbcmds := [], queries := [], ops := []
           packets := [], fused := [] }

/-! ### Acceptance (16/R369-R370, R374, R376, R380) -/

/-- A launch of a deadline queue that its rules let in (R380). -/
def eligible (s : State) (cls nwarp : Nat) (fuse : Bool) (k : Kernel) : Bool :=
  cls == 2 && nwarp ≤ 4 && !k.pair && k.baton == 0 && !fuse && k.scr ≤ s.dlscr * 4096

/-- Accept a record of a context: the state, and what `spawn` writes to sD. None while the fault queue is full and a record
must be written. -/
def acceptRecord (s : State) (c : Ctx) (queue : Nat) (prio : Nat) (dl : Bool) (r : List W64) : Option (State × W64) :=
  let w := fun i => r.getD i 0
  let counters := 64 * c.cgCount
  match readKernel s c r with
  | .error f =>
    -- a halted context writes no report until it is restarted (R372), and the record waits
    let s1 : Option State := if c.halted then none else match f with
      | some f => frontRecord s c.slot f 0 0
      | none => some s
    let sctr := if bit (w 3) 28 && bits (w 3) 27 16 < counters then some (bits (w 3) 27 16) else none
    match s1.bind fun s => reportEnd s c.slot (w 7).toNat sctr 0 2 0 with
    | none => none
    | some s2 => some (s2, BitVec.allOnes 64)
  | .ok (s, k) =>
    let n := newId s
    let cls := bits (w 1) 43 40
    let nblk := bits (w 1) 31 0
    let l : Launch := {
      id := n.1, ctx := c.slot, queue := some queue, grid := c.gridCtr, kernel := k, fuse := bit (w 1) 44, cls
      nwarp := bits (w 1) 39 32, nblk, arg := w 2, wctr := if bit (w 3) 12 then some (bits (w 3) 11 0) else none
      sctr := if bit (w 3) 28 then some (bits (w 3) 27 16) else none, aff := w 4, sslot := w 5, ssoff := bits (w 6) 26 8
      ssize := slotSize (bits (w 6) 2 0), crep := w 7, prio, deadline := dl, task := c.taskCtr
      ready := !bit (w 3) 12, readyAt := s.clk }
    let status := if dl && !eligible s cls l.nwarp l.fuse k then some 6
      else if cls ≤ 1 && (placeGang (emptied s) c l [] none).isNone then some 1 else none
    let l := { l with status }
    let c1 := { c with gridCtr := c.gridCtr + 1, taskCtr := if cls = 2 then c.taskCtr + BitVec.ofNat 32 nblk else c.taskCtr }
    let s1 := { setCtx n.2 c1 with launches := n.2.launches ++ [l] }
    let s2 := match l.wctr with
      | some m => addCounter s1 c1 m ((w 3).extractLsb' 32 32)
      | none => s1
    some (s2, if cls = 2 then zx64 l.task else 0xFFFF_FFFF)

/-- Accepted records of a queue that wait for dispatch. -/
def waitingRecords (s : State) (queue : Nat) : Nat :=
  (s.launches.filter fun l => l.queue == some queue && l.status.isNone && l.next < l.nblk).length

/-- The queue has space for a record (R376, R380). -/
def queueSpace (s : State) (h : HwQueue) : Bool :=
  waitingRecords s h.num < 64 && (!h.dl || (s.launches.filter fun l => l.queue == some h.num).length < h.maxout)

end Sys2Proof.Machine
end

