-- ==== Sys2Proof/Machine/Dispatcher.lean ====
section
/-! DEFINITION. The events of the front end, the dispatcher, the quadrants and the governors (16/R372-R388, 26/R450-R451), and
the end of warps and blocks (11/R253). -/

namespace Sys2Proof.Machine

/-! ### Job rings (16/R376-R377) -/

def findQueue (s : State) (n : Nat) : Option HwQueue := s.queues.find? (·.num == n)
def setQueue (s : State) (h : HwQueue) : State := { s with queues := updWhere (·.num == h.num) (fun _ => h) s.queues }

/-- A queue stops with a cause; none while the fault queue is full. -/
def stopRing (s : State) (h : HwQueue) (cause : Nat) : Option State :=
  let o := openFlt (setQueue s { h with en := false }) { kind := 20, acc := 0, va := 0, entry := BitVec.ofNat 64 (cause + h.num * 256) }
  frontRecord o.1 h.ctx o.2 0 0

/-- The host writes WRC. A write that finds the fault queue full stays among the inputs. -/
def execDoorbellWrite (queue : Nat) (wrc : W64) (s : State) : Host.Outcome State Fault Refusal :=
  event s fun s => match findQueue s queue with
    | none => s
    | some h =>
      if 2 ^ 63 ≤ (wrc - h.wrc).toNat then
        match stopRing s { h with wrc } 2 with
        | some s1 => s1
        | none => { s with deferred := true }
      else setQueue s { h with wrc }

/-- RD goes to RDVA; a failed write is dropped with its record. -/
def writeRd (s : State) (c : Ctx) (h : HwQueue) : Option State :=
  match frontWrite s c h.rdva (toBytes 8 h.rd.toNat) with
  | .ok s1 => some s1
  | .error f => frontRecord s h.ctx f 0 0

/-- The front end reads record RD, accepts it and advances. -/
def acceptNext (s : State) (h : HwQueue) (c : Ctx) : Option State :=
  if !h.en || h.unbinding || h.wrc == h.rd || !c.loaded || !queueSpace s h then none
  else
    let cap := 2 ^ (6 + h.clog)
    if cap < (h.wrc - h.rd).toNat then stopRing s h 1
    else match frontRead s c ((h.rbase + 64 * (h.rd.toNat % cap)) % 2 ^ 64) 64 with
    | .error f => (frontRecord s h.ctx f 0 0).bind fun s => stopRing s h 3
    | .ok r =>
      match acceptRecord r.1 c h.num h.prio h.dl ((List.range 8).map fun i => word64 r.2 (8 * i)) with
      | none => none
      | some r =>
        let h := { h with rd := h.rd + 1 }
        writeRd (setQueue r.1 h) c h

def execRecordAccept (queue : Nat) (s : State) : Host.Outcome State Fault Refusal :=
  event s fun s => match findQueue s queue with
    | none => s
    | some h => match findCtx s h.ctx with
      | none => s
      | some c => (acceptNext s h c).getD s

/-! ### Priority, aging and dispatch (16/R378, R383-R384) -/

/-- Effective priority of a ready launch. -/
def effPrio (s : State) (l : Launch) : Nat := l.prio - (s.clk - l.readyAt) / 2 ^ s.prioShift

/-- A command waits to see the block saved (18/R412 command 4). -/
def wantedSaved (s : State) (l : Launch) (b : Block) : Bool :=
  s.inputs.any fun i => match i with
    | .preemptBlock c a _ => c == b.ctx && a.toNat == l.grid % 65536 + b.idx * 65536
    | _ => false

/-- Blocks of a launch that a save took off their cores and that may come back: those parked on a future wait for it
(03/R57). -/
def savedBlocks (s : State) (l : Launch) : List Block :=
  s.blocks.filter fun b => b.launch == l.id && !b.placed && !b.ended && !wantedSaved s l b
    && (l.cls ≤ 1 || ((s.warps.filter (·.block == b.id)).all fun w =>
      (w.groups.all fun g => match g.wait with | .parked _ => false | _ => true)
        && (match w.acc.wait with | .parked _ => false | _ => true) && w.q.all fun q => q.2.stream.parked.isNone)
      && s.cmds.all fun k => k.block != b.id || k.parked.isNone)

/-- Something of the launch waits to be placed. -/
def hasWork (s : State) (l : Launch) : Bool :=
  l.ready && l.status.isNone && ctxRuns s l.ctx && (l.next < l.nblk || savedBlocks s l != [])

/-- Ready launches in the order in which the dispatcher considers them. -/
def ranked (s : State) : List Launch :=
  sortBy (fun a b => effPrio s a ≤ effPrio s b) (s.launches.filter (hasWork s))

/-- VA of the slot of a launch's next block. -/
def nextSlot (l : Launch) : Option Nat :=
  if l.ssize = 0 ∨ l.nblk ≤ l.next then none else some ((l.sslot.toNat + l.next * l.ssize) % 2 ^ 64)

/-- A block that the launch has still to place has its slot at a VA. -/
def wantsSlot (m : Launch) (va : Nat) : Bool :=
  let off := (va + 2 ^ 64 - m.sslot.toNat) % 2 ^ 64
  m.ready && m.status.isNone && m.ssize != 0 && off % m.ssize == 0 && m.next ≤ off / m.ssize && off / m.ssize < m.nblk

/-- The slot of the next block is held by no block, and wanted by no block of an earlier launch (R382). -/
def slotFree (s : State) (l : Launch) : Bool :=
  match nextSlot l with
  | none => true
  | some va =>
    (s.blocks.all fun b => b.ended || b.ctx != l.ctx || b.slot != some va)
      && (s.launches.takeWhile (·.id != l.id)).all fun m => m.ctx != l.ctx || !wantsSlot m va

/-- A saved block comes back: a pair-block to its pair, a block of a cluster to its cluster (log 33). -/
def placeSaved (c : Ctx) (l : Launch) (sh : Shadows) (stack : Option Nat) (s : State) (b : Block) : Option State :=
  let ws := s.warps.filter (·.block == b.id)
  let x : Shape := { l.shape with id := some b.id, scr := b.scr, limits := (List.range l.nwarp).map fun i =>
    ((ws.find? fun w => w.idx == i).map (·.limit)).getD 0 }
  let ok := fun (k : Nat) => (!b.pair || k == b.core) && (l.kernel.clus == 0 || clusterOf k == clusterOf b.core)
    && clusterOpen s l.id (clusterOf k)
  (chooseBerth s sh x l.deadline stack ok).map (restoreBlock s c b)

/-- The launch has placed what it has up to block `n`, and reserves nothing. -/
def placedTo (s : State) (l : Launch) (n : Nat) : State :=
  { s with launches := updWhere (·.id == l.id) (fun l => { l with next := n, reserves := none, shadow := [] }) s.launches }

/-- Dispatch what a launch has next: the saved blocks of a gang-class launch all at once (06/R112). None when it does not fit
among what is taken and what other launches reserve. -/
def place (s : State) (l : Launch) (sh : Shadows) : Option State :=
  match findCtx s l.ctx with
  | none => none
  | some c =>
    let stack := affStack s c l.aff
    match savedBlocks s l with
    | b :: bs =>
      let r := if l.cls ≤ 1 then (b :: bs).foldl (fun r b => r.bind fun s => placeSaved c l sh stack s b) (some s)
        else placeSaved c l sh stack s b
      r.map fun s => placedTo s l l.next
    | [] =>
      if l.nblk ≤ l.next ∨ slotFree s l = false then none
      else if l.cls ≤ 1 then
        (placeGang s c l sh stack).map fun s1 =>
          let ks := ((s1.blocks.filter (·.launch == l.id)).map fun b => clusterOf b.core).eraseDups
          placedTo (if l.fuse then ks.foldl fuse s1 else s1) l l.nblk
      else
        match chooseBerth s sh l.shape l.deadline stack (fun k => clusterOpen s l.id (clusterOf k)) with
        | none => none
        | some k => (startBlock s c l l.next k).map fun s1 => placedTo s1 l (l.next + 1)

/-- What launches reserve. -/
def shadowsOf (ls : List Launch) : Shadows := ls.filterMap fun m => m.reserves.map fun d => (d, m.shadow)

/-- The first launch in order that can be placed, if it is the one asked for. `passed`: those considered before, whose
reservations hold against it (R378). -/
def dispatchFirst (s : State) (id : Nat) : List Launch → List Launch → Option State
  | _, [] => none
  | passed, l :: rest =>
    match place s l (shadowsOf passed) with
    | some s1 => if l.id = id then some s1 else none
    | none => dispatchFirst s id (passed ++ [l]) rest

def execBlockDispatch (launch : Nat) (s : State) : Host.Outcome State Fault Refusal :=
  event s fun s =>
    let s1 := settleFused s
    (dispatchFirst s1 launch [] (ranked s1)).getD s

/-- What is taken on a die. -/
def dieFeet (s : State) (die : Nat) : List Foot := (List.range 96).flatMap fun i => feetOn s (die * 96 + i) none

/-- A launch that has spent an aging interval at effective priority 0 reserves every place that frees on a die from now on
(R378). -/
def execAgingReserve (launch : Nat) (s : State) : Host.Outcome State Fault Refusal :=
  event s fun s => match findLaunch s launch with
    | none => s
    | some l =>
      if hasWork s l && l.reserves.isNone && (l.prio + 1) * 2 ^ s.prioShift ≤ s.clk - l.readyAt then
        let stack := (findCtx s l.ctx).bind fun c => affStack s c l.aff
        let die := match stack with
          | some h => (nearest (fun _ => true) h (List.range 384)).map dieOf
          | none => some (dieOf ((s.prevPlace + 1) % 384))
        setLaunch s { l with reserves := die, shadow := (die.map (dieFeet s)).getD [] }
      else s

/-! ### The end of warps, blocks and launches (11/R253, 16/R372, R382) -/

/-- The state slot of a block goes back to its home; none while the fault queue is full. A failure counts against the
block (R464). -/
def writeSlot (s : State) (b : Block) (l : Launch) : Option (State × Bool) :=
  match b.slot, findCtx s b.ctx with
  | some va, some c =>
    match frontWrite s c va (spadBytes b (false, l.ssoff) l.ssize) with
    | .ok s1 => some (s1, true)
    | .error f => (frontRecord s b.ctx f l.grid b.idx).map fun s1 => (s1, false)
  | _, _ => some (s, true)

/-- A block has ended by `exit`: its held records go back (14/R344), its check-outs that no command uses are released without
write-back (10/R231), its quads leave the ring, its slot is written back. -/
def endBlock (s : State) (b : Block) (l : Launch) : Option State :=
  match writeSlot s b l with
  | none => none
  | some (s1, ok) =>
    let s2 := leaveRings (returnRecords s1 b.id) b.id
    let busy := fun (o : CheckOut) => s2.cmds.any fun k => k.id == o.cmd || (match k.kind with | .chki n _ => n == o.cmd | _ => false)
    let s3 := (b.outs.filter fun o => !busy o).foldl (fun s o => releaseOut s b.id o.cmd) s2
    let b3 := (findBlock s3 b.id).getD b
    let s4 := setBlock s3 { b3 with ended := true, placed := false, fail := if ok then none else some .fault }
    let fails := fun (l : Launch) => if ok then l.fails else l.fails ++ [(b.idx, .fault)]
    let s5 := { s4 with launches := updWhere (·.id == l.id) (fun l => { l with fails := fails l, endedBlocks := l.endedBlocks + 1 }) s4.launches }
    some (settleFused (if b.pair then parkPair s5 (pairOf b.core) else s5))

/-- A warp none of whose slices is active ends once its line flags are clear; the last one ends its block. -/
def endWarp (s : State) (w : Warp) : State :=
  if w.groups ≠ [] ∨ w.f ≠ [] ∨ w.resident = false then s
  else
    let s1 := removeWarp s w
    match findBlock s1 w.block with
    | none => s1
    | some b =>
      if s1.warps.any (·.block == b.id) then s1
      else match findLaunch s1 b.launch with
      | none => s1
      | some l => (endBlock s1 b l).getD s

def execWarpEnd (warp : Nat) (s : State) : Host.Outcome State Fault Refusal :=
  event s fun s => match findWarp s warp with
    | some w => endWarp s w
    | none => s

/-- STATUS of a completion report. -/
def launchStatus (l : Launch) : Nat :=
  match l.status with
  | some n => n
  | none =>
    let first := l.fails.foldl (fun (r : Option (Nat × BlockFail)) x => match r with
      | none => some x
      | some y => if x.1 < y.1 then some x else some y) none
    match first with
    | none => 0
    | some (_, .fault) => 3
    | some (_, .matrixReset) => 4

/-- A launch all of whose blocks have ended and whose engine commands are complete; one that runs no block at once. -/
def launchDone (s : State) (l : Launch) : Bool :=
  l.status.isSome || (l.endedBlocks == l.nblk && (s.blocks.filter (·.launch == l.id)).all fun b => !hasCommands s b.id)

def execLaunchComplete (launch : Nat) (s : State) : Host.Outcome State Fault Refusal :=
  event s fun s => match findLaunch s launch with
    | none => s
    | some l =>
      if launchDone s l && ctxRuns s l.ctx then
        match reportEnd (settleFused s) l.ctx l.crep.toNat l.sctr l.grid (launchStatus l) l.fails.length with
        | none => s
        | some s1 => settleBars { s1 with launches := s1.launches.filter (·.id != l.id), blocks := s1.blocks.filter (·.launch != l.id) }
      else s

/-! ### Readiness and stalls (06/R121, 16/R385) -/

/-- A group that may issue when it is next chosen. -/
def groupReady (w : Warp) (g : Group) : Bool :=
  match g.wait with
  | .none => true
  | .retry | .stall | .migrate => g.ready
  | .flags m => flagsClear w m
  | _ => false

/-- An untied heavy operation of the warp waits for its permit. -/
def waitsPermit (s : State) : Wait → Bool
  | .permits => true
  | .copy id => s.cmds.any fun k => k.id == id && k.permit == .waiting
  | .nb id => s.nbcmds.any fun c => c.id == id && c.permit == .waiting
  | .query id => s.queries.any fun q => q.id == id && q.permit == .waiting
  | .joint block quad seq => s.ops.any fun o => o.block == block && o.quad == quad && o.seq == seq && o.permit == .waiting
  | _ => false

/-- The group waits in a `baton.take` that has been formed. -/
def waitsBaton (s : State) : Wait → Bool
  | .joint block quad seq => s.ops.any fun o => o.block == block && o.quad == quad && o.seq == seq
      && (match o.instr with | .batonTake _ => true | _ => false)
  | _ => false

/-- The group waits for a long time (R385). -/
def longStall (s : State) (w : Warp) (g : Group) : Bool :=
  match g.wait with
  | .flags m => !flagsClear w m
  | .stall => !g.ready
  | .grow => true
  | x => waitsPermit s x || waitsBaton s x

/-- The group with the lowest slice. -/
def lowestGroup (gs : List Group) : Option Group :=
  gs.foldl (fun r g => match r with
    | none => some g
    | some h => if lowestBit 8 0 g.slices.toNat < lowestBit 8 0 h.slices.toNat then some g else some h) none

/-- The groups of a warp that issue in its own place: all but detached fragments, and in handler mode only the handler's
(17/R392). -/
def ownGroups (w : Warp) : List Group :=
  w.groups.filter fun g => (g.frag.isNone || w.hm) && (!w.hm || g.slices &&& w.handler != 0)

/-- The group of a warp that issues next in its place (R121): the running one; once that has arrived at its join point or stalls
for a long time, the ready group with the lowest slice. -/
def groupChoice (s : State) (w : Warp) : Option Group :=
  let gs := ownGroups w
  match gs.find? (·.slices == w.runs) with
  | some g =>
    if groupReady w g then some g
    else if longStall s w g || g.wait == .arrived then lowestGroup (gs.filter (groupReady w))
    else none
  | none => lowestGroup (gs.filter (groupReady w))

/-! ### Quadrants (06/R110, R122, 16/R385) -/

/-- What has a place of its own in a quadrant: a warp, or a fragment of one. -/
structure Occupant where
  warp : Warp
  frag : Option Group

def occupants (ws : List Warp) : List Occupant :=
  ws.flatMap fun w => ⟨w, none⟩ :: (w.groups.filter fun g => g.frag.isSome).map fun g => ⟨w, some g⟩

def Occupant.place (o : Occupant) : Place :=
  match o.frag with
  | none => o.warp.place
  | some g => g.frag.getD {}

/-- The group that would issue in the place. -/
def Occupant.next (s : State) (o : Occupant) : Option Group :=
  match o.frag with
  | none => groupChoice s o.warp
  | some g => if groupReady o.warp g && !o.warp.hm then some g else none

/-- It waits for a long time; groups at their join point wait for the others. -/
def Occupant.stalled (s : State) (o : Occupant) : Bool :=
  match o.frag with
  | some g => longStall s o.warp g
  | none =>
    let gs := (ownGroups o.warp).filter (·.wait != .arrived)
    gs != [] && gs.all (longStall s o.warp)

/-- Its place changed. -/
def Occupant.put (s : State) (o : Occupant) (f : Place → Place) : State :=
  match findWarp s o.warp.id, o.frag with
  | none, _ => s
  | some w, none => setWarp s { w with place := f w.place }
  | some w, some g => setWarp s { w with groups := updWhere (·.slices == g.slices) (fun g => { g with frag := g.frag.map f }) w.groups }

/-- The occupant for which a count of its place is least. -/
def leastBy (key : Place → Nat) (os : List Occupant) : Option Occupant :=
  os.foldl (fun r o => match r with
    | none => some o
    | some x => if key o.place < key x.place then some o else some x) none

/-- The pending occupant that has been ready longest takes a free place of the active set, or that of one that waits for a long
time or yields (11/R254), or, ready for 4,096 clk, that of the one that issued least recently. -/
def execPendingWarpSwap (core quad : Nat) (s : State) : Host.Outcome State Fault Refusal :=
  event s fun s =>
    let os := occupants (quadResidents s core quad)
    let clk := tabGet 0 s.coreClk core
    match leastBy (·.readySince) (os.filter fun o => !o.place.active && (o.next s).isSome) with
    | none => s
    | some p =>
      let enter := fun (s : State) => p.put s fun x => { x with active := true }
      let leave := fun (o : Occupant) => o.put s fun x => { x with active := false, readySince := clk, yields := false }
      let active := os.filter (·.place.active)
      if active.length < 8 then enter s
      else match active.find? (·.stalled s), active.find? (·.place.yields) with
      | some o, _ => enter (leave o)
      | none, some o => enter (leave o)
      | none, none =>
        if p.place.readySince + 4096 ≤ clk then
          match leastBy (·.lastIssue) active with
          | some o => enter (leave o)
          | none => s
        else s

/-- The scheduler detaches the group that holds a slice: queued class, fewer slices than the rest of the warp, and a free
pending place. -/
def execFragmentDetach (warp slice : Nat) (s : State) : Host.Outcome State Fault Refusal :=
  event s fun s => match findWarp s warp with
    | none => s
    | some w =>
      let queued := (findBlock s w.block).any (taskClass s)
      let rest := ((List.range 8).filter fun j => (w.slice j).active != 0).length
      let pending := (quadPlaces (quadResidents s w.core w.quad)).filter (!·.active)
      let room := pending.length < 8 && 0 < freePlaces s (feetOn s w.core none) w.quad
      match w.groups.find? fun g => bit g.slices slice with
      | some g =>
        let n := (slicesOf g.slices).length
        if queued && w.parted && w.resident && g.frag.isNone && g.wait != .arrived && n < rest - n && room then
          setWarp s (w.setGroup { g with frag := some { active := false, readySince := tabGet 0 s.coreClk w.core, since := s.choice } })
        else s
      | none => s

/-! ### Permits (16/R387, 26/R450-R451) -/

/-- The request that a governor grants next: in arrival order, the deadline class first under the Low-jitter profile, where a
hot die grants nothing else. -/
def nextRequest (d : Die) : Option PermReq :=
  if d.profile = 3 then
    match d.waiting.find? (·.deadline) with
    | some r => some r
    | none => if d.hot then none else d.waiting.head?
  else d.waiting.head?

/-- The owner of a request goes on with its permits. -/
def givePermits (s : State) (o : PermOwner) (n : Nat) : State :=
  match o with
  | .joint id => { s with ops := updWhere (·.id == id) (fun o => { o with permit := .held }) s.ops }
  | .nb id => { s with nbcmds := updWhere (·.id == id) (fun c => { c with permit := .held }) s.nbcmds }
  | .query id => { s with queries := updWhere (·.id == id) (fun q => { q with permit := .held }) s.queries }
  | .copy id =>
    let s1 := { s with cmds := updWhere (·.id == id) (fun k => { k with permit := .held }) s.cmds }
    match s1.cmds.find? (·.id == id) with
    | some k => if canWork s1 k then startCheckout s1 k else s1
    | none => s1
  | .warp id slices => match findWarp s id with
    | none => s
    | some w => setWarp s { w with permits := w.permits + n, groups := w.groups.map fun g =>
        if g.slices = slices ∧ g.wait = .permits then { g.next with wait := .none } else g }

/-- Permits that warps of a die have reserved and not used: they count against nobody's requests (R387). -/
def reservedOn (s : State) (die : Nat) : Nat := total ((s.warps.filter fun w => dieOf w.core == die).map (·.permits))

/-- The governor grants its next request within the die's limit; after a profile change only once fewer permits than the new limit
are outstanding, those reserved counted (26/R451). -/
def execPermitGrant (die : Nat) (s : State) : Host.Outcome State Fault Refusal :=
  event s fun s =>
    let d := getDie s die
    let limit := permax d.profile
    match nextRequest d with
    | none => s
    | some r =>
      if (d.above && limit ≤ d.out) || limit < d.out - reservedOn s die + r.n then s
      else
        let d1 := { d with out := d.out + r.n, above := false, waiting := d.waiting.filter fun x => x.owner != r.owner }
        givePermits (putDie s die d1) r.owner r.n

end Sys2Proof.Machine
end

