-- ==== Sys2Proof/Machine/Tasks.lean ====
section
/-! DEFINITION. `grow`, `shrink`, `spawn` and `migrate` (14/R321-R322, R329, 06/R125-R130). -/

namespace Sys2Proof.Machine

/-! ### Register limits (14/R321, 06/R126-R130) -/

/-- Requests that wait in a quadrant, in arrival order. -/
def growQueue (s : State) (core quad : Nat) : List GrowReq :=
  s.growWait.filter fun x => (findWarp s x.warp).any fun w => w.core == core && w.quad == quad

/-- The kernel's largest limit. -/
def maxLimitOf (s : State) (w : Warp) : Nat :=
  (((findBlock s w.block).bind fun b => findLaunch s b.launch).map (·.kernel.maxLimit)).getD 64

/-- A request that is met at once: nothing waits before it and the pool holds the registers. -/
def growNow (s : State) (w : Warp) (L : Nat) : Bool :=
  growQueue s w.core w.quad == [] && L - w.limit ≤ poolFree s w.core w.quad

/-- The meaning of `grow`, the blocking form and `.try`. -/
def growTo (try_ : Bool) (f : Fields) (s : State) (x : Exe) : Except Stop State :=
  let L := f.imm.toNat
  if maxLimitOf s x.w < L then .error (.trap 5 (maxLimitOf s x.w) 0)
  else if L ≤ x.w.limit then .ok (retire s (x.w.setZ x.slices false) x.g)
  else if growNow s x.w L then .ok (retire s { x.w.setZ x.slices false with limit := L } x.g)
  else if try_ then .ok (retire s (x.w.setZ x.slices true) x.g)
  else
    let s1 := setWarp s (x.w.setGroup { x.g with wait := .grow })
    .error (.held (restartGrow { s1 with growWait := s1.growWait ++ [⟨x.w.id, x.g.slices, L⟩] } x.w.core))

def execGrow (f : Fields) (s : State) : Host.Outcome State Fault Refusal :=
  execute s f fun s x => growTo false f s x

def execGrowTry (f : Fields) (s : State) : Host.Outcome State Fault Refusal :=
  execute s f fun s x => growTo true f s x

/-- `shrink` releases v(L) upwards; their values are lost. -/
def execShrink (f : Fields) (s : State) : Host.Outcome State Fault Refusal :=
  execute s f fun s x =>
    let L := f.imm.toNat
    let w := x.w.setZ x.slices false
    let w := if L < w.limit then { w with limit := L, v := w.v.filter (·.1 < L), vstamp := w.vstamp.filter (·.1 < L) } else w
    .ok (retire s w x.g)

/-- The group of a request goes on after its `grow` with an outcome. -/
def endGrow (w : Warp) (r : GrowReq) (z : Bool) : Warp :=
  match w.groups.find? fun g => g.slices == r.slices && g.wait == .grow with
  | none => w
  | some g => (w.setZ (activeSlices w g) z).setGroup { g.next with wait := .none }

/-- A request that waits no longer: the warp as given. -/
def settleGrow (s : State) (r : GrowReq) (w : Warp) : State :=
  restartGrow (setWarp { s with growWait := s.growWait.filter (· != r) } w) w.core

/-- The first request of a quadrant is granted whole once the pool holds its registers. -/
def execGrowGrant (core quad : Nat) (s : State) : Host.Outcome State Fault Refusal :=
  event s fun s => match growQueue s core quad with
    | [] => s
    | r :: _ => match findWarp s r.warp with
      | none => s
      | some w =>
        if r.limit - w.limit ≤ poolFree s core quad then settleGrow s r { endGrow w r false with limit := max w.limit r.limit }
        else s

/-- The order of R129 among two waiting requests: more registers asked for, then the younger warp, then the higher block, then the
higher warp, then the one that came later (log 73). -/
def growFirst (s : State) (a b : Warp × GrowReq) : Bool :=
  let ka := a.2.limit - a.1.limit
  let kb := b.2.limit - b.1.limit
  let blk : Warp → Nat := fun w => ((findBlock s w.block).map (·.idx)).getD 0
  if ka ≠ kb then kb < ka
  else if a.1.age ≠ b.1.age then b.1.age < a.1.age
  else if blk a.1 ≠ blk b.1 then blk b.1 < blk a.1
  else b.1.idx ≤ a.1.idx

/-- A warp waits on nothing but `grow`: groups at their join point wait for those that do. -/
def stuckInGrow (w : Warp) : Bool :=
  w.groups.any (·.wait == .grow) && w.groups.all fun g => g.wait == .grow || g.wait == .arrived

/-- Every resident warp of the core has been blocked in `grow` for 1,024 clk: one request fails. -/
def execGrowDeadlockDetect (core : Nat) (s : State) : Host.Outcome State Fault Refusal :=
  event s fun s =>
    let ws := s.warps.filter fun w => w.resident && w.core == core
    let asks := s.growWait.filterMap fun r => (ws.find? (·.id == r.warp)).map fun w => (w, r)
    if ws.all stuckInGrow = false ∨ tabGet 0 s.coreClk core < tabGet 0 s.growClk core + 1024 then s
    else
      match asks.foldl (fun (r : Option (Warp × GrowReq)) a => match r with
        | none => some a
        | some b => if growFirst s a b then some a else some b) none with
      | none => s
      | some (w, r) => settleGrow s r (endGrow w r true)

/-! ### spawn (14/R322) -/

/-- The meaning of `spawn` and `spawn.try`. -/
def spawnTask (try_ : Bool) (f : Fields) (s : State) (x : Exe) : Except Stop State := do
  let c ← ctxOf s x.w
  let va := (x.s f.a.toNat).toNat
  match (findQueue s (bits f.imm 7 0)).bind fun h => if h.ctx = c.slot ∧ h.en = true ∧ h.unbinding = false then some h else none with
  | none => .error illegal
  | some h =>
    if va % 64 ≠ 0 then .error (.fault { kind := 10, acc := 7, va })
    else do
      let _ ← liftFlt (checkBytes s c needFrontRead va 64)
      if !queueSpace s h then
        if try_ then .ok (retire s ((x.w.setS x.slices f.d.toNat (BitVec.allOnes 64)).setZ x.slices true) x.g)
        else .error (.wait .retry)
      else do
        let q ← releaseBefore s x (some .device)
        match frontRead q.1 c va 64 with
        | .error f => .error (.fault f)
        | .ok b =>
          match acceptRecord b.1 c h.num h.prio h.dl ((List.range 8).map fun i => word64 b.2 (8 * i)) with
          | none => .error (.wait .retry)
          | some r => .ok (retire r.1 ((x.w.setS x.slices f.d.toNat r.2).setZ x.slices false) x.g)

def execSpawn (f : Fields) (s : State) : Host.Outcome State Fault Refusal :=
  execute s f fun s x => spawnTask false f s x

def execSpawnTry (f : Fields) (s : State) : Host.Outcome State Fault Refusal :=
  execute s f fun s x => spawnTask true f s x

/-! ### migrate (14/R329, 06/R125) -/

/-- A warp stands at `migrate`. -/
def atMigrate (w : Warp) : Bool := w.groups.any (·.wait == .migrate)

/-- Nothing of the block is under way: its accesses, copy batches and engine commands are complete. -/
def blockIdle (s : State) (b : Block) : Bool :=
  !hasCommands s b.id && s.outs.all fun o => (findWarp s o.warp).all (·.block != b.id)

/-- Every warp of the block goes on after `migrate` with the outcome in c0.Z of each slice. -/
def endMigrate (s : State) (block : Nat) (z : Bool) : State :=
  let go := fun (w : Warp) =>
    let w := w.setZ ((List.range 8).filter fun j => (w.slice j).active != 0) z
    { w with groups := w.groups.map fun g => if g.wait = .migrate then { g.next with wait := .none } else g }
  { s with warps := updWhere (·.block == block) go s.warps }

/-- A unit that resumes on another core enters its line again (08/R168). -/
def reenter (w : Warp) : Warp :=
  { w with resident := false, acc := { w.acc with entry := savedEntry w.acc.wait w.acc.entry }
           groups := w.groups.map fun g => { g with entry := .resume, replay := [] } }

/-- Move a block to a core (06/R125 step 4). -/
def moveBlock (s : State) (b : Block) (berth : Berth) : State :=
  let ws := s.warps.filter (·.block == b.id)
  let s1 := ws.foldl (fun s w => releaseAt s (whoOf s w) .home) s
  match findCtx s1 b.ctx with
  | none => s1
  | some c =>
    let away := { s1 with warps := updWhere (·.block == b.id) reenter s1.warps }
    let prev := away.prevPlace
    { restoreBlock (restartGrow (setBlock away { b with placed := false }) b.core) c b berth with prevPlace := prev }

/-- Where the block would go on the home's die: the core with room and the fewest hops, and its berth there unless it is the
present core, which has room for it. Places that other launches reserve are no room (16/R378, log 48). -/
def migrateTarget (s : State) (b : Block) (stack : Nat) : Option (Nat × Option Berth) :=
  let ws := s.warps.filter (·.block == b.id)
  let n := (ws.map (·.idx + 1)).foldl max 0
  let x : Shape := { id := some b.id, ctx := b.ctx, pair := false, scr := b.scr, baton := 0
                     limits := (List.range n).map fun i => ((ws.find? fun w => w.idx == i).map (·.limit)).getD 0 }
  let sh := shadowsOf (s.launches.filter (·.id != b.launch))
  let deadline := (findLaunch s b.launch).any (·.deadline)
  let berth := fun (core : Nat) =>
    match (if deadline then slotBerth s x core else none) with
    | some k => some k
    | none => openBerth s sh x core
  let room := fun (core : Nat) => core == b.core || (clusterOpen s b.launch (clusterOf core) && (berth core).isSome)
  (nearest room stack ((List.range 96).map (stack / 4 * 96 + ·))).map fun core =>
    (core, if core = b.core then none else berth core)

/-- All warps of the block are at `migrate` (06/R125): the refusal, or no move at all, at once; the move once the block's accesses
and engine commands are complete, until when it waits. `s` has the last warp waiting too. The address is no access: no
permission and no cell attribute is asked of it (log 66). -/
def migrateAll (s : State) (b : Block) (w0 : Option (Warp × Group)) : Except Stop State :=
  let inRing := (tabGet {} s.pairs (pairOf b.core)).ring.any (·.1 == b.id)
  match w0, findCtx s b.ctx with
  | some (w, g), some c =>
    let va := (w.readS (electActive w g) (bits g.word 35 28)).toNat
    match checkByte s c { perm := 0, acc := 7, anyCell := true, peer := false } va with
    | .error f => .ok (takeFault s w g f)
    | .ok y =>
      if 65536 < b.scr ∨ inRing = true then .ok (endMigrate s b.id true)
      else match migrateTarget s b (homeOf s y.pa) with
      | none => .ok (endMigrate s b.id true)
      | some (_, none) => .ok (endMigrate s b.id false)
      | some (_, some berth) => if blockIdle s b then .ok (endMigrate (moveBlock s b berth) b.id false) else .error (.held s)
  | _, _ => .ok (endMigrate s b.id true)

def execMigrate (f : Fields) (s : State) : Host.Outcome State Fault Refusal :=
  execute s f fun s x => do
    let b ← blockOf s x.w
    if b.pair ∨ taskClass s b = false ∨ x.w.parted = true ∨ x.g.frag.isSome = true then .error illegal
    else
      let s1 := setWarp s (x.w.setGroup { x.g with wait := .migrate })
      let ws := s1.warps.filter (·.block == b.id)
      if ws.all atMigrate then
        migrateAll s1 b ((ws.find? (·.idx == 0)).bind fun w => (w.groups.find? (·.wait == .migrate)).map fun g => (w, g))
      else .error (.held s1)

end Sys2Proof.Machine
end

