-- ==== Sys2Proof/Machine/Context.lean ====
section
/-! DEFINITION. Context commands 1 to 9 (18/R412): invalidate, fault done, counter set, pre-emption, context switch, restart,
and the binding of queues. A command that is not complete stays among the inputs and is looked at again. -/

namespace Sys2Proof.Machine

/-! ### The frame of a command -/

/-- One more command of a context has been completed. -/
def countCmd (s : State) (slot : Nat) : State :=
  { s with ctxs := updWhere (·.slot == slot) (fun c => { c with cmdCount := c.cmdCount + 1 }) s.ctxs }

/-- Perform a command: one whose arguments are not in the table is counted without effect; `body` says whether it is
complete; one that is not stays among the inputs. -/
def command (s : State) (slot : Nat) (fits : Ctx → Bool) (body : State → Ctx → State × Bool) : State :=
  match findCtx s slot with
  | none => s
  | some c =>
    if !fits c then countCmd s slot
    else
      let r := body s c
      if r.2 then countCmd r.1 slot else { r.1 with deferred := true }

/-! ### Command 1: invalidate (03/R52) -/

/-- Translations kept since an issue that lie in a range: a first VA and a number of 4 KiB pages. -/
def inRange (lo hi : Nat) (p : Nat × Nat) : Bool := p.1 / 4096 * 4096 < hi && lo < (p.1 / 4096 + p.2) * 4096

/-- An access that used a translation of the range is still to be performed: a command's, a started drain's, a load's or a store's
that waits for an answer. -/
def rangeInUse (s : State) (ctx lo hi : Nat) : Bool :=
  let kept := (s.queries.filter (·.ctx == ctx)).flatMap (fun q =>
      [(q.resva, q.rpas.length)] ++ (if q.installed then [] else [(q.qva, q.qpas.length), (q.dva, q.dpas.length)]))
    ++ (s.kmcmds.filter (·.ctx == ctx)).map (fun k => (k.resva, k.rpas.length))
    ++ (s.nbcmds.filter (·.ctx == ctx)).map (fun k => (k.va, 512 * k.frames))
    ++ (s.ops.filter fun o => (findBlock s o.block).any (·.ctx == ctx)).flatMap fun o =>
      o.dst.map fun d => (d.1, (d.1 % 4096 + d.2.2 + 4095) / 4096)
  kept.any (inRange lo hi) || s.outs.any (fun o => o.need != 0 && (findWarp s o.warp).any (·.ctx == ctx))
    || s.cmds.any fun k => k.ctx == ctx && k.sent != 0

/-- The range table of a context read at its home, through the LLC. -/
def tableOf (s : State) (rng : W64) : State × List RangeEntry :=
  (llcRead s ((List.range 16).map fun i => bits rng 51 11 * 2048 + 128 * i), readRanges s rng)

/-- VAs that range entries cover which a new table replaces. -/
def replacedVas (old new : List RangeEntry) : List (Nat × Nat) :=
  ((old.zipIdx).filter fun e => bit e.1.w0 0 && new[e.2]? != some e.1).map fun e =>
    (bits e.1.w0 55 12 * 4096, (bits e.1.w1 55 12 + 1) * 4096)

def execInvalidate (ctx : Nat) (arg : BitVec 56) (arg2 : W64) (s : State) : Host.Outcome State Fault Refusal :=
  event s fun s => command s ctx (fun _ => bits arg 55 44 == 0) fun s c =>
    let lo := if arg2 = 0 then 0 else arg.toNat * 4096
    let hi := if arg2 = 0 then 2 ^ 64 else arg.toNat * 4096 + arg2.toNat
    let t := tableOf (dropXlats s ctx lo hi) c.rng
    if ((lo, hi) :: replacedVas c.ranges t.2).any fun r => rangeInUse s ctx r.1 r.2 then (dropXlats s ctx lo hi, false)
    else (setCtx t.1 { c with ranges := t.2 }, true)

/-! ### Command 2: fault done (03/R56-R57) -/

/-- Something of a warp is parked on a FID. -/
def warpParked (w : Warp) (fid : Nat) : Bool :=
  w.groups.any (·.wait == .parked fid) || w.acc.wait == .parked fid || w.q.any (·.2.stream.parked == some fid)

/-- The blocks with a unit parked on a FID of a context. -/
def parkedBlocks (s : State) (ctx fid : Nat) : List Nat :=
  ((s.warps.filter fun w => w.ctx == ctx && warpParked w fid).map (·.block)
    ++ (s.cmds.filter fun k => k.ctx == ctx && k.parked == some fid).map (·.block)
    ++ (s.ops.filter fun o => o.parked == some fid && (findBlock s o.block).any (·.ctx == ctx)).map (·.block)
    ++ (s.scaleReqs.filter fun r => r.ctx == ctx && r.parked == some fid).filterMap fun r =>
        ((r.out.bind fun id => s.outs.find? (·.id == id)).bind fun o => findWarp s o.warp).map (·.block)).eraseDups

/-- The wait of a unit once its fault is resolved. -/
def unpark (fid : Nat) (w : Wait) : Wait := if w = .parked fid then .none else w

/-- A warp replays from its parked units; a group of a resident one may use the lines of its core's fault buffer. -/
def unparkWarp (s : State) (fid : Nat) (w : Warp) : Warp :=
  let lines := (s.fbuf.filter fun l => l.core == w.core && l.ctx == w.ctx && l.fid == fid).map fun l => (l.pa, l.data)
  { w with
    groups := w.groups.map fun g =>
      if g.wait = .parked fid then { g with wait := .none, replay := if w.resident then g.replay ++ lines else g.replay } else g
    acc := { w.acc with wait := unpark fid w.acc.wait }
    q := tabMap {} 8 (fun (q : Queue) => if q.stream.parked = some fid then { q with stream := { q.stream with parked := none } } else q) w.q }

/-- The fault is resolved: its FID and its fault-buffer entries go. -/
def forgetFault (s : State) (ctx fid : Nat) : State :=
  { s with
    ctxs := updWhere (·.slot == ctx) (fun c => { c with parked := c.parked.filter (·.fid != fid) }) s.ctxs
    fbuf := s.fbuf.filter fun l => !(l.ctx == ctx && l.fid == fid) }

/-- Action 0: the page's cached translations go, and every parked unit replays or resumes. -/
def replayFault (s : State) (ctx : Nat) (p : Parked) : State :=
  let s1 := { dropXlats s ctx (p.page * 4096) (p.page * 4096 + 4096) with
    warps := updWhere (·.ctx == ctx) (unparkWarp s p.fid) s.warps
    ops := updWhere (fun o => o.parked == some p.fid && (findBlock s o.block).any (·.ctx == ctx)) (fun o => { o with parked := none }) s.ops
    scaleReqs := updWhere (fun r => r.ctx == ctx && r.parked == some p.fid) (fun r => { r with parked := none }) s.scaleReqs
    cmds := updWhere (fun k => k.ctx == ctx && k.parked == some p.fid) (fun k => { k with parked := none }) s.cmds }
  let resumed := (s.cmds.filter fun k => k.ctx == ctx && k.parked == some p.fid).map (·.id)
  let s2 := resumed.foldl (fun s id => match s.cmds.find? (·.id == id) with
    | some k => if canWork s k then startCheckout s k else s
    | none => s) s1
  forgetFault s2 ctx p.fid

/-- Action 1: the parked units are killed. -/
def killFault (s : State) (ctx : Nat) (p : Parked) : State :=
  forgetFault ((parkedBlocks s ctx p.fid).foldl (fun s b => killBlock s b .fault) s) ctx p.fid

def execFaultDone (ctx : Nat) (arg : BitVec 56) (arg2 : W64) (s : State) : Host.Outcome State Fault Refusal :=
  event s fun s => command s ctx (fun _ => bits arg 55 32 == 0 && bits arg2 63 1 == 0) fun s c =>
    match c.parked.find? (·.fid == arg.toNat) with
    | none => (s, true)
    | some p => (if bit arg2 0 then killFault s ctx p else replayFault s ctx p, true)

/-! ### Commands 3 and 4 -/

def execCounterSet (ctx : Nat) (arg : BitVec 56) (arg2 : W64) (s : State) : Host.Outcome State Fault Refusal :=
  event s fun s => command s ctx (fun c => arg.toNat < 64 * c.cgCount && bits arg2 63 32 == 0) fun s c =>
    (setCounter s c arg.toNat (arg2.setWidth 32), true)

/-- The running block that command 4 names. -/
def namedBlock (s : State) (ctx : Nat) (arg : BitVec 56) : Option Block :=
  s.blocks.find? fun b => b.ctx == ctx && !b.ended && b.idx == bits arg 31 16
    && (findLaunch s b.launch).any fun l => l.grid % 65536 == bits arg 15 0

def execPreemptBlock (ctx : Nat) (arg : BitVec 56) (arg2 : W64) (s : State) : Host.Outcome State Fault Refusal :=
  event s fun s => command s ctx (fun _ => bits arg 55 32 == 0 && arg2 == 0) fun s _ =>
    match namedBlock s ctx arg with
    | none => (s, true)
    | some b =>
      let s1 := startSave s b.id
      (s1, (findBlock s1 b.id).all fun b => !b.placed)

/-! ### Commands 5 and 6: context switch (17/R399-R401, 14/R347, 04/R68) -/

/-- The save of a context that has stopped is complete. -/
def saved (s : State) (ctx : Nat) : Bool :=
  s.blocks.all (fun b => b.ctx != ctx || !b.placed) && s.insts.all fun i => i.ctx != ctx || !i.inStep

/-- What the save of a context takes off the base dies, the routers and the L2s. -/
def benchCtx (s : State) (c : Ctx) : State :=
  let mine := s.rtn.filter (·.ctx == c.slot)
  let s1 := benchInsts s c.slot
  let s2 := mine.foldl (fun s r => releaseRtn s r.die r.num) s1
  { s2 with
    sets := updWhere (·.ctx == c.slot) (fun t => { t with saved := true }) s2.sets
    ctxs := updWhere (·.slot == c.slot) (fun x => { x with savedRtn := x.savedRtn ++ mine.map fun r => (r.die, r.num, r.word) }) s2.ctxs }

def execSwitchOut (ctx : Nat) (arg : BitVec 56) (arg2 : W64) (s : State) : Host.Outcome State Fault Refusal :=
  event s fun s => command s ctx (fun _ => arg == 0 && arg2 == 0) fun s c =>
    let s1 := setCtx s { c with loaded := false }
    let s2 := (s1.blocks.filter (·.ctx == ctx)).foldl (fun s b => startSave s b.id) s1
    match findCtx s2 ctx with
    | some c2 => if saved s2 ctx then (benchCtx s2 c2, true) else (s2, false)
    | none => (s2, true)

/-- There is room for what the save of a context holds: its stage sets and their queues on the same dies, its searches and
walkers on the same base dies, and its retention registers. -/
def restoreRoom (s : State) (c : Ctx) : Bool :=
  let sets := s.sets.filter fun t => t.ctx == c.slot && t.saved
  let queries := s.queries.filter fun q => q.ctx == c.slot && q.installed
  sets.all (fun t => (findSet s t.die t.num).isNone)
    && (List.range 4).all (fun die =>
      queuesTaken s die + total ((sets.filter (·.die == die)).map fun t => t.count + 3) ≤ 64
        && reservedWays s die + total ((c.savedRtn.filter (·.1 == die)).map fun r => bits r.2.2 62 59) ≤ 12)
    && (List.range 16).all (fun base =>
      tableCount s base + (queries.filter fun q => (mapDies q.desc).contains base).length ≤ 1024
        && walkersAt s base + (s.walkers.filter fun w => w.base == base && queries.any (·.id == w.query)).length ≤ 16384)
    && c.savedRtn.all fun r => !(s.rtn.any fun x => x.die == r.1 && x.num == r.2.1)

/-- The context is loaded: its range table is read and its registers and sets are its own again; its pinned ranges get their
room in the caches (04/R68, 25/R442). -/
def loadCtx (s : State) (c : Ctx) : State :=
  let t := tableOf s c.rng
  let s1 := setCtx t.1 { c with loaded := true, ranges := t.2, savedRtn := [] }
  (c.savedRtn.map (·.1)).foldl freeReserved { s1 with
    rtn := c.savedRtn.map (fun r => { die := r.1, num := r.2.1, ctx := c.slot, word := r.2.2 }) ++ s1.rtn
    sets := updWhere (·.ctx == c.slot) (fun t => { t with saved := false }) s1.sets }

def execSwitchIn (ctx : Nat) (arg : BitVec 56) (arg2 : W64) (s : State) : Host.Outcome State Fault Refusal :=
  event s fun s => command s ctx (fun _ => arg == 0 && arg2 == 0) fun s c =>
    if c.loaded then (s, true) else if restoreRoom s c then (loadCtx s c, true) else (s, false)

/-- Command 7. -/
def execRestartAfterHalt (ctx : Nat) (arg : BitVec 56) (arg2 : W64) (s : State) : Host.Outcome State Fault Refusal :=
  event s fun s => command s ctx (fun _ => arg == 0 && arg2 == 0) fun s c =>
    (setCtx s { c with halted := false }, true)

/-! ### Commands 8 and 9: queues (16/R375, R380) -/

/-- A descriptor breaks its layout. -/
def bindBad (w : List W64) : Bool :=
  let x := fun i => w.getD i 0
  let maxout := bits (x 1) 31 16
  bits (x 1) 63 32 != 0 || bits (x 1) 15 10 != 0 || [3, 4, 5, 6, 7].any (fun i => x i != 0)
    || (x 0).toNat % 4096 != 0 || (x 2).toNat % 8 != 0 || 10 < bits (x 1) 3 0
    || (if bit (x 1) 8 then maxout == 0 || 768 < maxout else maxout != 0)

/-- The queue of a descriptor. -/
def boundQueue (num ctx : Nat) (w : List W64) : HwQueue :=
  let x := fun i => w.getD i 0
  { num, ctx, rbase := (x 0).toNat, clog := bits (x 1) 3 0, prio := bits (x 1) 7 4, dl := bit (x 1) 8
    maxout := bits (x 1) 31 16, en := bit (x 1) 9, rdva := (x 2).toNat }

/-- Deadline launches that the other bound queues may have. -/
def deadlineSum (s : State) (num : Nat) : Nat := total ((s.queues.filter fun h => h.dl && h.num != num).map (·.maxout))

def execBindQueue (ctx : Nat) (arg : BitVec 56) (arg2 : W64) (s : State) : Host.Outcome State Fault Refusal :=
  event s fun s => command s ctx (fun _ => bits arg 55 8 == 0) fun s c =>
    match frontRead s c arg2.toNat 64 with
    | .error f => match frontRecord s ctx f 0 0 with
      | some s1 => (s1, true)
      | none => (s, false)
    | .ok r =>
      let w := (List.range 8).map fun i => word64 r.2 (8 * i)
      let h := boundQueue arg.toNat ctx w
      if bindBad w || (h.dl && 384 * dlSlots s < deadlineSum s h.num + h.maxout) then (r.1, true)
      else ({ r.1 with queues := h :: s.queues.filter (·.num != h.num) }, true)

def execUnbindQueue (ctx : Nat) (arg : BitVec 56) (arg2 : W64) (s : State) : Host.Outcome State Fault Refusal :=
  event s fun s => command s ctx (fun _ => bits arg 55 8 == 0 && arg2 == 0) fun s _ =>
    match findQueue s arg.toNat with
    | none => (s, true)
    | some h =>
      if h.ctx ≠ ctx then (s, true)
      else if waitingRecords s h.num = 0 then ({ s with queues := s.queues.filter (·.num != h.num) }, true)
      else (setQueue s { h with unbinding := true }, false)

end Sys2Proof.Machine
end

