-- ==== Sys2Proof/Machine/Entry.lean ====
section
/-! DEFINITION. Entering a fetch line (08/R165-R172) and a word that a stream does not accept (08/R186). -/

namespace Sys2Proof.Machine

/-- What a line whose parity is sound raises at entry (08/R170, R172): the illegal-line trap, or the branch-target trap with
the address of the transferring instruction. -/
def lineStop (k : StreamKind) (entry : Entry) (pc : Nat) (l : FetchLine) : Option Stop :=
  if !lineLegal k l then some (.trap 2 (lineWord l).toNat 0)
  else
    let check := fun src =>
      if !lineBtgt l (pc % 5) || (linePairs l).any (fun i => i + 1 == pc % 5) then some (Stop.trap 3 (codeAddr src).toNat 0)
      else none
    match entry with
    | .transfer src | .returned src => check src
    | _ => none

/-- The branch-target trap of an `eret` is taken with HM = 1, the group being still the handler's (17/R394, example). -/
def trapView (w : Warp) (g : Group) : Stop → Warp
  | .trap 3 _ _ => match g.entry with
    | .returned _ => { w with tcause := w.tcause ||| (0x100 : W64), handler := g.slices }
    | _ => w
  | _ => w

/-- A fetch that meets a memory error reports an uncorrectable error (17/R396, log 54). -/
def fetchSource : McSource → McSource
  | .poisonedLoad => .uncorrectable
  | x => x

/-- The line a slice enters, fetched with execute permission, read from its home (log 21) and checked in the order of
08/R172: parity, illegal line, branch target. -/
def fetchLine (s : State) (c : Ctx) (k : StreamKind) (entry : Entry) (pc : Nat) : Except Stop (Xlat × FetchLine) :=
  match checkByte s c needFetch (lineVa pc) with
  | .error e => .error (.fault e)
  | .ok x =>
    match badRead s x.pa with
    | some src => .error (.fault (mcFault (fetchSource src) x.pa (lineVa pc) 3))
    | none =>
      let l := homeFetch s x.pa
      if !lineParity l then .error (.fault (mcFault .fetchParity x.pa (lineVa pc) 3))
      else match lineStop k entry pc l with
        | some e => .error e
        | none => .ok (x, l)

/-- A fetch keeps its translation, and reads its line through the LLC (03/R51, 02/R27). -/
def fetched (s : State) (w : Warp) (x : Xlat) : State := llcRead (rememberAll s (whoOf s w) [x]) [x.pa]

/-- A PC group enters its line; it waits until the flags of WAIT are clear (08/R168). -/
def enterGroup (s : State) (w : Warp) (g : Group) : State :=
  match findCtx s w.ctx with
  | none => { s with last := .waited }
  | some c => match fetchLine s c .execute g.entry g.pc with
    | .error e => stopped s (trapView w g e) g 0 e
    | .ok (x, l) =>
      let s := fetched s w x
      if flagsClear w (lineWait l) then { setWarp s (w.setGroup { g with entry := .inside l, wait := .none }) with last := .retired }
      else stopped s w g 0 (.wait (.flags (lineWait l)))

/-- The access slice enters its line. -/
def enterAccess (s : State) (w : Warp) : State :=
  match findCtx s w.ctx with
  | none => { s with last := .waited }
  | some c => match fetchLine s c .access w.acc.entry w.acc.pc with
    | .error e => accessStopped s w e
    | .ok (x, l) => { setWarp (fetched s w x) { w with acc := { w.acc with entry := .inside l, wait := .none } } with last := .retired }

/-- A walker enters a line among those copied at installation (15/R354): an unsound one ends it with bit 5, an illegal one, a
target without its BTGT bit or a line outside the program with bit 2 (08/R171-R172, 15/R360). -/
def enterWalker (s : State) (w : Walker) (q : Query) : Except WalkEnd (State × Walker) :=
  let n := w.pc / 5 - q.prog / 5
  match q.lines[n]? with
  | none => .error (endBit 2)
  | some l =>
    if w.pc / 5 < q.prog / 5 then .error (endBit 2)
    else if q.bad.contains n || !lineParity l then .error { bit := some 5, log := q.linePas[n]? }
    else if (lineStop .walker w.entry w.pc l).isSome then .error (endBit 2)
    else .ok (s, { w with entry := .inside l })

/-- A bank instance enters a line among those read at its start: it stops with cause 3 past the end of the program, with a
machine check at an unsound line, and with cause 1 at an illegal one or at a target without its BTGT bit (08/R171-R172,
15/R365). -/
def enterBank (s : State) (c : NbCmd) (i : NbInst) : Except BankStop State :=
  let n := i.pc / 5 - c.prog / 5
  match i.lines[n]? with
  | none => .error (.stop 3)
  | some l =>
    if i.pc / 5 < c.prog / 5 then .error (.stop 3)
    else match i.bad.find? (·.1 == n) with
      | some b => .error (.fault (mcFault (fetchSource b.2) (i.linePas.getD n 0) (lineVa i.pc) 3))
      | none =>
        if !lineParity l then .error (.fault (mcFault .fetchParity (i.linePas.getD n 0) (lineVa i.pc) 3))
        else if (lineStop .bank i.entry i.pc l).isSome then .error (.stop 1)
        else .ok (setInst s { i with entry := .inside l })

/-- The issuing unit enters the line of its slot (08/R168-R172). -/
def execLineEntry (s : State) : Host.Outcome State Fault Refusal :=
  match s.cur with
  | .none => .fault .noIssuer
  | .execute _ => match issuer s with
    | none => .fault .noIssuer
    | some (w, g) => .next (enterGroup s w g)
  | .access _ => match accessIssuer s with
    | none => .fault .noIssuer
    | some w => .next (enterAccess s w)
  | .walker _ => walkDo s enterWalker
  | .bank _ => bankDo s enterBank

/-- A word that names no instruction of the stream that meets it, or that breaks R187 (08/R184-R187). -/
def execIllegalInstruction (word : W96) (s : State) : Host.Outcome State Fault Refusal :=
  match s.cur with
  | .none => .fault .noIssuer
  | .execute _ => match issuer s with
    | none => .fault .noIssuer
    | some (w, g) => .next (stopped s w g (word.extractLsb' 0 64) illegal)
  | .access _ => match accessIssuer s with
    | none => .fault .noIssuer
    | some w => .next (accessStopped s w illegal)
  | .walker _ => walkDo s fun _ _ _ => .error (endBit 2)
  | .bank _ => bankDo s fun _ _ _ => .error (.stop 1)

end Sys2Proof.Machine
end

