-- ==== Sys2Proof/Machine/Reset.lean ====
section
/-! DEFINITION. Machine checks that memory and the caches raise (17/R396), matrix engine reset (17/R404-R405), and reset and
measured boot of the device (26/R447, R456-R458). -/

namespace Sys2Proof.Machine

/-! ### Machine checks (17/R396) -/

/-- A fault that a block takes outside the issue of its warps: the record and the kill. None while the fault queue is full. -/
def blockFault (s : State) (b : Block) (f : Flt) (ids : W64) : Option State :=
  match findCtx s b.ctx with
  | none => none
  | some c => if fltFull s c then none else some (killBlock (putRecord s c f ids false false 0) b.id .fault)

/-- IDS of a unit of a block of which only the block is known: one of its warps. -/
def blockIds (s : State) (b : Block) : W64 :=
  let ws := s.warps.filter (·.block == b.id)
  match ws[Config.pick s.choice % ws.length]? with
  | some w => warpIds s w 7
  | none => idsWord (((findLaunch s b.launch).map (·.grid)).getD 0) b.idx 0 b.core 7

/-- A line whose error cannot be corrected is poisoned (02/R30), and so is one whose error nothing consumed. -/
def poisonLine (s : State) (pa : Nat) : State :=
  if s.poison.contains (lineOf pa) then s else { s with poison := lineOf pa :: s.poison }

def logCheck (s : State) (src : McSource) (pa : Nat) : State := { s with out := s.out ++ [.machineCheckLog (checkPa src pa)] }

/-- What an error leaves behind: an uncorrectable one poisons its line (02/R30), one of the metadata storage leaves a count of 8
to 15, which it does not name (R38). -/
def leaveError (s : State) (src : McSource) (pa : Nat) : State :=
  match src with
  | .uncorrectable => poisonLine s pa
  | .compressionCount =>
    if hasCount s pa then
      let n := fresh s
      { n.2 with counts := tabSet 0 n.2.counts (pa / 256) (BitVec.ofNat 4 (8 + n.1 % 8)) }
    else s
  | _ => s

def execMachineCheck (src : McSource) (pa va : Nat) (who : McConsumer) (s : State) : Host.Outcome State Fault Refusal :=
  event s fun s =>
    let s0 := leaveError s src pa
    match who with
    | .nothing => logCheck (if src = .compressionCount then s0 else poisonLine s0 pa) src pa
    | .walker id => match findWalker s id with
      | some w => endWalker s0 w { bit := some 5, log := some pa }
      | none => s
    | .block id => match findBlock s id with
      | none => s
      | some b =>
        if b.ended || !ctxRuns s b.ctx then s
        else match blockFault s0 b (mcFault src pa va (if src = .fetchParity then 3 else freeAcc s)) (blockIds s b) with
          | some s1 => logCheck s1 src pa
          | none => { s with deferred := true }

/-! ### Matrix engine reset (17/R404-R405) -/

/-- The blocks with a quad in a pair's ring. -/
def ringBlocks (s : State) (p : Nat) : List Nat := ((pairAt s p).ring.map (·.1)).eraseDups

/-- The record of a block of the ring: IDS names quad warp 0 of one of its ring quads. -/
def resetRecord (s : State) (p id : Nat) : State :=
  match findBlock s id with
  | none => s
  | some b => match findCtx s b.ctx with
    | none => s
    | some c =>
      let quads := ((pairAt s p).ring.filter (·.1 == id)).map (·.2)
      let quad := quads.getD (Config.pick s.choice % quads.length) 0
      let ids := match (quadWarps s id quad).head? with
        | some w => warpIds s w 7
        | none => idsWord (((findLaunch s b.launch).map (·.grid)).getD 0) b.idx (4 * quad) (2 * p) 7
      let o := openFlt s { kind := 22, acc := 0, va := 0, prog5 := BitVec.ofNat 64 (6 * 2 ^ 56) }
      putRecord o.1 c o.2 ids false false 0

/-- Every fault queue has room for the records of a reset. -/
def resetRoom (s : State) (p : Nat) : Bool :=
  s.ctxs.all fun c =>
    let n := ((ringBlocks s p).filter fun id => (findBlock s id).any (·.ctx == c.slot)).length
    n == 0 || fltRoom s c n

/-- The operations of a block without a ring quad are taken back: its quad instructions issue again. -/
def takeBack (s : State) (p id : Nat) : State :=
  withdrawQuads { s with ops := updWhere (fun o => o.pair == p && o.block == id) (fun o => { o with st := .formed }) s.ops } id

/-- The reset of a pair is complete; none while a fault queue lacks room. -/
def resetPair (s : State) (p : Nat) : Option State :=
  if !resetRoom s p then none
  else
    let mine := ringBlocks s p
    let others := ((s.ops.filter fun o => o.pair == p && !mine.contains o.block).map (·.block)).eraseDups
    let s1 := mine.foldl (fun s id => resetRecord s p id) s
    let s2 := others.foldl (fun s id => takeBack s p id) s1
    let s3 := mine.foldl (fun s id => killBlock s id .matrixReset) s2
    let s4 := { s3 with
      z := s3.z.filter fun t => t.1 / 8 != p
      pairs := tabSet {} s3.pairs p {}
      scale := s3.scale.filter fun e => e.1 / 2 != p }
    let here := (s4.blocks.filter fun b => b.pair && b.placed && pairOf b.core == p).map (·.id)
    let s5 := here.foldl (fun s id => (List.range 4).foldl (fun s q => formQuad s id q) s) s4
    some (((s5.blocks.filter fun b => onCore b (2 * p) || onCore b (2 * p + 1)).map (·.id)).foldl trySave s5)

/-- An operation has held the arrays, or a drain a drain path, for 65,536 clk: the reset of the pair begins. -/
def execWatchdogReset (pair : Nat) (s : State) : Host.Outcome State Fault Refusal :=
  event s fun s =>
    if s.ops.any fun o => o.pair == pair && o.st != .formed && o.since + 65536 ≤ opClk s o then
      putPair s pair { pairAt s pair with resetting := true }
    else s

def execMatrixResetComplete (pair : Nat) (s : State) : Host.Outcome State Fault Refusal :=
  event s fun s => if (pairAt s pair).resetting then (resetPair s pair).getD s else s

/-! ### Reset and boot (26/R447, R456-R458) -/

/-- A reset of the device: the root of trust keeps the operator key and counts boots; what the outside has sent and received,
and the model's counters, go on. -/
def resetDevice (s : State) : State :=
  { State.reset with boots := s.boots, opKey := s.opKey, inputs := s.inputs, out := s.out, nextId := s.nextId, free := s.free
                     choice := s.choice }

/-- A die has reached 110 °C: the device is reset and memory is lost. -/
def execOvertempReset (s : State) : Host.Outcome State Fault Refusal := event s resetDevice

/-- An image extends its register (R457). -/
def extendMr (mr : Tab Digest) (i : Nat) (e : List Byte) : Tab Digest :=
  tabSet 0 mr i (sha384 (digestBytes (tabGet 0 mr i) ++ e))

/-- Images measured and verified one after another, from register `i` on: the registers, and whether every signature held. -/
def measureAll : Nat → List BootImage → Tab Digest → Tab Digest × Bool
  | _, [], mr => (mr, true)
  | i, x :: r, mr =>
    let mr1 := extendMr mr i (digestBytes x.digest)
    if x.sigOk then measureAll (i + 1) r mr1 else (mr1, false)

/-- Reset and measured boot: stage 1, the management firmware, the Charon images of base dies 0-15, the merge-unit firmware. -/
def execDeviceBoot (images : List BootImage) (s : State) : Host.Outcome State Fault Refusal :=
  event s fun s =>
    let s1 := resetDevice s
    let r := measureAll 0 (images.take 19) s1.mr
    { s1 with boots := s1.boots + 1, mr := r.1, recovery := !(r.2 && 19 ≤ images.length) }

end Sys2Proof.Machine
end

