-- ==== Sys2Proof/Machine/Fabric.lean ====
section
/-! DEFINITION. The events of the Sohorn fabric (18/R415-R418): requests from peers performed at the home, answers from peers,
remote reservations and enqueues, and the hops. -/

namespace Sys2Proof.Machine

/-- While FABCFG.PORT is 0 no Sohorn packet is accepted (26/R455). -/
def fabricOn (s : State) : Bool := bits s.fabcfg 15 0 != 0

/-- A peer that is heard from is silent no more (log 37). -/
def heard (s : State) (peer : Nat) : State := { s with silent := s.silent.filter (· != peer) }

/-! ### PEER_REQUEST_ARRIVE (18/R415, 07/R163) -/

/-- Bytes that a request touches. -/
def PeerOp.span : PeerOp → Nat
  | .read n => n
  | .write b => b.length
  | .atomic _ ty _ => accessSize ty
  | .cells _ => 16

/-- Atomics of one address, one after another; the old values follow each other in the answer. -/
def atomicsAt (s : State) (pa : Nat) (op : BitVec 4) (ty : Ty) (xs : List (W64 × W64)) : State × List Byte :=
  let n := accessSize ty
  xs.foldl (fun a x =>
    let old := ofBytes (homeBytes a.1 pa n)
    let new := atomNew op.toNat ty old (x.1.toNat % 2 ^ (8 * n)) (x.2.toNat % 2 ^ (8 * n))
    (homePut a.1 pa (toBytes n new), a.2 ++ toBytes n old)) (s, [])

/-- Cell operations of one cell, one after another; the answer holds a code and a value for each. -/
def cellsAt (s : State) (pa : Nat) (ops : List (BitVec 2 × W16 × BitVec 128)) : State × List Byte :=
  ops.foldl (fun a o =>
    let r := cellApply (cellAt a.1 pa) o.1.toNat o.2.1 o.2.2
    (setCell a.1 pa r.1, a.2 ++ [BitVec.ofNat 8 r.2.1] ++ toBytes 16 r.2.2.toNat)) (s, [])

/-- Perform a request at the home: whether it succeeded, and the data of the answer; a failure's data is its KIND. -/
def serve (s : State) (q : PeerReq) : State × Bool × List Byte :=
  let n := PeerOp.span q.op
  let good := fun (pa : Nat) => layoutOf s (groupOf pa) == q.layout.toNat && layoutOf s (groupOf pa) != 3
  let reads := match q.op with | .read _ | .atomic .. => true | _ => false
  let bad := if reads then ((List.range n).map (q.pa + ·)).find? fun a => (badRead s a).isSome else none
  if 2 ^ 40 < q.pa + n then (s, false, [7])
  else if !(good q.pa && good (q.pa + n - 1)) then (s, false, [4])
  else match bad with
    | some a => (logCheck s ((badRead s a).getD .poisonedLoad) a, false, [23])
    | none => match q.op with
      | .read n => (llcRead s ((List.range n).map (q.pa + ·)), true, homeBytes s q.pa n)
      | .write b => (homePut s q.pa b, true, [])
      | .atomic op ty xs => let r := atomicsAt s q.pa op ty xs; (r.1, true, r.2)
      | .cells ops =>
        if (granuleOf s q.pa).isNone then (s, false, [13]) else let r := cellsAt s q.pa ops; (r.1, true, r.2)

def execPeerRequestArrive (q : PeerReq) (s : State) : Host.Outcome State Fault Refusal :=
  event s fun s =>
    if !fabricOn s then s
    else
      let r := serve (heard s q.peer) q
      let vc := match q.op with | .cells _ => 3 | _ => 1
      sendPeer r.1 q.peer vc (.peerResponse q.peer q.id r.2.1 r.2.2)

/-! ### PEER_RESPONSE_ARRIVE -/

/-- The results of an access's lanes. -/
def landAnswer (s : State) (o : PeerOut) (out : Nat) (data : List Byte) : State :=
  let core := (((s.outs.find? (·.id == out)).bind fun x => findWarp s x.warp).map (·.core)).getD 0
  match o.op with
  | .atomic _ ty _ =>
    if o.a = 0 then s else
    let n := accessSize ty
    let vals := o.lanes.mapIdx fun i L => (L, ofBytes ((data.drop (n * i)).take n))
    let put := fun (x : Outstanding) =>
      if o.scalar then { x with swrites := x.swrites ++ vals.map fun v => (o.d, v.1, BitVec.ofNat 64 v.2) }
      else { x with vwrites := x.vwrites ++ vals.map fun v => (o.d, v.1, BitVec.ofNat 32 v.2) }
    { s with outs := updWhere (·.id == out) put s.outs }
  | .cells ops =>
    (o.lanes.zip ops).zipIdx.foldl (fun s p =>
      let d := data.drop (17 * p.2)
      answerCell s out core o.pa p.1.2.1.toNat o.d o.a p.1.1 p.1.2.2.1 ((d.headD 0).toNat) (BitVec.ofNat 128 (ofBytes ((d.drop 1).take 16)))) s
  | _ => s

/-- An answer completes what asked for it. -/
def answerPeer (s : State) (o : PeerOut) (data : List Byte) : State :=
  let bytes := data.mapIdx fun i b => (o.pa + i, b)
  match o.out, o.cmd, o.unit, o.warp with
  | some out, _, _, _ => oneAnswer (landAnswer s o out data) out
  | none, some id, _, _ =>
    let put := fun (k : CopyCmd) => match o.op with
      | .read _ => { k with got := k.got ++ bytes }
      | _ => { k with sent := k.sent - 1 }
    { s with cmds := updWhere (·.id == id) put s.cmds }
  | none, none, some u, _ => { s with unitGot := s.unitGot ++ bytes.map fun b => (u, b.1, b.2) }
  | none, none, none, some id => { s with warps := updWhere (·.id == id) (fun w => { w with peerGot := w.peerGot ++ bytes }) s.warps }
  | none, none, none, none => s

/-- Whose request it is: its block, and words 3 to 5 of a record about it. -/
def peerUnit (s : State) (o : PeerOut) : Option (Block × W64 × W64 × W64) :=
  let ofWarp := fun (id : Nat) => (findWarp s id).bind fun w => (findBlock s w.block).map fun b => (b, warpIds s w 7, (0 : W64), (0 : W64))
  match o.cmd, o.unit, o.warp with
  | some id, _, _ => (s.cmds.find? (·.id == id)).bind fun k => (findBlock s k.block).map fun b => (b, cmdIds s k 7, (cmdProg k).1, (cmdProg k).2)
  | none, some u, _ =>
    let ofOp := fun (q : JointOp) => (findBlock s q.block).map fun b => (b, opIds s q 7, (0 : W64), opProg q)
    match s.ops.find? (·.id == u), s.scaleReqs.find? (·.id == u) with
    | some q, _ => ofOp q
    | none, some r => match r.out with
      | some out => ((s.outs.find? (·.id == out)).map (·.warp)).bind ofWarp
      | none => (waitingOps s r).head?.bind ofOp
    | none, none => none
  | none, none, some id => ofWarp id
  | none, none, none => none

/-- ACC of a request. -/
def peerAcc (o : PeerOut) : Nat :=
  match o.op with
  | .read _ => if o.cmd.isSome then 4 else if o.unit.isSome then 7 else 0
  | .write _ => if o.cmd.isSome then 5 else 1
  | .atomic .. => 2
  | .cells _ => 6

/-- Two requests belong to one access, command or fetch. -/
def sameAsker (x y : PeerOut) : Bool := x.out == y.out && x.cmd == y.cmd && x.unit == y.unit && x.warp == y.warp

/-- The fault of a request that fails with a KIND (03/R53): the lowest VA that fails, where the peer is silent of every request of
the access to it, with the entry and level of its translation. -/
def peerFlt (s : State) (o : PeerOut) (kind : Nat) : Flt :=
  let all := if kind = 7 then s.peerOuts.filter fun x => x.peer == o.peer && sameAsker x o else []
  let low := all.foldl (fun m x => if x.va < m.va then x else m) o
  { kind, acc := peerAcc o, va := low.va, entry := low.entry, level := low.level, fatal := true }

/-- A request fails with a KIND: the record and the kill, whatever FMODE holds (18/R415). None while the fault queue is full. -/
def failPeer (s : State) (o : PeerOut) (kind : Nat) : Option State :=
  let s1 := { s with peerOuts := s.peerOuts.filter (·.id != o.id) }
  match o.unit.bind fun u => s.scaleReqs.find? (·.id == u) with
  | some r =>
    if (findCtx s r.ctx).any (fltFull s) then none
    else some (scaleFault s1 r (.fault (if kind = 23 then mcFault .uncorrectable o.pa o.va (peerAcc o) else peerFlt s o kind)))
  | none =>
    match peerUnit s o with
    | none => some s1
    | some u =>
      let f := if kind = 23 then mcFault .uncorrectable o.pa o.va (peerAcc o) else peerFlt s o kind
      let ids := if kind = 23 then u.2.1 else (u.2.1 &&& ~~~ (BitVec.ofNat 64 (7 * 2 ^ 49))) ||| BitVec.ofNat 64 (f.level % 8 * 2 ^ 49)
      (blockFault s1 u.1 { f with prog4 := u.2.2.1, prog5 := u.2.2.2 } ids).map fun s2 =>
        if kind = 23 then logCheck s2 .uncorrectable o.pa else s2

/-- The answer to a reservation: granted, refused, or a queue fault. -/
def answerReserve (s : State) (r : RsvWait) (ok : Bool) (cause : Nat) : State :=
  let gone := { s with rsvWaits := s.rsvWaits.filter (·.id != r.id) }
  match r.warp.bind (findWarp s) with
  | none => if ok then returnResv gone ⟨r.desc, r.n⟩ else gone
  | some w =>
    if ok || cause == 0 then endReserve s r ok
    else match w.groups.find? (·.wait == .grant r.id) with
      | some g => takeFault gone w g (queueFault cause r.va)
      | none => gone

def execPeerResponseArrive (id : Nat) (ok : Bool) (data : List Byte) (s : State) : Host.Outcome State Fault Refusal :=
  event s fun s =>
    let code := (data.headD 0).toNat
    if !fabricOn s then s
    else match s.peerOuts.find? (·.id == id) with
    | some o =>
      let s1 := heard s o.peer
      if ok then answerPeer { s1 with peerOuts := s1.peerOuts.filter (·.id != id) } o data
      else (failPeer s1 o code).getD { s with deferred := true }
    | none => match s.rsvWaits.find? (fun r => r.id == id && !isHbm r.desc) with
      | some r => answerReserve (heard s (peerIndex r.desc)) r ok code
      | none => match s.packets.find? (fun p => p.id == id && !isHbm p.desc) with
        | some p => endPacket (heard s (peerIndex p.desc)) p
        | none => s

/-! ### Remote reservations and enqueues (18/R418, 14/R324-R325) -/

/-- A peer asks for a reservation, or with `.giveBack` returns what one of its warps has not spent (log 47). -/
def execRemoteReservationArrive (peer id desc n : Nat) (nowait : PeerReserve) (s : State) : Host.Outcome State Fault Refusal :=
  event s fun s =>
    if !fabricOn s then s
    else
      let s := heard s peer
      let answer := fun (s : State) (ok : Bool) (data : List Byte) => sendPeer s peer 2 (.peerResponse peer id ok data)
      if nowait == .giveBack then (if isHbm desc then returnResv s ⟨desc, n⟩ else s)
      else match reserveCause s desc n with
      | some k => answer s false [BitVec.ofNat 8 k]
      | none =>
        let s := queueEnter s desc
        if canReserve s desc n then answer (reserveSlots s desc n) true []
        else if nowait == .orRefuse then answer s false [0]
        else
          let m := newId s
          { m.2 with rsvWaits := m.2.rsvWaits ++ [{ id := m.1, desc, n, warp := none, peer := some (peer, id) }] }

/-- The slots of the queue are translated in its context, which the packet does not name: a free choice (log 29). -/
def execRemoteEnqueueArrive (peer id desc : Nat) (ack : Bool) (msg : List Byte) (s : State) : Host.Outcome State Fault Refusal :=
  event s fun s =>
    if !fabricOn s then s
    else
      let ctx := (s.ctxs[Config.pick s.choice % s.ctxs.length]?).map (·.slot)
      let s1 := deliverMessage (heard s peer) ctx desc msg
      if ack then sendPeer s1 peer 1 (.peerResponse peer id true []) else s1

/-! ### Hops (18/R416-R417) -/

/-- The peer that a packet goes to. -/
def packetPeer : Output → Option Nat
  | .peerRequest q => some q.peer
  | .peerResponse p .. | .peerReserve p .. | .peerEnqueue p .. | .peerReturn p .. | .merge p _ | .mergeNak p _ => some p
  | _ => none

/-- Packets up to a sequence number are acknowledged and leave the replay buffer. -/
def execSohornAck (port vc : Nat) (upTo : Nat) (s : State) : Host.Outcome State Fault Refusal :=
  event s fun s =>
    let h := findHop s port vc
    let peers := (h.buffer.filter (·.seq ≤ upTo)).filterMap fun p => packetPeer p.body
    putHop (peers.foldl heard s) { h with buffer := h.buffer.filter fun p => upTo < p.seq }

/-- Send packets of a replay buffer again. -/
def resend (s : State) (port vc : Nat) (which : Nat → Bool) : State :=
  if portStopped s port vc then s
  else { s with out := s.out ++ ((findHop s port vc).buffer.filter fun p => which p.seq).map (·.body) }

def execSohornNak (port vc : Nat) (first : Nat) (s : State) : Host.Outcome State Fault Refusal :=
  event s fun s => resend s port vc fun n => first ≤ n

def execSohornReplayTimeout (port vc : Nat) (seq : Nat) (s : State) : Host.Outcome State Fault Refusal :=
  event s fun s => resend s port vc fun n => n == seq

def execCreditReturn (port vc n : Nat) (s : State) : Host.Outcome State Fault Refusal :=
  event s fun s =>
    let h := findHop s port vc
    resume s { h with credits := h.credits + n }

/-- A pause frame on a priority of an Ethernet port (18/R407). -/
def execPriorityFlowControlPause (port prio : Nat) (pause : Bool) (s : State) : Host.Outcome State Fault Refusal :=
  event s fun s =>
    let rest := s.paused.filter (· != (port, prio))
    if pause then { s with paused := (port, prio) :: rest }
    else
      let s1 := { s with paused := rest }
      (s1.hops.filter fun h => 4 + h.port == port).foldl resume s1

/-! ### PEER_ACK_TIMEOUT (18/R415) -/

/-- Something sent to the peer stays unacknowledged. -/
def unacked (s : State) (peer : Nat) : Bool := s.hops.any fun h => h.buffer.any fun p => packetPeer p.body == some peer

/-- The requests to a silent peer fail with the physical-address fault; none while a fault queue is full. -/
def failAll (peer : Nat) : List PeerOut → State → Option State
  | [], s => some s
  | o :: r, s => if o.peer = peer then (failPeer s o 7).bind (failAll peer r) else failAll peer r s

/-- So do the reservations and acknowledged enqueues that wait for it: the request, its warp, and the VA that named the queue. -/
def failWaits (peer : Nat) : List (Nat × Nat × Nat) → State → Option State
  | [], s => some s
  | (id, warp, va) :: r, s =>
    let gone := { s with rsvWaits := s.rsvWaits.filter (·.id != id), packets := s.packets.filter (·.id != id) }
    match findWarp s warp with
    | none => failWaits peer r gone
    | some w => match findBlock s w.block with
      | none => failWaits peer r gone
      | some b =>
        let x := match (findCtx s w.ctx).map fun c => lookup s c va 7 with | some (.ok y) => y | _ => noXlat
        (blockFault gone b { kind := 7, acc := 7, va, entry := x.entry, level := x.level } (warpIds s w x.level)).bind (failWaits peer r)

def execPeerAckTimeout (peer : Nat) (s : State) : Host.Outcome State Fault Refusal :=
  event s fun s =>
    if !unacked s peer then s
    else
      let s1 := { heard s peer with silent := peer :: (heard s peer).silent }
      let far := fun (desc : Nat) => !isHbm desc && peerIndex desc == peer
      let waits := (s.rsvWaits.filter fun r => far r.desc).filterMap (fun r => r.warp.map fun w => (r.id, w, r.va))
        ++ (s.packets.filter fun p => far p.desc && p.ack).map fun p => (p.id, p.warp, p.va)
      ((failAll peer s1.peerOuts s1).bind (failWaits peer waits)).getD { s with deferred := true }

end Sys2Proof.Machine
end

