-- ==== Sys2Proof/Machine/HostPort.lean ====
section
/-! DEFINITION. The host ports (18/R407-R412): RDMA writes, reads and atomics, and congestion notifications. -/

namespace Sys2Proof.Machine

/-! ### Windows (18/R409) -/

/-- A host access is translated and checked, but for the cell attribute and seals; it names no peer window (R415). -/
def needHostRead : Need := { perm := 1, anyCell := true, acc := 0, peer := false }
def needHostWrite : Need := { perm := 2, anyCell := true, acc := 1, peer := false }

/-- The registered key that lets an access through. -/
def keyFor (s : State) (key : W32) (va n : Nat) : Option MemKey :=
  s.keys.find? fun k => k.key == key && (k.slot.isNone && va + n ≤ 272 * 4096 || k.slot.isSome && k.va ≤ va && va + n ≤ k.va + k.len)

/-- The command that a write to a command page gives (R412). One that the table does not have counts without effect: so does
the set of a counter that no context has. -/
def commandOf (ctx : Nat) (w0 w1 : W64) : Instr :=
  let arg : BitVec 56 := w0.extractLsb' 8 56
  match bits w0 7 0 with
  | 1 => .invalidate ctx arg w1
  | 2 => .faultDone ctx arg w1
  | 3 => .counterSet ctx arg w1
  | 4 => .preemptBlock ctx arg w1
  | 5 => .switchOut ctx arg w1
  | 6 => .switchIn ctx arg w1
  | 7 => .restartAfterHalt ctx arg w1
  | 8 => .bindQueue ctx arg w1
  | 9 => .unbindQueue ctx arg w1
  | 10 => .contextMeasurementReport ctx arg w1
  | _ => .counterSet ctx (BitVec.allOnes 56) 0

/-- A write to the doorbell window: a job-ring doorbell or a context command, behind what has arrived before; any other write
to a page is ignored. -/
def doorbell (s : State) (va : Nat) (bytes : List Byte) : State :=
  let page := va / 4096
  let post := fun (i : Instr) => { s with inputs := s.inputs ++ [i] }
  if va % 4096 ≠ 0 then s
  else if page < 256 ∧ bytes.length = 8 then post (.doorbellWrite page (word64 bytes 0))
  else if 256 ≤ page ∧ bytes.length = 16 ∧ (findCtx s (page - 256)).isSome = true then
    post (commandOf (page - 256) (word64 bytes 0) (word64 bytes 8))
  else s

/-- A read of the doorbell window: the count of completed commands at 0x010 of a command page; other bytes are free. -/
def doorbellRead (s : State) (va n : Nat) : State × List Byte :=
  (List.range n).foldl (fun a i =>
    let o := (va + i) % 4096
    match findCtx s ((va + i) / 4096 - 256) with
    | some c =>
      if 256 * 4096 ≤ va + i ∧ 0x10 ≤ o ∧ o < 0x18 then (a.1, a.2 ++ [c.cmdCount.extractLsb' (8 * (o - 0x10)) 8])
      else let f := fresh a.1; (f.2, a.2 ++ [BitVec.ofNat 8 f.1])
    | none => let f := fresh a.1; (f.2, a.2 ++ [BitVec.ofNat 8 f.1])) (s, [])

/-! ### RDMA (18/R409-R411, 07/R164) -/

def nak (s : State) (qp : Nat) : State := { s with out := s.out ++ [.rdmaNak qp false] }

/-- A write performed at the home of each byte. -/
def hostWrite (s : State) (c : Ctx) (qp : Nat) (va : Nat) (bytes : List Byte) : State :=
  match checkBytes s c needHostWrite va bytes.length with
  | .error _ => nak s qp
  | .ok xs =>
    if xs.any fun x => (granuleOf s x.pa).isSome then nak s qp
    else
      let s1 := (List.range bytes.length).foldl (fun s i => (taintCopies s none c.slot 0 .memory (va + i)).1) s
      let s2 := homeStore s1 ((xs.map (·.pa)).zip bytes)
      { s2 with out := s2.out ++ [.rdmaAck qp] }

/-- A byte as the host reads it: in a registered granule, of the cell's value. -/
def hostByte (s : State) (pa : Nat) : Byte :=
  if (granuleOf s pa).isSome then (cellAt s pa).value.extractLsb' (8 * (pa % 16)) 8 else homeByte s pa

def execHostRdmaWrite (qp : Nat) (key : W32) (va : W64) (bytes : List Byte) (s : State) : Host.Outcome State Fault Refusal :=
  event s fun s =>
    if s.recovery then s
    else match keyFor s key va.toNat bytes.length with
    | none => nak s qp
    | some k => match k.slot with
      | none => let s1 := doorbell s va.toNat bytes; { s1 with out := s1.out ++ [.rdmaAck qp] }
      | some slot => match findCtx s slot with
        | some c => hostWrite s c qp va.toNat bytes
        | none => nak s qp

/-- Bytes of a host's read: in a registered granule of the cells; of a block with a broken count the stored bytes as they are,
which the manual does not give (02/R38). -/
def hostBytes (s : State) (pas : List Nat) (raw : Nat → Bool) : State × List Byte :=
  pas.foldl (fun a pa =>
    if raw pa then
      let n := fresh a.1
      (n.2, a.2 ++ [BitVec.ofNat 8 n.1])
    else (a.1, a.2 ++ [hostByte s pa])) (s, [])

/-- A read is performed at the home. An error that it meets is logged; a poisoned byte refuses it (log 38), a broken count does
not (02/R38). -/
def hostRead (s : State) (c : Ctx) (qp va len : Nat) : State :=
  match checkBytes s c needHostRead va len with
  | .error _ => nak s qp
  | .ok xs =>
    let pas := xs.map (·.pa)
    let met := pas.filterMap fun pa => if (granuleOf s pa).isSome then none else (badRead s pa).map fun src => (pa, src)
    let logged := { s with out := s.out ++ (met.map fun m => .machineCheckLog (checkPa m.2 m.1)).eraseDups }
    if met.any (·.2 == .poisonedLoad) then nak logged qp
    else
      let r := hostBytes (llcRead logged (pas.filter fun pa => (granuleOf s pa).isNone)) pas fun pa => met.any (·.1 == pa)
      { r.1 with out := r.1.out ++ [.rdmaData qp r.2] }

def execHostRdmaRead (qp : Nat) (key : W32) (va : W64) (len : Nat) (s : State) : Host.Outcome State Fault Refusal :=
  event s fun s =>
    if s.recovery then s
    else match keyFor s key va.toNat len with
    | none => nak s qp
    | some k => match k.slot with
      | none => let r := doorbellRead s va.toNat len; { r.1 with out := r.1.out ++ [.rdmaData qp r.2] }
      | some slot => match findCtx s slot with
        | some c => hostRead s c qp va.toNat len
        | none => nak s qp

/-- RDMA atomics are answered with an invalid-request NAK (R407). -/
def execHostRdmaAtomic (qp : Nat) (_key : W32) (_va : W64) (s : State) : Host.Outcome State Fault Refusal :=
  event s fun s => if s.recovery then s else { s with out := s.out ++ [.rdmaNak qp true] }

/-- A congestion notification lowers the send rate of its queue pair (R407). -/
def execCongestionNotification (qp : Nat) (s : State) : Host.Outcome State Fault Refusal :=
  event s fun s => { s with rates := tabSet 0 s.rates qp (Config.rateAfter (tabGet 0 s.rates qp)) }

end Sys2Proof.Machine
end

