-- ==== Sys2Proof/Machine/Integer.lean ====
section
/-! DEFINITION. Integer and bit instructions, moves, masks and cross-lane instructions (11/R245-R247, R256-R264). -/

namespace Sys2Proof.Machine

def execIadd (f : Fields) (s : State) : Host.Outcome State Fault Refusal :=
  execute s f fun s x => .ok (intOp s x f fun a b _ => a + b)

def execIsub (f : Fields) (s : State) : Host.Outcome State Fault Refusal :=
  execute s f fun s x => .ok (intOp s x f fun a b _ => a - b)

def execImul (f : Fields) (s : State) : Host.Outcome State Fault Refusal :=
  execute s f fun s x => .ok (intOp s x f fun a b _ => a * b)

def execImulh (f : Fields) (s : State) : Host.Outcome State Fault Refusal :=
  execute s f fun s x => .ok (intOp s x f fun a b _ => a * b / ((2 ^ tyWidth f.ty : Nat) : Int))

def execImad (f : Fields) (s : State) : Host.Outcome State Fault Refusal :=
  execute s f fun s x => .ok (intOp s x f fun a b c => a * b + c)

def execImin (f : Fields) (s : State) : Host.Outcome State Fault Refusal :=
  execute s f fun s x => .ok (intOp s x f fun a b _ => if a ≤ b then a else b)

def execImax (f : Fields) (s : State) : Host.Outcome State Fault Refusal :=
  execute s f fun s x => .ok (intOp s x f fun a b _ => if a ≤ b then b else a)

def execIabs (f : Fields) (s : State) : Host.Outcome State Fault Refusal :=
  execute s f fun s x => .ok (intOp s x f fun a _ _ => if a < 0 then -a else a)

def execIneg (f : Fields) (s : State) : Host.Outcome State Fault Refusal :=
  execute s f fun s x => .ok (intOp s x f fun a _ _ => -a)

def execAnd (f : Fields) (s : State) : Host.Outcome State Fault Refusal :=
  execute s f fun s x => .ok (compute s x f fun a b _ _ => a &&& b)

def execOr (f : Fields) (s : State) : Host.Outcome State Fault Refusal :=
  execute s f fun s x => .ok (compute s x f fun a b _ _ => a ||| b)

def execXor (f : Fields) (s : State) : Host.Outcome State Fault Refusal :=
  execute s f fun s x => .ok (compute s x f fun a b _ _ => a ^^^ b)

def execAndn (f : Fields) (s : State) : Host.Outcome State Fault Refusal :=
  execute s f fun s x => .ok (compute s x f fun a b _ _ => a ^^^ (a &&& b))

/-- A shift left by opB[7:0]; zero from the width on (11/R257). -/
def shiftLeft (w a b : Nat) : Nat := if w ≤ b % 256 then 0 else (a <<< (b % 256)) % 2 ^ w

/-- A logical shift right. -/
def shiftRight (w a b : Nat) : Nat := if w ≤ b % 256 then 0 else a >>> (b % 256)

/-- An arithmetic shift right: copies of the top bit from the width on. -/
def shiftArith (w a b : Nat) : Nat := (toBits w (sextNat w a / ((2 ^ (min (b % 256) w) : Nat) : Int))).toNat

/-- A rotation left by n mod W. -/
def rotateLeft (w a n : Nat) : Nat :=
  let k := n % w
  ((a <<< k) % 2 ^ w) ||| (a >>> (w - k))

def execShl (f : Fields) (s : State) : Host.Outcome State Fault Refusal :=
  execute s f fun s x => .ok (compute s x f fun a b _ _ => shiftLeft (tyWidth f.ty) a b)

def execShr (f : Fields) (s : State) : Host.Outcome State Fault Refusal :=
  execute s f fun s x => .ok (compute s x f fun a b _ _ => shiftRight (tyWidth f.ty) a b)

def execSar (f : Fields) (s : State) : Host.Outcome State Fault Refusal :=
  execute s f fun s x => .ok (compute s x f fun a b _ _ => shiftArith (tyWidth f.ty) a b)

def execRot (f : Fields) (s : State) : Host.Outcome State Fault Refusal :=
  execute s f fun s x => .ok (compute s x f fun a b _ _ => rotateLeft (tyWidth f.ty) a (b % 256))

def execRotR (f : Fields) (s : State) : Host.Outcome State Fault Refusal :=
  execute s f fun s x => .ok (compute s x f fun a b _ _ =>
    rotateLeft (tyWidth f.ty) a (tyWidth f.ty - b % 256 % tyWidth f.ty))

/-- The bit field of `bfx`, `bfxs` and `bfi` (11/R258): offset, and one past the top; none for an empty field. -/
def fieldOf (w b : Nat) : Option (Nat × Nat) :=
  let off := b % 256
  let len := b / 256 % 256
  if len = 0 ∨ w ≤ off then none else some (off, min (off + len) w)

def execBfx (f : Fields) (s : State) : Host.Outcome State Fault Refusal :=
  execute s f fun s x => .ok (compute s x f fun a b _ _ =>
    match fieldOf (tyWidth f.ty) b with
    | none => 0
    | some (lo, hi) => a / 2 ^ lo % 2 ^ (hi - lo))

def execBfxs (f : Fields) (s : State) : Host.Outcome State Fault Refusal :=
  execute s f fun s x => .ok (compute s x f fun a b _ _ =>
    match fieldOf (tyWidth f.ty) b with
    | none => 0
    | some (lo, hi) => (toBits (tyWidth f.ty) (sextNat (hi - lo) (a / 2 ^ lo))).toNat)

def execBfi (f : Fields) (s : State) : Host.Outcome State Fault Refusal :=
  execute s f fun s x => .ok (compute s x f fun a b _ d =>
    match fieldOf (tyWidth f.ty) b with
    | none => d
    | some (lo, hi) => d % 2 ^ lo + a % 2 ^ (hi - lo) * 2 ^ lo + d / 2 ^ hi * 2 ^ hi)

def execPopc (f : Fields) (s : State) : Host.Outcome State Fault Refusal :=
  execute s f fun s x => .ok (compute s x f fun a _ _ _ => popCount (tyWidth f.ty) a)

def execClz (f : Fields) (s : State) : Host.Outcome State Fault Refusal :=
  execute s f fun s x => .ok (compute s x f fun a _ _ _ => if a = 0 then tyWidth f.ty else tyWidth f.ty - 1 - Nat.log2 a)

def execBrev (f : Fields) (s : State) : Host.Outcome State Fault Refusal :=
  execute s f fun s x => .ok (compute s x f fun a _ _ _ => revBits (tyWidth f.ty) a)

def execSel (f : Fields) (s : State) : Host.Outcome State Fault Refusal :=
  execute s f fun s x => .ok (vecResult s x f.d.toNat fun L =>
    if bit (x.src.readK f.c.toNat) L then laneA s x f L else laneB s x f L)

def execIcmp (f : Fields) (s : State) : Host.Outcome State Fault Refusal :=
  execute s f fun s x =>
    if f.sc then
      .ok (condResult s x f.d.toNat fun j => subFlags (tyWidth f.ty) (sliceA s x f j).toNat (sliceB s x f j).toNat)
    else .ok (maskResult s x f.d.toNat fun L =>
      icmpHolds f.sub.toNat (elemInt f.ty (laneA s x f L).toNat 0) (elemInt f.ty (laneB s x f L).toNat 0))

def execMov (f : Fields) (s : State) : Host.Outcome State Fault Refusal :=
  execute s f fun s x => .ok (compute s x f fun a _ _ _ => a)

def execMovS (f : Fields) (s : State) : Host.Outcome State Fault Refusal :=
  execute s f fun s x => .ok (vecResult s x f.d.toNat fun L => (x.src.readS (L / 4) f.a.toNat).setWidth 32)

def execMovi (f : Fields) (s : State) : Host.Outcome State Fault Refusal :=
  execute s f fun s x => .ok (compute s x f fun _ b _ _ => b)

def execMoviHi (f : Fields) (s : State) : Host.Outcome State Fault Refusal :=
  execute s f fun s x => .ok (scaResult s x f.d.toNat fun j => f.imm ++ (x.src.readS j f.d.toNat).setWidth 32)

def execLea (f : Fields) (s : State) : Host.Outcome State Fault Refusal :=
  execute s f fun s x => .ok (intOp s x f fun a b _ => a + b * ((2 ^ f.sub.toNat : Nat) : Int))

/-! ### Masks (11/R261) -/

/-- Operand B of a mask instruction: a k-register or the 32-bit mask. -/
def maskB (x : Exe) (f : Fields) : W32 := if f.bk = .imm then f.imm else x.src.readK f.b.toNat

def execKand (f : Fields) (s : State) : Host.Outcome State Fault Refusal :=
  execute s f fun s x => .ok (maskResult s x f.d.toNat fun L => bit (x.src.readK f.a.toNat &&& maskB x f) L)

def execKor (f : Fields) (s : State) : Host.Outcome State Fault Refusal :=
  execute s f fun s x => .ok (maskResult s x f.d.toNat fun L => bit (x.src.readK f.a.toNat ||| maskB x f) L)

def execKxor (f : Fields) (s : State) : Host.Outcome State Fault Refusal :=
  execute s f fun s x => .ok (maskResult s x f.d.toNat fun L => bit (x.src.readK f.a.toNat ^^^ maskB x f) L)

def execKnot (f : Fields) (s : State) : Host.Outcome State Fault Refusal :=
  execute s f fun s x => .ok (maskResult s x f.d.toNat fun L => !bit (x.src.readK f.a.toNat) L)

def execKmov (f : Fields) (s : State) : Host.Outcome State Fault Refusal :=
  execute s f fun s x => .ok (maskResult s x f.d.toNat fun L => bit (maskB x f) L)

def execKmovVk (f : Fields) (s : State) : Host.Outcome State Fault Refusal :=
  execute s f fun s x => .ok (vecResult s x f.d.toNat fun _ => x.src.readK f.a.toNat)

def execKmovKv (f : Fields) (s : State) : Host.Outcome State Fault Refusal :=
  execute s f fun s x => .ok (maskResult s x f.d.toNat fun L => laneA s x f L != 0)

/-- A count of a mask, to vD or to sD. -/
def maskCount (s : State) (x : Exe) (f : Fields) (n : Nat) : State :=
  if f.sc then scaResult s x f.d.toNat fun _ => BitVec.ofNat 64 n else vecResult s x f.d.toNat fun _ => BitVec.ofNat 32 n

def execKpop (f : Fields) (s : State) : Host.Outcome State Fault Refusal :=
  execute s f fun s x => .ok (maskCount s x f (popCount 32 (x.src.readK f.a.toNat).toNat))

def execKfirst (f : Fields) (s : State) : Host.Outcome State Fault Refusal :=
  execute s f fun s x => .ok (maskCount s x f (lowestBit 32 0 (x.src.readK f.a.toNat).toNat))

/-! ### Cross-lane (11/R262-R264) -/

/-- The valid-lane predicate kC for the enabled lanes; C = 0 writes none. -/
def writeValid (x : Exe) (f : Fields) (src : Nat → Option Nat) (w : Warp) : Warp :=
  if f.c = 0 then w else
    let m := (lanesOf x.en).foldl (fun (a : W32) L => if (src L).isSome then a ||| BitVec.ofNat 32 (1 <<< L) else a) 0
    w.writeK f.c.toNat ((w.readK f.c.toNat &&& ~~~ x.en) ||| m)

/-- A source lane is valid when it is in range and enabled in the same instruction. -/
def validLane (x : Exe) (n : Int) : Option Nat :=
  if 0 ≤ n ∧ n < 32 ∧ bit x.en n.toNat = true then some n.toNat else none

/-- Each enabled lane receives vA of its source lane, or its own. -/
def shuffle (s : State) (x : Exe) (f : Fields) (src : Nat → Option Nat) : State :=
  let v := mapLanes (x.w.readV f.d.toNat) x.en fun L => laneA s x f ((src L).getD L)
  retire s (writeValid x f src (x.w.writeV f.d.toNat x.en v)) x.g

def execShflIdx (f : Fields) (s : State) : Host.Outcome State Fault Refusal :=
  execute s f fun s x => .ok (shuffle s x f fun L => validLane x (laneB s x f L).toNat)

def execShflUp (f : Fields) (s : State) : Host.Outcome State Fault Refusal :=
  execute s f fun s x => .ok (shuffle s x f fun L => validLane x ((L : Int) - (laneB s x f L).toNat))

def execShflDown (f : Fields) (s : State) : Host.Outcome State Fault Refusal :=
  execute s f fun s x => .ok (shuffle s x f fun L => validLane x ((L : Int) + (laneB s x f L).toNat))

def execShflXor (f : Fields) (s : State) : Host.Outcome State Fault Refusal :=
  execute s f fun s x => .ok (shuffle s x f fun L =>
    if bits (laneB s x f L) 31 5 ≠ 0 then none else validLane x ((L ^^^ bits (laneB s x f L) 4 0 : Nat) : Int))

def execBcast (f : Fields) (s : State) : Host.Outcome State Fault Refusal :=
  execute s f fun s x => .ok (shuffle s x f fun _ => validLane x (bits f.imm 4 0 : Nat))

def execBcastS (f : Fields) (s : State) : Host.Outcome State Fault Refusal :=
  execute s f fun s x =>
    let src := fun _ => validLane x (bits f.imm 4 0 : Nat)
    let w := match src 0 with
      | some L => x.w.setS x.slices f.d.toNat (zx64 (laneA s x f L))
      | none => x.w
    .ok (retire s (writeValid x f src w) x.g)

/-- `vote.any` and `vote.all` write r to every active lane of each slice that has an enabled lane (11/R263). -/
def voteResult (s : State) (x : Exe) (f : Fields) (r : Bool) : State :=
  let m := x.w.activeLanes &&& sliceLanes (lanesSlices x.en)
  let k := x.w.readK f.d.toNat
  retire s (x.w.writeK f.d.toNat (if r then k ||| m else k &&& ~~~ m)) x.g

def execVoteAny (f : Fields) (s : State) : Host.Outcome State Fault Refusal :=
  execute s f fun s x => .ok (voteResult s x f ((lanesOf x.en).any fun L => laneA s x f L != 0))

def execVoteAll (f : Fields) (s : State) : Host.Outcome State Fault Refusal :=
  execute s f fun s x => .ok (voteResult s x f ((lanesOf x.en).all fun L => laneA s x f L != 0))

def execVoteBallot (f : Fields) (s : State) : Host.Outcome State Fault Refusal :=
  execute s f fun s x =>
    let m := (lanesOf x.en).foldl (fun (a : W32) L => if laneA s x f L != 0 then a ||| BitVec.ofNat 32 (1 <<< L) else a) 0
    .ok (vecResult s x f.d.toNat fun _ => m)

/-- One combining step of `redux` and `scan` (11/R264). -/
def combine (f : Fields) (a b : Nat) : Nat :=
  let ftz := bit f.md 3
  match f.sub.toNat % 8 with
  | 0 =>
    if f.ty = .f32 then
      f32Fmt.result (bits f.md 1 0) false ftz
        (addVal (bits f.md 1 0) (f32Fmt.value (f32Fmt.flush ftz a)) (f32Fmt.value (f32Fmt.flush ftz b)))
    else (a + b) % 2 ^ 32
  | 1 => if f.ty = .f32 then f32Fmt.minMax ftz false a b
         else if elemInt f.ty a 0 ≤ elemInt f.ty b 0 then a else b
  | 2 => if f.ty = .f32 then f32Fmt.minMax ftz true a b
         else if elemInt f.ty a 0 ≤ elemInt f.ty b 0 then b else a
  | 3 => a &&& b
  | 4 => a ||| b
  | _ => a ^^^ b

/-- The identity of an exclusive scan with no lower enabled lane (11/R264). -/
def combineId (f : Fields) : Nat :=
  match f.sub.toNat % 8 with
  | 1 => if f.ty = .f32 then f32Fmt.infCode false else if f.ty = .s32 then 0x7FFFFFFF else 0xFFFFFFFF
  | 2 => if f.ty = .f32 then f32Fmt.infCode true else if f.ty = .s32 then 0x80000000 else 0
  | 3 => 0xFFFFFFFF
  | _ => 0

/-- The reduction of one lane: a binary32 value is a result of the instruction too, canonical where it is a NaN and flushed
(05/R101, R103). -/
def reduceOne (f : Fields) (a : Nat) : Nat :=
  if f.ty = .f32 then f32Fmt.result (bits f.md 1 0) false (bit f.md 3) (f32Fmt.value (f32Fmt.flush (bit f.md 3) a)) else a

/-- The reduction of the lanes' values in ascending order; the identity when there are none. -/
def reduceLanes (s : State) (x : Exe) (f : Fields) : List Nat → Nat
  | [] => combineId f
  | L :: r => r.foldl (fun a L => combine f a (laneA s x f L).toNat) (reduceOne f (laneA s x f L).toNat)

def execRedux (f : Fields) (s : State) : Host.Outcome State Fault Refusal :=
  execute s f fun s x =>
    let r := reduceLanes s x f (lanesOf x.en)
    .ok (vecResult s x f.d.toNat fun _ => BitVec.ofNat 32 r)

def execScan (f : Fields) (s : State) : Host.Outcome State Fault Refusal :=
  execute s f fun s x => .ok (vecResult s x f.d.toNat fun L =>
    BitVec.ofNat 32 (reduceLanes s x f ((lanesOf x.en).filter fun M => if bit f.sub 3 then M < L else M ≤ L)))

end Sys2Proof.Machine
end

