-- ==== Sys2Proof/Machine/Merge.lean ====
section
/-! DEFINITION. The merge unit (15/R363, 18/R419-R421). -/

namespace Sys2Proof.Machine

/-! ### Tree registers (18/R419) -/

def Tree.valid (t : Tree) : Bool := bit t.word 63
def Tree.root (t : Tree) : Bool := bit t.word 62
def Tree.parent (t : Tree) : Nat := bits t.word 53 46
/-- Contributions of a round; 0 is read as 1. -/
def Tree.nexp (t : Tree) : Nat := max 1 (bits t.word 45 37)
/-- Distances are s32. -/
def Tree.int8 (t : Tree) : Bool := !bit t.word 32
def Tree.lastr (t : Tree) : W32 := t.word.setWidth 32
def Tree.setLastr (t : Tree) (r : W32) : Tree := { t with word := putBits t.word 31 0 r.toNat }

def getTree (s : State) (n : Nat) : Tree := tabGet {} s.trees n
def putTree (s : State) (n : Nat) (t : Tree) : State := { s with trees := tabSet {} s.trees n t }

/-- LASTR moves over every following round that has closed (18/R421). -/
def advanceRounds : Nat → Tree → Tree
  | 0, t => t
  | n + 1, t =>
    if t.closed.contains (t.lastr + 1) then
      advanceRounds n { t.setLastr (t.lastr + 1) with closed := t.closed.filter (· != t.lastr + 1) }
    else t

/-! ### The merge (15/R363) -/

/-- An entry joins a list that holds each id once: the lesser distance stays, of equal ones the lower bit pattern. -/
def keepLeast (int8 : Bool) (l : List (W32 × W32)) (e : W32 × W32) : List (W32 × W32) :=
  match l.find? (·.2 == e.2) with
  | none => e :: l
  | some x => if lessDist int8 e.1 x.1 then e :: l.filter (·.2 != e.2) else l

/-- The entries of all contributions, each id once, in order, and no more than `k`. -/
def mergeEntries (int8 : Bool) (k : Nat) (parts : List Contribution) : List (W32 × W32) :=
  let least := (parts.flatMap (·.entries)).foldl (keepLeast int8) []
  ((least.foldl (fun l e => insertEntry int8 e l) [])).take k

/-- The merge of a round's contributions as one contribution. -/
def mergeParts (int8 : Bool) (r : Round) : Contribution :=
  let p := r.parts
  let k := p.foldl (fun k x => min k x.k) ((p.head?.map (·.k)).getD 0)
  let snap := (p.head?.map (·.snap)).getD 0
  { tree := r.tree, round := r.round, k
    status := p.foldl (fun a x => a ||| x.status) 0
    evals := BitVec.ofNat 32 (min (2 ^ 32 - 1) (p.foldl (fun a x => a + x.evals.toNat) 0))
    snap := if p.all (·.snap == snap) then snap else 0xFFFFFFFF
    entries := mergeEntries int8 k p, loc := none, sender := none }

/-! ### Rounds (18/R420-R421) -/

/-- The local contribution's command is done with. -/
def dropKm (s : State) (loc : Option Nat) : State :=
  { s with kmcmds := s.kmcmds.filter fun k => some k.id != loc }

/-- The root's result, at the result address and barrier of the local contribution (18/R421). -/
def rootResult (s : State) (t : Tree) (r : Round) (m : Contribution) : State :=
  match r.parts.findSome? (fun p => p.loc.bind fun id => s.kmcmds.find? (·.id == id)) with
  | none => s
  | some c =>
    let fill : W32 := if t.int8 then 0x7FFFFFFF else 0x7F800000
    deliverTo (pageWrite s c.resva c.rpas (resultBytes m.status m.evals m.snap m.entries m.k fill)) c.owner c.bar

/-- A round closes. -/
def closeRound (s : State) (r : Round) : State :=
  let t := getTree s r.tree
  let m := mergeParts t.int8 r
  let s1 := if t.root then rootResult s t r m else sendPeer s t.parent 4 (.merge t.parent m)
  let s2 := r.parts.foldl (fun s p => match p.loc with | some id => dropKm s (some id) | none => s) s1
  putTree { s2 with rounds := s2.rounds.filter fun x => !(x.tree == r.tree && x.round == r.round) } r.tree
    (advanceRounds 257 { t with closed := r.round :: t.closed })

/-- A contribution is refused: a peer is told, the local sender will try again. -/
def refuseContribution (s : State) (k : Contribution) : State :=
  match k.sender with
  | some p => sendPeer s p 5 (.mergeNak p k)
  | none => let n := newId s; { n.2 with resends := n.2.resends ++ [⟨n.1, k⟩] }

/-- A contribution at the merge unit. -/
def contribute (s : State) (k : Contribution) : State :=
  let t := getTree s k.tree
  let d := (k.round - t.lastr).toNat
  let same := fun (r : Round) => r.tree == k.tree && r.round == k.round
  if !t.valid || d == 0 || 2 ^ 31 ≤ d || (d ≤ 256 && t.closed.contains k.round) then
    match k.loc with
    | some id => dropKm s (some id)
    | none => s
  else if 256 < d then refuseContribution s k
  else
    match s.rounds.find? same with
    | some r =>
      let r1 := { r with parts := r.parts ++ [k] }
      let s1 := { s with rounds := updWhere same (fun _ => r1) s.rounds }
      if t.nexp ≤ r1.parts.length then closeRound s1 r1 else s1
    | none =>
      if 256 ≤ s.rounds.length then refuseContribution s k
      else
        let r1 : Round := { tree := k.tree, round := k.round, parts := [k] }
        let s1 := { s with rounds := s.rounds ++ [r1] }
        if t.nexp ≤ 1 then closeRound s1 r1 else s1

/-- One of the package's own that is on its way, or one that comes over the fabric. -/
def execKmergeContributionArrive (k : Contribution) (s : State) : Host.Outcome State Fault Refusal :=
  event s fun s => match k.loc, k.sender with
    | some id, _ =>
      if s.kmflight.any (fun x => x.id == id && x.k == k) then contribute { s with kmflight := s.kmflight.filter (·.id != id) } k else s
    | none, some p => if fabricOn s then contribute (heard s p) k else s
    | none, none => s

def execKmergeResendTimer (id : Nat) (s : State) : Host.Outcome State Fault Refusal :=
  event s fun s => match s.resends.find? (·.id == id) with
    | some r => contribute { s with resends := s.resends.filter (·.id != id) } r.k
    | none => s

end Sys2Proof.Machine
end

