-- ==== Sys2Proof/Machine/Management.lean ====
section
/-! DEFINITION. The management port (26/R453-R455), measurement reports (R457-R460), operating profiles and temperatures
(R448-R451). -/

namespace Sys2Proof.Machine

/-! ### Requests (26/R453-R454) -/

/-- Request 1 or 9: what any connection may ask, in recovery too. -/
def openRequest (op : Nat) : Bool := op == 1 || op == 9

/-- The connection may issue the request (R453). -/
def authorised (s : State) (cert : Option Digest) (op : Nat) : Bool :=
  openRequest op || (!s.recovery && ((s.opKey.isSome && cert == s.opKey) || (op == 10 && s.opKey.isNone)))

def respondMgmt (s : State) (q : MgmtReq) (status : Nat) (v0 : W64) : State :=
  { s with out := s.out ++ [.mgmt q.conn (BitVec.ofNat 16 status) q.seq v0] }

/-- Serve a request of an open connection: unknown operations, authority and the zero bytes of the record come first; the body
gives the state and V0, or a status with no effect. A request that `is` not the one of this event has none. -/
def request (s : State) (q : MgmtReq) (is : Nat → Bool) (body : State → Except Nat (State × W64)) : State :=
  let op := q.op.toNat
  match s.conns.find? (·.1 == q.conn) with
  | none => s
  | some c =>
    if !is op then s
    else if op == 0 || 11 < op then respondMgmt s q 1 0
    else if !authorised s c.2 op then respondMgmt s q 3 0
    else if q.zero ≠ 0 then respondMgmt s q 4 0
    else match body s with
      | .ok (s', v) => respondMgmt s' q 0 v
      | .error n => respondMgmt s q n 0

/-- Refuse with a status unless a condition holds. -/
def want (ok : Bool) (status : Nat) : Except Nat Unit := if ok then .ok () else .error status

def execUnknownOp (q : MgmtReq) (s : State) : Host.Outcome State Fault Refusal :=
  event s fun s => request s q (fun op => op == 0 || 11 < op) fun _ => .error 1

/-- A TLS connection is accepted while fewer than 8 are open (R453). -/
def execManagementConnect (conn : Nat) (certDigest : Option Digest) (s : State) : Host.Outcome State Fault Refusal :=
  event s fun s =>
    if s.conns.any (·.1 == conn) || 8 ≤ s.conns.length then s else { s with conns := s.conns ++ [(conn, certDigest)] }

/-! ### Register numbers (26/R455) -/

/-- LGRPSTAT; BUSYG is not valid once a change has ended (02/R18). -/
def lgrpstat (s : State) : W64 :=
  let g := match s.fillQueue with
    | g :: _ => g
    | [] => if s.busygOpen then Config.freeNat s.free % 512 else 0
  BitVec.ofNat 64 ((if layoutBusy s then 2 ^ 17 else 0) + (if s.mderr then 2 ^ 16 else 0) + g)

/-- The register of a management number. -/
def mgmtRead (s : State) (n : Nat) : Option W64 :=
  if n = 0x100 then some (BitVec.ofNat 64 s.prioShift)
  else if n = 0x101 then some (BitVec.ofNat 64 (s.dlscr * 256 + s.dlres))
  else if 0x800 ≤ n ∧ n ≤ 0x80F then some (tabGet 0 s.lgrp (n - 0x800))
  else if n = 0x810 then some (lgrpstat s)
  else if n = 0x811 then some (BitVec.ofNat 64 s.profile)
  else if n = 0x812 then some s.fabpfx
  else if n = 0x813 then some s.fabcfg
  else if 0x820 ≤ n ∧ n ≤ 0x82F then some ((tabGet 256 s.nbarb (n - 0x820)).setWidth 64)
  else if 0x900 ≤ n ∧ n ≤ 0x9FF then some (tabGet 0 s.peers (n - 0x900))
  else if 0xA00 ≤ n ∧ n ≤ 0xAFF then some (getTree s (n - 0xA00)).word
  else none

def execReadRegister (q : MgmtReq) (s : State) : Host.Outcome State Fault Refusal :=
  event s fun s => request s q (· == 1) fun s => match mgmtRead s q.p0.toNat with
    | some v => .ok ((fresh s).2, v)
    | none => .error 1

/-- A completed write extends MR19 by its number and value (R457). -/
def extendWrite (s : State) (q : MgmtReq) : State :=
  { s with mr := extendMr s.mr 19 (toBytes 8 q.p0.toNat ++ toBytes 8 q.p1.toNat) }

/-- Serve a write of a register whose number `is` accepts. -/
def writeReq (s : State) (q : MgmtReq) (is : Nat → Bool) (body : State → Except Nat State) : State :=
  request s q (fun op => op == 2 && is q.p0.toNat) fun s => match body s with
    | .ok s' => .ok (extendWrite s' q, 0)
    | .error n => .error n

/-- The numbers whose writes have a row of their own in the table of operations. -/
def ownRow (n : Nat) : Bool := (0x800 ≤ n && n ≤ 0x811) || (0xA00 ≤ n && n ≤ 0xAFF)

/-- A register without a row of its own: PRIOAGE, DLCFG, FABPFX, FABCFG, NBARB, PEER; any other number is unknown. -/
def writePlain (s : State) (n : Nat) (v : W64) : Except Nat State :=
  if n = 0x100 then
    let k := bits v 4 0
    .ok (if 10 ≤ k ∧ k ≤ 30 then { s with prioShift := k } else s)
  else if n = 0x101 then do
    want (bits v 12 8 ≤ 20) 4
    .ok { s with dlscr := bits v 12 8, dlres := bits v 1 0 }
  else if n = 0x812 then .ok { s with fabpfx := v }
  else if n = 0x813 then
    let s1 := { s with fabcfg := BitVec.ofNat 64 (bits v 31 0) }
    .ok (s1.hops.foldl resume s1)
  else if 0x820 ≤ n ∧ n ≤ 0x82F then
    .ok { s with nbarb := tabSet 256 s.nbarb (n - 0x820) (BitVec.ofNat 13 (max 16 (min 4096 (bits v 12 0)))) }
  else if 0x900 ≤ n ∧ n ≤ 0x9FF then
    .ok (heard { s with peers := tabSet 0 s.peers (n - 0x900) (v &&& 0x8000FFFFFFFF0000) } (n - 0x900))
  else .error 1

def execWriteRegister (q : MgmtReq) (s : State) : Host.Outcome State Fault Refusal :=
  event s fun s => writeReq s q (fun n => !ownRow n) fun s => writePlain s q.p0.toNat q.p1

/-! ### Layouts (02/R18-R20, R37) -/

/-- Code of field i of a layout word. -/
def layField (w : W64) (i : Nat) : Nat := bits w (2 * i + 1) (2 * i)

/-- A context in compatibility mode exists. -/
def compatExists (s : State) : Bool := s.ctxs.any (·.compat)

/-- A group holds the metadata code, and keeps it through a write of `v` to register `n`. -/
def metadataStays (s : State) (n : Nat) (v : W64) : Bool :=
  (List.range 512).any fun g => layoutOf s g == 3 && (g / 32 != n || layField v (g % 32) == 3 || compatExists s)

/-- The fields of a write, in ascending order: the word, the changed groups, whether the metadata code is held, whether a field
was refused (R20, R37). -/
def layWrite (s : State) (n : Nat) (v : W64) : W64 × List Nat × Bool × Bool :=
  let old := tabGet 0 s.lgrp n
  (List.range 32).foldl (fun a i =>
    let new := layField v i
    if new = layField old i then a
    else if layField old i = 3 ∧ compatExists s = true then (a.1, a.2.1, a.2.2.1, true)
    else if new = 3 ∧ a.2.2.1 = true then (a.1, a.2.1, a.2.2.1, true)
    else (putBits a.1 (2 * i + 1) (2 * i) new, a.2.1 ++ [32 * n + i], a.2.2.1 || new == 3, a.2.2.2))
    (old, [], metadataStays s n v, false)

/-- The cells of a granule whose group changes its layout, which software must not do (02/R29), are undefined (00/R5). -/
def freeCells (s : State) (granule : Nat) : State :=
  let cell := fun (i : Nat) =>
    let n := Config.freeNat (s.free + i)
    ({ decided := n % 2 = 1, gen := BitVec.ofNat 16 (n / 2), value := BitVec.ofNat 128 (n / 2 ^ 17) } : Cell)
  { s with free := s.free + 4096
           cells := (List.range 4096).foldl (fun t i => tabSet {} t (granule + 16 * i) (cell i)) s.cells }

def execLgrpWrite (q : MgmtReq) (s : State) : Host.Outcome State Fault Refusal :=
  event s fun s => writeReq s q (fun n => 0x800 ≤ n && n ≤ 0x80F) fun s =>
    if layoutBusy s then .error 2
    else
      let n := q.p0.toNat - 0x800
      let r := layWrite s n q.p1
      let s1 := (s.granules.filter fun g => r.2.1.contains (groupOf g)).foldl freeCells s
      .ok { s1 with lgrp := tabSet 0 s.lgrp n r.1, fillQueue := r.2.1, mderr := s.mderr || r.2.2.2 }

def execLgrpstatWrite (q : MgmtReq) (s : State) : Host.Outcome State Fault Refusal :=
  event s fun s => writeReq s q (· == 0x810) fun s => .ok (if bit q.p1 16 then { s with mderr := false } else s)

def execProfileWrite (q : MgmtReq) (s : State) : Host.Outcome State Fault Refusal :=
  event s fun s => writeReq s q (· == 0x811) fun s => do
    want (bits q.p1 2 0 ≤ 3) 2
    .ok { s with profile := bits q.p1 2 0 }

/-- A tree's open rounds are discarded with their contributions, and its rounds start again (18/R419). -/
def execTreeWrite (q : MgmtReq) (s : State) : Host.Outcome State Fault Refusal :=
  event s fun s => writeReq s q (fun n => 0xA00 ≤ n && n ≤ 0xAFF) fun s => do
    want (bits q.p1 45 37 ≤ 256) 4
    let n := q.p0.toNat - 0xA00
    let gone := (s.rounds.filter (·.tree == n)).flatMap (·.parts)
    let s1 := gone.foldl (fun s k => match k.loc with | some id => dropKm s (some id) | none => s) s
    .ok (putTree { s1 with rounds := s1.rounds.filter (·.tree != n) } n { word := q.p1 &&& 0xC03FFFE1FFFFFFFF, closed := [] })

/-! ### Contexts (18/R413) -/

/-- Reserved bits of the four registers of a new context (03/R41). -/
def ctxReserved (q : MgmtReq) : Bool :=
  bits q.p1 63 2 != 0 || bits q.p2 63 52 != 0 || bits q.p2 11 0 != 0 || bits q.p3 63 52 != 0 || bits q.p3 10 0 != 0
    || bits q.p4 59 52 != 0 || bits q.p4 11 0 != 0

/-- A new context, switched in with a range table. -/
def newCtx (q : MgmtReq) (ranges : List RangeEntry) : Ctx :=
  { slot := q.p0.toNat, cfg := q.p1, root := q.p2, rng := q.p3, fltq := q.p4, ranges
    cgFirst := bits q.p5 5 0, cgCount := bits q.p5 12 6 }

def execCreateContext (q : MgmtReq) (s : State) : Host.Outcome State Fault Refusal :=
  event s fun s => request s q (· == 3) fun s => do
    let first := bits q.p5 5 0
    let n := bits q.p5 12 6
    want (q.p0.toNat < 16 && bits q.p5 63 13 == 0 && 1 ≤ n && n ≤ 64 && !ctxReserved q) 4
    want ((findCtx s q.p0.toNat).isNone && first + n ≤ 64
      && (s.ctxs.all fun c => first + n ≤ c.cgFirst || c.cgFirst + c.cgCount ≤ first)
      && bits q.p4 63 60 ≤ 10 && (!bit q.p1 1 || (List.range 512).any fun g => layoutOf s g == 3)) 2
    let t := tableOf s q.p3
    .ok ({ t.1 with ctxs := s.ctxs ++ [newCtx q t.2]
                    counters := s.counters.filter fun p => !(64 * first ≤ p.1 && p.1 < 64 * (first + n)) }, 0)

/-- The engines of a context stop where they stand: searches are abandoned and permits return (R413, 15/R358). -/
def dropEngines (s : State) (ctx : Nat) : State :=
  let qs := s.queries.filter (·.ctx == ctx)
  let ns := s.nbcmds.filter (·.ctx == ctx)
  let s1 := qs.foldl (fun s q => withdraw (dropPermit s (dieOf q.core) q.permit) (.query q.id)) s
  let s2 := ns.foldl (fun s k => withdraw (dropPermit s (dieOf k.core) k.permit) (.nb k.id)) s1
  let mine := fun (id : Nat) => qs.any (·.id == id)
  let stopped := (s2.insts.filter fun i => i.ctx == ctx && i.started).map (·.chan)
  let kms := (s2.kmcmds.filter (·.ctx == ctx)).map (·.id)
  let free := fun (c : Chan) => { c with owesStep := false, windowPassed := false }
  { s2 with
    queries := s2.queries.filter (·.ctx != ctx)
    walkers := s2.walkers.filter fun w => !mine w.query
    msgs := s2.msgs.filter fun m => !mine m.query
    pushes := s2.pushes.filter fun p => !mine p.query
    nbcmds := s2.nbcmds.filter (·.ctx != ctx)
    insts := s2.insts.filter (·.ctx != ctx)
    chans := (updWhere (fun (c : Chan) => stopped.contains c.chan) free s2.chans).filter fun c => c != { chan := c.chan }
    kmcmds := s2.kmcmds.filter (·.ctx != ctx)
    kmflight := s2.kmflight.filter fun k => !kms.contains k.id
    packets := s2.packets.filter (·.ctx != some ctx)
    scaleReqs := s2.scaleReqs.filter (·.ctx != ctx) }

/-- The blocks of a context end without `exit`, and its launches and queues go. -/
def dropBlocks (s : State) (ctx : Nat) : State :=
  let mine := s.blocks.filter (·.ctx == ctx)
  let ids := mine.map (·.id)
  let s0 := { s with
    sets := s.sets.filter (·.ctx != ctx), retries := s.retries.filter (·.ctx != ctx)
    held := s.held.filter fun h => !ids.contains h.block }
  let s1 := mine.foldl (fun s b => failBlock s b .fault) s0
  let s2 := settleFused s1
  settleBars { s2 with
    blocks := s2.blocks.filter (·.ctx != ctx), launches := s2.launches.filter (·.ctx != ctx)
    queues := s2.queues.filter (·.ctx != ctx), savedPairs := s2.savedPairs.filter (·.ctx != ctx)
    pieces := s2.pieces.filter fun p => !ids.contains p.block
    fbuf := s2.fbuf.filter (·.ctx != ctx) }

/-- The context and what it holds is gone. -/
def destroyCtx (s : State) (c : Ctx) : State :=
  let s1 := dropBlocks (dropEngines s c.slot) c.slot
  let s2 := dropXlats ((s1.rtn.filter (·.ctx == c.slot)).foldl (fun s r => releaseRtn s r.die r.num) s1) c.slot 0 (2 ^ 64)
  { s2 with
    ctxs := s2.ctxs.filter (·.slot != c.slot)
    keys := s2.keys.filter (·.slot != some c.slot)
    counters := s2.counters.filter fun p => !(64 * c.cgFirst ≤ p.1 && p.1 < 64 * (c.cgFirst + c.cgCount)) }

def execDestroyContext (q : MgmtReq) (s : State) : Host.Outcome State Fault Refusal :=
  event s fun s => request s q (· == 4) fun s => do
    want (q.p0.toNat < 16) 4
    match findCtx s q.p0.toNat with
    | some c => .ok (destroyCtx s c, 0)
    | none => .error 2

/-! ### Memory keys (18/R409, 26/R454) -/

/-- A key that no registration has, from a free value on (log 39). -/
def freeKey (s : State) : W32 :=
  let start := Config.freeNat s.free
  let key := fun (i : Nat) => (BitVec.ofNat 32 (start + i) : W32)
  (((List.range 4097).map key).find? fun k => !s.keys.any (·.key == k)).getD 0

def execRegisterMemoryKey (q : MgmtReq) (s : State) : Host.Outcome State Fault Refusal :=
  event s fun s => request s q (· == 5) fun s => do
    let kind := bits q.p0 7 0
    let slot := bits q.p0 15 8
    want (bits q.p0 63 16 == 0 && kind ≤ 1
      && (kind == 1 || (slot < 16 && q.p1.toNat % 4096 == 0 && q.p2.toNat % 4096 == 0))) 4
    want ((kind == 1 || (findCtx s slot).isSome) && s.keys.length < 4096) 2
    let key := freeKey s
    let k : MemKey := if kind = 1 then { key, slot := none, va := 0, len := 0 } else { key, slot := some slot, va := q.p1.toNat, len := q.p2.toNat }
    .ok ({ (fresh s).2 with keys := s.keys ++ [k] }, key.setWidth 64)

def execRevokeMemoryKey (q : MgmtReq) (s : State) : Host.Outcome State Fault Refusal :=
  event s fun s => request s q (· == 6) fun s => do
    want (bits q.p0 63 32 == 0) 4
    let key : W32 := q.p0.setWidth 32
    want (s.keys.any (·.key == key)) 2
    .ok ({ s with keys := s.keys.filter (·.key != key) }, 0)

/-! ### Cell granules (02/R29) -/

def execRegisterCellGranule (q : MgmtReq) (s : State) : Host.Outcome State Fault Refusal :=
  event s fun s => request s q (· == 7) fun s => do
    let pa := q.p0.toNat
    want (isHbm pa && pa % 65536 == 0 && layoutOf s (groupOf pa) == 1 && !s.granules.contains pa
      && (s.granules.filter fun g => homeOf s g == homeOf s pa).length < 1024) 2
    .ok ({ s with granules := pa :: s.granules, cells := s.cells.filter fun c => !(pa ≤ c.1 && c.1 < pa + 65536) }, 0)

/-- Every cell's value goes to the granule's memory, and the cells are gone. -/
def execUnregisterCellGranule (q : MgmtReq) (s : State) : Host.Outcome State Fault Refusal :=
  event s fun s => request s q (· == 8) fun s => do
    let pa := q.p0.toNat
    want (s.granules.contains pa) 2
    let s1 := (List.range 4096).foldl (fun s i => homePut s (pa + 16 * i) (toBytes 16 (cellAt s (pa + 16 * i)).value.toNat)) s
    .ok ({ s1 with
      granules := s1.granules.filter (· != pa)
      cells := s1.cells.filter fun c => !(pa ≤ c.1 && c.1 < pa + 65536) }, 0)

/-! ### Reports and the operator key (26/R453, R457-R460) -/

/-- The 1,104-byte report for a nonce. Whether the count of signed reports includes the report itself is open (log 40). -/
def reportBytes (s : State) (nonce : List Byte) : List Byte :=
  let head := BitVec.ofNat 64 (1 + 20 * 2 ^ 16 + s.boots.toNat * 2 ^ 32)
  let count := s.reports + BitVec.ofNat 64 (Config.freeNat (2 ^ 65) % 2)
  let body := wordsToBytes [head, count] ++ nonce ++ (List.range 20).flatMap (fun i => digestBytes (tabGet 0 s.mr i))
  let sig := Config.signature (sha384 body) s.reports.toNat
  body ++ digestBytes sig.1 ++ digestBytes sig.2

/-- One more report is signed. -/
def signed (s : State) : State := { s with reports := s.reports + 1 }

/-- The response is followed by the report. -/
def execMeasurementReport (q : MgmtReq) (s : State) : Host.Outcome State Fault Refusal :=
  event s fun s =>
    let nonce := wordsToBytes [q.p0, q.p1, q.p2, q.p3]
    let served := request s q (· == 9) fun s => .ok (signed s, 0)
    if served.reports = s.reports then served else { served with out := served.out ++ [.report q.conn (reportBytes s nonce)] }

/-- Context command 10: the report is written at the home; an access that fails leaves the command without effect (log 41). -/
def execContextMeasurementReport (ctx : Nat) (arg : BitVec 56) (arg2 : W64) (s : State) : Host.Outcome State Fault Refusal :=
  event s fun s => command s ctx (fun _ => arg == 0) fun s c =>
    match checkBytes s c needHostRead arg2.toNat 32 with
    | .error _ => (s, true)
    | .ok xs =>
      let report := reportBytes s (xs.map fun x => homeByte s x.pa)
      match checkBytes s c needHostWrite arg2.toNat report.length with
      | .error _ => (s, true)
      | .ok ys => (homeStoreAs (signed (llcRead s (xs.map (·.pa)))) c.compat ((ys.map (·.pa)).zip report), true)

/-- The digest of an operator key, and the extension of MR19. -/
def execSetOperatorKey (q : MgmtReq) (s : State) : Host.Outcome State Fault Refusal :=
  event s fun s => request s q (· == 10) fun s => do
    want s.opKey.isNone 2
    let bytes := wordsToBytes [q.p0, q.p1, q.p2, q.p3, q.p4, q.p5]
    .ok ({ s with opKey := some (digestOf bytes), mr := extendMr s.mr 19 (toBytes 8 0xFFF ++ bytes) }, 0)

/-! ### Matrix engine reset by request (17/R404) -/

/-- Ordered and completed; the request waits while a fault queue lacks room for its records. -/
def execResetMatrixEngine (q : MgmtReq) (s : State) : Host.Outcome State Fault Refusal :=
  event s fun s =>
    let served := request s q (· == 11) fun s => do
      want (q.p0.toNat % 2 == 0 && q.p0.toNat ≤ 382) 4
      .ok ((resetPair s (q.p0.toNat / 2)).getD s, 0)
    let done := served.out.getLast? == some (.mgmt q.conn 0 q.seq 0) && served.out != s.out
    if done && !resetRoom s (q.p0.toNat / 2) then { s with deferred := true } else served

/-! ### Profiles, clocks and temperatures (26/R447-R451) -/

/-- The profile takes effect on a die; Low-jitter fixes its clk. A waiting `permit` asks for no more than the new limit
(15/R366), and a die with more permits outstanding grants none until fewer are (R451). -/
def execProfileChangeEffect (die : Nat) (s : State) : Host.Outcome State Fault Refusal :=
  event s fun s =>
    let d := getDie s die
    let limit := permax s.profile
    let clamp := fun (r : PermReq) => match r.owner with
      | .warp _ _ => { r with n := min r.n limit }
      | _ => r
    if d.profile = s.profile then s
    else putDie s die { d with profile := s.profile, clkMhz := if s.profile = 3 then 1700 else d.clkMhz
                               above := limit < d.out, waiting := d.waiting.map clamp }

/-- A governor sets the clk of its die, in steps of 50 MHz between 1.2 and 1.9 GHz, under profiles 0 to 2 (R449). -/
def execGovernorRedistribute (die mhz : Nat) (s : State) : Host.Outcome State Fault Refusal :=
  event s fun s =>
    let d := getDie s die
    if d.profile ≤ 2 ∧ 1200 ≤ mhz ∧ mhz ≤ 1900 ∧ mhz % 50 = 0 then putDie s die { d with clkMhz := mhz } else s

/-- A die crosses a temperature (R447, R450): hot from 100 °C until it is below 95 °C; clk moves by a step. -/
def execDieTemperatureThreshold (die celsius : Nat) (s : State) : Host.Outcome State Fault Refusal :=
  event s fun s =>
    let d := getDie s die
    let hot := if 100 ≤ celsius then true else if celsius < 95 then false else d.hot
    let down := max 1200 (d.clkMhz - 50)
    let clk :=
      if d.profile = 3 then (if 103 ≤ celsius then down else if celsius < 97 then min 1700 (d.clkMhz + 50) else d.clkMhz)
      else if 100 ≤ celsius then down else d.clkMhz
    putDie s die { d with hot, clkMhz := clk }

end Sys2Proof.Machine
end

