-- ==== Sys2Proof/Machine/Dispatch.lean ====
section
/-! DEFINITION. One arm per instruction and event: a direct call of its meaning. -/

namespace Sys2Proof.Machine

def exec (i : Instr) (s : State) : Host.Outcome State Fault Refusal :=
  match i with
  | .nop f => Sys2Proof.Machine.execNop f s
  | .bra f => Sys2Proof.Machine.execBra f s
  | .brc f => Sys2Proof.Machine.execBrc f s
  | .brz f => Sys2Proof.Machine.execBrz f s
  | .brnz f => Sys2Proof.Machine.execBrnz f s
  | .call f => Sys2Proof.Machine.execCall f s
  | .ret f => Sys2Proof.Machine.execRet f s
  | .jmpi f => Sys2Proof.Machine.execJmpi f s
  | .regang f => Sys2Proof.Machine.execRegang f s
  | .exit f => Sys2Proof.Machine.execExit f s
  | .yield f => Sys2Proof.Machine.execYield f s
  | .trap f => Sys2Proof.Machine.execTrap f s
  | .brk f => Sys2Proof.Machine.execBrk f s
  | .waitf f => Sys2Proof.Machine.execWaitf f s
  | .iadd f => Sys2Proof.Machine.execIadd f s
  | .isub f => Sys2Proof.Machine.execIsub f s
  | .imul f => Sys2Proof.Machine.execImul f s
  | .imulh f => Sys2Proof.Machine.execImulh f s
  | .imad f => Sys2Proof.Machine.execImad f s
  | .imin f => Sys2Proof.Machine.execImin f s
  | .imax f => Sys2Proof.Machine.execImax f s
  | .iabs f => Sys2Proof.Machine.execIabs f s
  | .ineg f => Sys2Proof.Machine.execIneg f s
  | .and f => Sys2Proof.Machine.execAnd f s
  | .or f => Sys2Proof.Machine.execOr f s
  | .xor f => Sys2Proof.Machine.execXor f s
  | .andn f => Sys2Proof.Machine.execAndn f s
  | .shl f => Sys2Proof.Machine.execShl f s
  | .shr f => Sys2Proof.Machine.execShr f s
  | .sar f => Sys2Proof.Machine.execSar f s
  | .rot f => Sys2Proof.Machine.execRot f s
  | .rotR f => Sys2Proof.Machine.execRotR f s
  | .bfx f => Sys2Proof.Machine.execBfx f s
  | .bfxs f => Sys2Proof.Machine.execBfxs f s
  | .bfi f => Sys2Proof.Machine.execBfi f s
  | .popc f => Sys2Proof.Machine.execPopc f s
  | .clz f => Sys2Proof.Machine.execClz f s
  | .brev f => Sys2Proof.Machine.execBrev f s
  | .sel f => Sys2Proof.Machine.execSel f s
  | .icmp f => Sys2Proof.Machine.execIcmp f s
  | .mov f => Sys2Proof.Machine.execMov f s
  | .movS f => Sys2Proof.Machine.execMovS f s
  | .movi f => Sys2Proof.Machine.execMovi f s
  | .moviHi f => Sys2Proof.Machine.execMoviHi f s
  | .lea f => Sys2Proof.Machine.execLea f s
  | .kand f => Sys2Proof.Machine.execKand f s
  | .kor f => Sys2Proof.Machine.execKor f s
  | .kxor f => Sys2Proof.Machine.execKxor f s
  | .knot f => Sys2Proof.Machine.execKnot f s
  | .kmov f => Sys2Proof.Machine.execKmov f s
  | .kmovVk f => Sys2Proof.Machine.execKmovVk f s
  | .kmovKv f => Sys2Proof.Machine.execKmovKv f s
  | .kpop f => Sys2Proof.Machine.execKpop f s
  | .kfirst f => Sys2Proof.Machine.execKfirst f s
  | .shflIdx f => Sys2Proof.Machine.execShflIdx f s
  | .shflUp f => Sys2Proof.Machine.execShflUp f s
  | .shflDown f => Sys2Proof.Machine.execShflDown f s
  | .shflXor f => Sys2Proof.Machine.execShflXor f s
  | .voteAny f => Sys2Proof.Machine.execVoteAny f s
  | .voteAll f => Sys2Proof.Machine.execVoteAll f s
  | .voteBallot f => Sys2Proof.Machine.execVoteBallot f s
  | .redux f => Sys2Proof.Machine.execRedux f s
  | .scan f => Sys2Proof.Machine.execScan f s
  | .bcast f => Sys2Proof.Machine.execBcast f s
  | .bcastS f => Sys2Proof.Machine.execBcastS f s
  | .fadd f => Sys2Proof.Machine.execFadd f s
  | .fsub f => Sys2Proof.Machine.execFsub f s
  | .fmul f => Sys2Proof.Machine.execFmul f s
  | .ffma f => Sys2Proof.Machine.execFfma f s
  | .fmin f => Sys2Proof.Machine.execFmin f s
  | .fmax f => Sys2Proof.Machine.execFmax f s
  | .fcmp f => Sys2Proof.Machine.execFcmp f s
  | .frcp f => Sys2Proof.Machine.execFrcp f s
  | .frsq f => Sys2Proof.Machine.execFrsq f s
  | .fsqrt f => Sys2Proof.Machine.execFsqrt f s
  | .fex2 f => Sys2Proof.Machine.execFex2 f s
  | .flg2 f => Sys2Proof.Machine.execFlg2 f s
  | .fsin f => Sys2Proof.Machine.execFsin f s
  | .fcos f => Sys2Proof.Machine.execFcos f s
  | .ftanh f => Sys2Proof.Machine.execFtanh f s
  | .fsig f => Sys2Proof.Machine.execFsig f s
  | .hadd2 f => Sys2Proof.Machine.execHadd2 f s
  | .hmul2 f => Sys2Proof.Machine.execHmul2 f s
  | .hfma2 f => Sys2Proof.Machine.execHfma2 f s
  | .cvt f => Sys2Proof.Machine.execCvt f s
  | .frnd f => Sys2Proof.Machine.execFrnd f s
  | .fclass f => Sys2Proof.Machine.execFclass f s
  | .fscale f => Sys2Proof.Machine.execFscale f s
  | .ld f => Sys2Proof.Machine.execLd f s
  | .st f => Sys2Proof.Machine.execSt f s
  | .lds f => Sys2Proof.Machine.execLds f s
  | .sts f => Sys2Proof.Machine.execSts f s
  | .atom f => Sys2Proof.Machine.execAtom f s
  | .red f => Sys2Proof.Machine.execRed f s
  | .cellp f => Sys2Proof.Machine.execCellp f s
  | .cellr f => Sys2Proof.Machine.execCellr f s
  | .cellc f => Sys2Proof.Machine.execCellc f s
  | .pref f => Sys2Proof.Machine.execPref f s
  | .cclean f => Sys2Proof.Machine.execCclean f s
  | .cinv f => Sys2Proof.Machine.execCinv f s
  | .cdisc f => Sys2Proof.Machine.execCdisc f s
  | .sealRange f => Sys2Proof.Machine.execSealRange f s
  | .unsealRange f => Sys2Proof.Machine.execUnsealRange f s
  | .pin f => Sys2Proof.Machine.execPin f s
  | .unpin f => Sys2Proof.Machine.execUnpin f s
  | .cpy f => Sys2Proof.Machine.execCpy f s
  | .cpyq f => Sys2Proof.Machine.execCpyq f s
  | .chko f => Sys2Proof.Machine.execChko f s
  | .chki f => Sys2Proof.Machine.execChki f s
  | .chkiDrop f => Sys2Proof.Machine.execChkiDrop f s
  | .bclose f => Sys2Proof.Machine.execBclose f s
  | .bwait f => Sys2Proof.Machine.execBwait f s
  | .decLut f => Sys2Proof.Machine.execDecLut f s
  | .decRle0 f => Sys2Proof.Machine.execDecRle0 f s
  | .decSp24 f => Sys2Proof.Machine.execDecSp24 f s
  | .strm f => Sys2Proof.Machine.execStrm f s
  | .srun f => Sys2Proof.Machine.execSrun f s
  | .astop f => Sys2Proof.Machine.execAstop f s
  | .astopAll f => Sys2Proof.Machine.execAstopAll f s
  | .amovi f => Sys2Proof.Machine.execAmovi f s
  | .amoviHi f => Sys2Proof.Machine.execAmoviHi f s
  | .aadd f => Sys2Proof.Machine.execAadd f s
  | .aloop f => Sys2Proof.Machine.execAloop f s
  | .abr f => Sys2Proof.Machine.execAbr f s
  | .mma f => Sys2Proof.Machine.execMma f s
  | .zclr f => Sys2Proof.Machine.execZclr f s
  | .drain f => Sys2Proof.Machine.execDrain f s
  | .atbl f => Sys2Proof.Machine.execAtbl f s
  | .fmtset f => Sys2Proof.Machine.execFmtset f s
  | .scpreLd f => Sys2Proof.Machine.execScpreLd f s
  | .scpreInv f => Sys2Proof.Machine.execScpreInv f s
  | .scpreAll f => Sys2Proof.Machine.execScpreAll f s
  | .opfence f => Sys2Proof.Machine.execOpfence f s
  | .batonJoin f => Sys2Proof.Machine.execBatonJoin f s
  | .batonTake f => Sys2Proof.Machine.execBatonTake f s
  | .batonPass f => Sys2Proof.Machine.execBatonPass f s
  | .fence f => Sys2Proof.Machine.execFence f s
  | .fwait f => Sys2Proof.Machine.execFwait f s
  | .barArv f => Sys2Proof.Machine.execBarArv f s
  | .barWait f => Sys2Proof.Machine.execBarWait f s
  | .barArm f => Sys2Proof.Machine.execBarArm f s
  | .barTst f => Sys2Proof.Machine.execBarTst f s
  | .grow f => Sys2Proof.Machine.execGrow f s
  | .growTry f => Sys2Proof.Machine.execGrowTry f s
  | .shrink f => Sys2Proof.Machine.execShrink f s
  | .spawn f => Sys2Proof.Machine.execSpawn f s
  | .spawnTry f => Sys2Proof.Machine.execSpawnTry f s
  | .rsv f => Sys2Proof.Machine.execRsv f s
  | .rsvTry f => Sys2Proof.Machine.execRsvTry f s
  | .enq f => Sys2Proof.Machine.execEnq f s
  | .deq f => Sys2Proof.Machine.execDeq f s
  | .deqTry f => Sys2Proof.Machine.execDeqTry f s
  | .migrate f => Sys2Proof.Machine.execMigrate f s
  | .routeSet f => Sys2Proof.Machine.execRouteSet f s
  | .routeSetFree f => Sys2Proof.Machine.execRouteSetFree f s
  | .routeAdmit f => Sys2Proof.Machine.execRouteAdmit f s
  | .routeAdmitClose f => Sys2Proof.Machine.execRouteAdmitClose f s
  | .routePop f => Sys2Proof.Machine.execRoutePop f s
  | .routeVerd f => Sys2Proof.Machine.execRouteVerd f s
  | .routeStat f => Sys2Proof.Machine.execRouteStat f s
  | .srch f => Sys2Proof.Machine.execSrch f s
  | .kmerge f => Sys2Proof.Machine.execKmerge f s
  | .nbcall f => Sys2Proof.Machine.execNbcall f s
  | .csrr f => Sys2Proof.Machine.execCsrr f s
  | .csrw f => Sys2Proof.Machine.execCsrw f s
  | .syscall f => Sys2Proof.Machine.execSyscall f s
  | .eret f => Sys2Proof.Machine.execEret f s
  | .halt f => Sys2Proof.Machine.execHalt f s
  | .permit f => Sys2Proof.Machine.execPermit f s
  | .clkrd f => Sys2Proof.Machine.execClkrd f s
  | .clkrdCore f => Sys2Proof.Machine.execClkrdCore f s
  | .wnode f => Sys2Proof.Machine.execWnode f s
  | .wdist f => Sys2Proof.Machine.execWdist f s
  | .wpush f => Sys2Proof.Machine.execWpush f s
  | .wbound f => Sys2Proof.Machine.execWbound f s
  | .wnbr f => Sys2Proof.Machine.execWnbr f s
  | .wseen f => Sys2Proof.Machine.execWseen f s
  | .wspawn f => Sys2Proof.Machine.execWspawn f s
  | .whop f => Sys2Proof.Machine.execWhop f s
  | .wend f => Sys2Proof.Machine.execWend f s
  | .wmovi f => Sys2Proof.Machine.execWmovi f s
  | .wmoviHi f => Sys2Proof.Machine.execWmoviHi f s
  | .wadd f => Sys2Proof.Machine.execWadd f s
  | .wsub f => Sys2Proof.Machine.execWsub f s
  | .wcmp f => Sys2Proof.Machine.execWcmp f s
  | .wcmpF f => Sys2Proof.Machine.execWcmpF f s
  | .wbr f => Sys2Proof.Machine.execWbr f s
  | .wj f => Sys2Proof.Machine.execWj f s
  | .wshr f => Sys2Proof.Machine.execWshr f s
  | .wand f => Sys2Proof.Machine.execWand f s
  | .wld f => Sys2Proof.Machine.execWld f s
  | .wcnt f => Sys2Proof.Machine.execWcnt f s
  | .nbrow f => Sys2Proof.Machine.execNbrow f s
  | .nbscale f => Sys2Proof.Machine.execNbscale f s
  | .nbadd f => Sys2Proof.Machine.execNbadd f s
  | .nbfma f => Sys2Proof.Machine.execNbfma f s
  | .nbst f => Sys2Proof.Machine.execNbst f s
  | .nbloop f => Sys2Proof.Machine.execNbloop f s
  | .nbend f => Sys2Proof.Machine.execNbend f s
  | .nbsig f => Sys2Proof.Machine.execNbsig f s
  | .nbfmt f => Sys2Proof.Machine.execNbfmt f s
  | .nbclr f => Sys2Proof.Machine.execNbclr f s
  | .sealComplete ctx handle => Sys2Proof.Machine.execSealComplete ctx handle s
  | .memoryResponse id => Sys2Proof.Machine.execMemoryResponse id s
  | .copyEngineFault cmd => Sys2Proof.Machine.execCopyEngineFault cmd s
  | .copyCommandComplete cmd => Sys2Proof.Machine.execCopyCommandComplete cmd s
  | .checkoutPieceGrant piece => Sys2Proof.Machine.execCheckoutPieceGrant piece s
  | .checkinComplete cmd => Sys2Proof.Machine.execCheckinComplete cmd s
  | .streamEntryIssue warp queue => Sys2Proof.Machine.execStreamEntryIssue warp queue s
  | .streamEntryPush warp queue => Sys2Proof.Machine.execStreamEntryPush warp queue s
  | .accessTrapDeliver warp => Sys2Proof.Machine.execAccessTrapDeliver warp s
  | .matrixOpStart op => Sys2Proof.Machine.execMatrixOpStart op s
  | .matrixSecondPass op => Sys2Proof.Machine.execMatrixSecondPass op s
  | .matrixOpComplete op => Sys2Proof.Machine.execMatrixOpComplete op s
  | .scaleRecordFetch req => Sys2Proof.Machine.execScaleRecordFetch req s
  | .drainComplete op => Sys2Proof.Machine.execDrainComplete op s
  | .engineCompletionDelivery id => Sys2Proof.Machine.execEngineCompletionDelivery id s
  | .growGrant core quad => Sys2Proof.Machine.execGrowGrant core quad s
  | .rsvGrant id => Sys2Proof.Machine.execRsvGrant id s
  | .enqDelivery id => Sys2Proof.Machine.execEnqDelivery id s
  | .queryInstall query => Sys2Proof.Machine.execQueryInstall query s
  | .walkerMessageArrive msg => Sys2Proof.Machine.execWalkerMessageArrive msg s
  | .heapPushArrive push => Sys2Proof.Machine.execHeapPushArrive push s
  | .searchEnd query => Sys2Proof.Machine.execSearchEnd query s
  | .nbInstanceStart inst => Sys2Proof.Machine.execNbInstanceStart inst s
  | .cellOpAtHome id => Sys2Proof.Machine.execCellOpAtHome id s
  | .warpEnd warp => Sys2Proof.Machine.execWarpEnd warp s
  | .launchComplete launch => Sys2Proof.Machine.execLaunchComplete launch s
  | .recordAccept queue => Sys2Proof.Machine.execRecordAccept queue s
  | .blockDispatch launch => Sys2Proof.Machine.execBlockDispatch launch s
  | .permitGrant die => Sys2Proof.Machine.execPermitGrant die s
  | .doorbellWrite queue wrc => Sys2Proof.Machine.execDoorbellWrite queue wrc s
  | .invalidate ctx arg arg2 => Sys2Proof.Machine.execInvalidate ctx arg arg2 s
  | .faultDone ctx arg arg2 => Sys2Proof.Machine.execFaultDone ctx arg arg2 s
  | .counterSet ctx arg arg2 => Sys2Proof.Machine.execCounterSet ctx arg arg2 s
  | .preemptBlock ctx arg arg2 => Sys2Proof.Machine.execPreemptBlock ctx arg arg2 s
  | .switchOut ctx arg arg2 => Sys2Proof.Machine.execSwitchOut ctx arg arg2 s
  | .switchIn ctx arg arg2 => Sys2Proof.Machine.execSwitchIn ctx arg arg2 s
  | .restartAfterHalt ctx arg arg2 => Sys2Proof.Machine.execRestartAfterHalt ctx arg arg2 s
  | .bindQueue ctx arg arg2 => Sys2Proof.Machine.execBindQueue ctx arg arg2 s
  | .unbindQueue ctx arg arg2 => Sys2Proof.Machine.execUnbindQueue ctx arg arg2 s
  | .contextMeasurementReport ctx arg arg2 => Sys2Proof.Machine.execContextMeasurementReport ctx arg arg2 s
  | .illegalInstruction word => Sys2Proof.Machine.execIllegalInstruction word s
  | .lineEntry => Sys2Proof.Machine.execLineEntry s
  | .compatWritebackCommit => Sys2Proof.Machine.execCompatWritebackCommit s
  | .layoutFillDone => Sys2Proof.Machine.execLayoutFillDone s
  | .fragmentDetach warp slice => Sys2Proof.Machine.execFragmentDetach warp slice s
  | .agingReserve launch => Sys2Proof.Machine.execAgingReserve launch s
  | .pendingWarpSwap core quad => Sys2Proof.Machine.execPendingWarpSwap core quad s
  | .growDeadlockDetect core => Sys2Proof.Machine.execGrowDeadlockDetect core s
  | .arbitrationWindowExpiry chan => Sys2Proof.Machine.execArbitrationWindowExpiry chan s
  | .sohornReplayTimeout port vc seq => Sys2Proof.Machine.execSohornReplayTimeout port vc seq s
  | .kmergeResendTimer id => Sys2Proof.Machine.execKmergeResendTimer id s
  | .boundBroadcast query => Sys2Proof.Machine.execBoundBroadcast query s
  | .profileChangeEffect die => Sys2Proof.Machine.execProfileChangeEffect die s
  | .matrixResetComplete pair => Sys2Proof.Machine.execMatrixResetComplete pair s
  | .holdingStoreRetry die set => Sys2Proof.Machine.execHoldingStoreRetry die set s
  | .channelAccessServed chan => Sys2Proof.Machine.execChannelAccessServed chan s
  | .rowStepEnd chan => Sys2Proof.Machine.execRowStepEnd chan s
  | .machineCheck src pa va who => Sys2Proof.Machine.execMachineCheck src pa va who s
  | .governorRedistribute die mhz => Sys2Proof.Machine.execGovernorRedistribute die mhz s
  | .dieTemperatureThreshold die celsius => Sys2Proof.Machine.execDieTemperatureThreshold die celsius s
  | .overtempReset => Sys2Proof.Machine.execOvertempReset s
  | .watchdogReset pair => Sys2Proof.Machine.execWatchdogReset pair s
  | .hostRdmaWrite qp key va bytes => Sys2Proof.Machine.execHostRdmaWrite qp key va bytes s
  | .hostRdmaRead qp key va len => Sys2Proof.Machine.execHostRdmaRead qp key va len s
  | .hostRdmaAtomic qp key va => Sys2Proof.Machine.execHostRdmaAtomic qp key va s
  | .congestionNotification qp => Sys2Proof.Machine.execCongestionNotification qp s
  | .readRegister q => Sys2Proof.Machine.execReadRegister q s
  | .writeRegister q => Sys2Proof.Machine.execWriteRegister q s
  | .lgrpWrite q => Sys2Proof.Machine.execLgrpWrite q s
  | .lgrpstatWrite q => Sys2Proof.Machine.execLgrpstatWrite q s
  | .profileWrite q => Sys2Proof.Machine.execProfileWrite q s
  | .treeWrite q => Sys2Proof.Machine.execTreeWrite q s
  | .createContext q => Sys2Proof.Machine.execCreateContext q s
  | .destroyContext q => Sys2Proof.Machine.execDestroyContext q s
  | .registerMemoryKey q => Sys2Proof.Machine.execRegisterMemoryKey q s
  | .revokeMemoryKey q => Sys2Proof.Machine.execRevokeMemoryKey q s
  | .registerCellGranule q => Sys2Proof.Machine.execRegisterCellGranule q s
  | .unregisterCellGranule q => Sys2Proof.Machine.execUnregisterCellGranule q s
  | .measurementReport q => Sys2Proof.Machine.execMeasurementReport q s
  | .setOperatorKey q => Sys2Proof.Machine.execSetOperatorKey q s
  | .resetMatrixEngine q => Sys2Proof.Machine.execResetMatrixEngine q s
  | .managementConnect conn certDigest => Sys2Proof.Machine.execManagementConnect conn certDigest s
  | .deviceBoot images => Sys2Proof.Machine.execDeviceBoot images s
  | .peerRequestArrive q => Sys2Proof.Machine.execPeerRequestArrive q s
  | .peerResponseArrive id ok data => Sys2Proof.Machine.execPeerResponseArrive id ok data s
  | .remoteEnqueueArrive peer id desc ack msg => Sys2Proof.Machine.execRemoteEnqueueArrive peer id desc ack msg s
  | .remoteReservationArrive peer id desc n nowait => Sys2Proof.Machine.execRemoteReservationArrive peer id desc n nowait s
  | .kmergeContributionArrive k => Sys2Proof.Machine.execKmergeContributionArrive k s
  | .sohornAck port vc upTo => Sys2Proof.Machine.execSohornAck port vc upTo s
  | .sohornNak port vc first => Sys2Proof.Machine.execSohornNak port vc first s
  | .peerAckTimeout peer => Sys2Proof.Machine.execPeerAckTimeout peer s
  | .unknownOp q => Sys2Proof.Machine.execUnknownOp q s
  | .priorityFlowControlPause port prio pause => Sys2Proof.Machine.execPriorityFlowControlPause port prio pause s
  | .creditReturn port vc n => Sys2Proof.Machine.execCreditReturn port vc n s
  | .channelAccessArrive chan pa => Sys2Proof.Machine.execChannelAccessArrive chan pa s

end Sys2Proof.Machine
end

