-- ==== Sys2Proof/Machine/Issue.lean ====
section
/-! DEFINITION. What moves next, and the issue of a word: the checks of 08/R187, pairs (08/R180-R181), the choice among
inputs, events and units (log 1), and the passage of time (log 8). -/

namespace Sys2Proof.Machine

/-! ### The slot of the issuing unit -/

/-- The stream, entry and slot of the issuing unit. -/
def unitPlace (s : State) : Option (StreamKind × Entry × Nat) :=
  match s.cur with
  | .none => none
  | .execute _ => (issuer s).map fun p => (.execute, p.2.entry, p.2.pc)
  | .access _ => (accessIssuer s).map fun w => (.access, w.acc.entry, w.acc.pc)
  | .walker id => (findWalker s id).map fun w => (.walker, w.entry, w.pc)
  | .bank id => (findInst s id).map fun i => (.bank, i.entry, i.pc)

/-- The instruction that a word is to a stream, when steps 1 to 4 of 08/R187 pass. -/
def readWord (k : StreamKind) (w : W96) : Option Instr :=
  match decode w with
  | .ok i => if accepts k i && legal i then some i else none
  | .error _ => none

/-- The lowest vector register that an instruction names at or above the warp's limit (06/R126). -/
def overLimit (w : Warp) (i : Instr) : Option Nat :=
  ((vNamed i).filter (w.limit ≤ ·)).foldl (fun r n => match r with
    | none => some n
    | some m => some (min m n)) none

/-- The unit waits no longer: it executes its instruction. -/
def unwait (s : State) : State :=
  match s.cur with
  | .execute _ => match issuer s with
    | some (w, g) => setWarp s (w.setGroup { g with wait := .none })
    | none => s
  | .access _ => match accessIssuer s with
    | some w => setWarp s { w with acc := { w.acc with wait := .none } }
    | none => s
  | _ => s

/-- The register-range trap that an instruction of the execute slice meets at issue (08/R187 step 6). -/
def rangeTrap (s : State) (i : Instr) : Option State :=
  match issuer s with
  | none => none
  | some (w, g) => (overLimit w i).map fun n => stopped s w g 0 (.trap 5 n 0)

/-- Issue one word. -/
def issueOne (s : State) (k : StreamKind) (word : W96) : Host.Outcome State Fault Refusal :=
  match readWord k word with
  | none => exec (.illegalInstruction word) s
  | some i => match rangeTrap s i with
    | some s' => .next s'
    | none => exec i (unwait s)

/-- An illegal-instruction trap just taken names the word given: the second of a pair is run at the first slot (17/R390). -/
def namesWord (s t : State) (word : W96) : State :=
  match issuer s with
  | none => t
  | some (w, _) =>
    let mine := fun (x : Warp) => x.id == w.id && !w.hm && x.hm && bits x.tcause 7 0 == 1
    { t with warps := updWhere mine (fun x => { x with tinfo := word.extractLsb' 0 64 }) t.warps }

/-- Issue a pair (08/R180-R181): both operations read the warp as it stood, and neither takes effect unless both do. The
second operation, when it does not retire, is run alone at the first slot, so that its trap or wait is taken there. -/
def issuePair (s : State) (first second : W96) : Host.Outcome State Fault Refusal :=
  match readWord .execute first, readWord .execute second with
  | some x, some y =>
    if !pairLegal x y then exec (.illegalInstruction first) s
    else match rangeTrap s x with
      | some s' => .next s'
      | none => match rangeTrap s y with
        | some s' => .next s'
        | none => match exec x { unwait s with view := (issuer s).map (·.1), popped := [] } with
          | .next s1 =>
            if s1.last ≠ .retired then .next s1
            else match exec y s1 with
              | .next s2 =>
                if s2.last = .retired then .next s2
                else match exec y (unwait s) with
                  | .next s3 =>
                    if s3.last ≠ .retired then .next (namesWord s s3 second)
                    else match issuer s with
                      | some (w, g) => .next (stopped s w g 0 (.wait .retry))
                      | none => .next s3
                  | r => r
              | r => r
          | r => r
  | some _, none => exec (.illegalInstruction second) s
  | none, _ => exec (.illegalInstruction first) s

/-- The issuing unit enters its line if it is not inside one, and issues the word of its slot. -/
def issue (s : State) : Host.Outcome State Fault Refusal :=
  let entered : Host.Outcome State Fault Refusal := match unitPlace s with
    | some (_, .inside _, _) => .next { s with last := .retired }
    | _ => exec .lineEntry s
  match entered with
  | .next s1 =>
    if s1.last ≠ .retired then .next s1
    else match unitPlace s1 with
      | some (k, .inside l, pc) =>
        if k = .execute ∧ (linePairs l).contains (pc % 5) = true then
          issuePair s1 (slotWord l (pc % 5)) (slotWord l (pc % 5 + 1))
        else issueOne s1 k (slotWord l (pc % 5))
      | _ => .next s1
  | r => r

/-! ### What may move -/

/-- Events that a unit or a timer raises, other than those that `Instr` names among its first rows. -/
inductive Late where
  | detach (warp slice : Nat)
  | aging (launch : Nat)
  | swap (core quad : Nat)
  | growDeadlock (core : Nat)
  | window (chan : Nat)
  | replay (port vc seq : Nat)
  | resend (id : Nat)
  | bound (query : Nat)
  | profile (die : Nat)
  | matrixReset (pair : Nat)
  | holding (die set : Nat)
  | served (chan : Nat)
  | rowEnd (chan : Nat)
  | watchdog (pair : Nat)
  | merge (k : Contribution)
  | peerTimeout (peer : Nat)
deriving DecidableEq, Repr

/-- Their meanings. -/
def Late.exec : Late → State → Host.Outcome State Fault Refusal
  | .detach warp slice, s => execFragmentDetach warp slice s
  | .aging launch, s => execAgingReserve launch s
  | .swap core quad, s => execPendingWarpSwap core quad s
  | .growDeadlock core, s => execGrowDeadlockDetect core s
  | .window chan, s => execArbitrationWindowExpiry chan s
  | .replay port vc seq, s => execSohornReplayTimeout port vc seq s
  | .resend id, s => execKmergeResendTimer id s
  | .bound query, s => execBoundBroadcast query s
  | .profile die, s => execProfileChangeEffect die s
  | .matrixReset pair, s => execMatrixResetComplete pair s
  | .holding die set, s => execHoldingStoreRetry die set s
  | .served chan, s => execChannelAccessServed chan s
  | .rowEnd chan, s => execRowStepEnd chan s
  | .watchdog pair, s => execWatchdogReset pair s
  | .merge k, s => execKmergeContributionArrive k s
  | .peerTimeout peer, s => execPeerAckTimeout peer s

/-- What may move next: an input, an event, a PC group of a warp, or another unit. -/
inductive Mover where
  | input (n : Nat)
  | event (i : Instr)
  | late (l : Late)
  | group (warp : Nat) (slices : BitVec 8)
  | unit (a : Agent)
deriving DecidableEq, Repr

/-- Inputs with one key are performed in the order in which they arrived; none for what is no input (log 1). -/
def inputKey : Instr → Option (Nat × Nat)
  | .invalidate c _ _ | .faultDone c _ _ | .counterSet c _ _ | .preemptBlock c _ _ | .switchOut c _ _ | .switchIn c _ _
  | .restartAfterHalt c _ _ | .bindQueue c _ _ | .unbindQueue c _ _ | .contextMeasurementReport c _ _ => some (1, c)
  | .doorbellWrite q _ => some (2, q)
  | .hostRdmaWrite q _ _ _ | .hostRdmaRead q _ _ _ | .hostRdmaAtomic q _ _ | .congestionNotification q => some (3, q)
  | .readRegister q | .writeRegister q | .lgrpWrite q | .lgrpstatWrite q | .profileWrite q | .treeWrite q | .createContext q
  | .destroyContext q | .registerMemoryKey q | .revokeMemoryKey q | .registerCellGranule q | .unregisterCellGranule q
  | .measurementReport q | .setOperatorKey q | .resetMatrixEngine q | .unknownOp q => some (4, q.conn)
  | .managementConnect c _ => some (4, c)
  | .sohornAck port vc _ | .sohornNak port vc _ | .creditReturn port vc _ => some (5, 8 * port + vc)
  | .peerRequestArrive q => some (6, q.peer)
  | .peerResponseArrive id _ _ => some (7, id)
  | .remoteEnqueueArrive p _ _ _ _ | .remoteReservationArrive p _ _ _ _ => some (8, p)
  | .kmergeContributionArrive k => k.sender.map fun p => (9, p)
  | .priorityFlowControlPause port prio _ => some (10, 8 * port + prio)
  | .channelAccessArrive chan _ => some (11, chan)
  | .machineCheck _ pa _ _ => some (12, pa)
  | .governorRedistribute die _ => some (13, die)
  | .dieTemperatureThreshold die _ => some (14, die)
  | .overtempReset | .deviceBoot _ => some (15, 0)
  | _ => none

/-- The inputs that may be performed next: each the first of its key. -/
def inputMovers (s : State) : List Mover :=
  let keys := s.inputs.map inputKey
  (List.range keys.length).filterMap fun n =>
    match keys.getD n none with
    | some k => if (keys.take n).contains (some k) then none else some (.input n)
    | none => none

/-- The active places of a quadrant whose next word can issue, with their groups. -/
def readyPlaces (s : State) (os : List Occupant) : List (Occupant × Group) :=
  os.filterMap fun o => if o.place.active then (o.next s).map fun g => (o, g) else none

/-- The first of two to have come to the core: dispatched earlier, then of the lower block, then the lower warp. -/
def longer (s : State) (a b : Occupant) : Bool :=
  let blk : Warp → Nat := fun w => ((findBlock s w.block).map (·.idx)).getD 0
  if a.warp.age ≠ b.warp.age then a.warp.age < b.warp.age
  else if blk a.warp ≠ blk b.warp then blk a.warp < blk b.warp
  else a.warp.idx < b.warp.idx

/-- Who issues in a quadrant (16/R386): the one that issued last, as long as its next word can issue; otherwise of those that are
ready the one that has been resident longest. A word cannot issue while its banks are busy (06/R115). -/
def quadTurn (s : State) (os : List Occupant) : Option (Occupant × Group) :=
  match readyPlaces s os with
  | [] => none
  | [c] => some c
  | cs =>
    let latest := os.foldl (fun m o => max m o.place.lastIssue) 0
    let free := cs.filter fun c => !Config.bankBusy s.choice c.1.warp.id
    match free.find? fun c => c.1.place.lastIssue == latest && latest != 0 with
    | some c => some c
    | none => free.foldl (fun r c => match r with
        | none => some c
        | some x => if longer s c.1 x.1 then some c else some x) none

/-- The occupants of each quadrant, warps whose units do not run left out. -/
def quadrants (s : State) : List (List Occupant) :=
  let ws := s.warps.filter (unitsRun s)
  ((ws.map fun w => (w.core, w.quad)).eraseDups).map fun q => occupants (ws.filter fun w => w.core == q.1 && w.quad == q.2)

def groupMover (c : Occupant × Group) : Mover := .group c.1.warp.id c.2.slices

/-- The PC groups that may issue: one in each quadrant. -/
def groupMovers (s : State) : List Mover := (quadrants s).filterMap fun os => (quadTurn s os).map groupMover

/-- A waiting unit may be chosen: it tries its instruction again. -/
def Wait.polled : Wait → Bool
  | .retry | .stall | .migrate => true
  | _ => false

/-- The access slice has an instruction ready. -/
def accessReady (s : State) (w : Warp) : Bool :=
  w.acc.st == .running && unitsRun s w && (match w.acc.wait with | .none => true | x => x.polled && w.acc.ready)

/-- Warps of a core in turns (log 52): those after the one named, then the others. -/
def inTurn (ws : List Warp) (last : Nat) : List Warp :=
  let sorted := sortBy (fun (a b : Warp) => a.id ≤ b.id) ws
  sorted.filter (last < ·.id) ++ sorted.filter (·.id ≤ last)

/-- Each core's access processor takes the warps with a ready access instruction in turns (06/R131). -/
def accessMovers (s : State) : List Mover :=
  let ws := s.warps.filter (accessReady s)
  ((ws.map (·.core)).eraseDups).filterMap fun core =>
    (inTurn (ws.filter (·.core == core)) (tabGet 0 s.accTurn core)).head?.map fun w => .unit (.access w.id)

/-- The other units that may issue. -/
def unitMovers (s : State) : List Mover :=
  accessMovers s
    ++ (s.walkers.filter fun w => (findQuery s w.query).all fun q => ctxRuns s q.ctx).map (fun w => .unit (.walker w.id))
    ++ (s.insts.filter fun i => i.started && !i.inStep && !i.suspended && ctxRuns s i.ctx).map (fun i => .unit (.bank i.id))

def sameState (s t : State) : Bool := s == t

/-- An outcome that changes the state. An event that would change nothing is not performed. -/
def changes (s : State) : Host.Outcome State Fault Refusal → Bool
  | .next t => !sameState t s
  | _ => true

/-- The entry that a core's stream units issue next: warps in turns, and of a warp its queues in turns (10/R240, R242). -/
def streamTurn (s : State) (core : Nat) (ws : List Warp) : Option Instr :=
  let all := (inTurn (ws.filter (·.core == core)) (tabGet 0 s.strTurn core)).flatMap fun w =>
    ((List.range 8).map fun i => (w.strQueue + 1 + i) % 8).filterMap fun n =>
      if canStream s w n then some (Instr.streamEntryIssue w.id n) else none
  all.find? fun i => changes s (exec i s)

def streamTurns (s : State) : List Instr :=
  let ws := s.warps.filter fun w => (List.range 8).any (canStream s w)
  ((ws.map (·.core)).eraseDups).filterMap fun core => streamTurn s core ws

/-- Events that warps, launches and the quadrants may raise. -/
def schedulerEvents (s : State) : List Instr :=
  List.flatten [
    s.warps.flatMap (fun w =>
      (if w.groups = [] then [.warpEnd w.id] else [])
        ++ (match w.acc.st with | .trapped _ _ => [.accessTrapDeliver w.id] | _ => [])
        ++ ((List.range 8).filter fun n => (queueAt w n).stream.flight != []).map (fun n => .streamEntryPush w.id n)),
    streamTurns s,
    s.launches.flatMap (fun l =>
      (if hasWork s l then [.blockDispatch l.id] else []) ++ (if launchDone s l then [.launchComplete l.id] else [])),
    s.queues.map (fun h => .recordAccept h.num),
    (s.growWait.filterMap (fun g => (findWarp s g.warp).map fun w => (w.core, w.quad))).eraseDups.map (fun q => .growGrant q.1 q.2),
    ((List.range 4).filter fun d => (getDie s d).waiting != []).map (fun d => .permitGrant d)]

/-- Events that memory, the engines and the near-bank units may raise. -/
def engineEvents (s : State) : List Instr :=
  List.flatten [
    s.ctxs.flatMap (fun c => (c.seals.filter (!·.complete)).map fun l => .sealComplete c.slot l.handle),
    s.outs.map (fun o => .memoryResponse o.id),
    s.cellOps.map (fun o => .cellOpAtHome o.id),
    s.cmds.flatMap (fun k => [.copyEngineFault k.id, .copyCommandComplete k.id, .checkinComplete k.id]),
    s.pieces.map (fun p => .checkoutPieceGrant p.id),
    s.ops.flatMap (fun o => [.matrixOpStart o.id, .matrixSecondPass o.id, .matrixOpComplete o.id, .drainComplete o.id]),
    s.scaleReqs.map (fun r => .scaleRecordFetch r.id),
    s.deliveries.map (fun d => .engineCompletionDelivery d.id),
    s.rsvWaits.map (fun r => .rsvGrant r.id),
    s.packets.map (fun p => .enqDelivery p.id),
    s.queries.flatMap (fun q => [.queryInstall q.id, .searchEnd q.id]),
    s.msgs.map (fun m => .walkerMessageArrive m.id),
    s.pushes.map (fun p => .heapPushArrive p.id),
    s.insts.map (fun i => .nbInstanceStart i.id),
    (if s.commits = [] then [] else [.compatWritebackCommit]),
    (if s.fillQueue = [] then [] else [.layoutFillDone])]

/-- Quadrants with a pending warp or fragment. -/
def pendingQuads (s : State) : List (Nat × Nat) :=
  ((s.warps.filter fun w => w.resident && (quadPlaces [w]).any fun x => !x.active).map fun w => (w.core, w.quad)).eraseDups

/-- The events with meanings of their own in `Late`. -/
def lateEvents (s : State) : List Late :=
  List.flatten [
    (s.warps.filter fun w => 1 < w.groups.length).flatMap (fun w => (List.range 8).map fun j => .detach w.id j),
    (s.launches.filter (hasWork s)).map (fun l => .aging l.id),
    (pendingQuads s).map (fun q => .swap q.1 q.2),
    (s.growWait.filterMap (fun g => (findWarp s g.warp).map (·.core))).eraseDups.map (fun c => .growDeadlock c),
    s.chans.flatMap (fun c => [.window c.chan, .served c.chan]),
    (s.insts.filter (·.inStep)).map (fun i => .rowEnd i.chan),
    s.hops.flatMap (fun h => h.buffer.map fun p => .replay h.port h.vc p.seq),
    (s.hops.flatMap (fun h => h.buffer.filterMap fun p => packetPeer p.body)).eraseDups.map (fun p => .peerTimeout p),
    s.resends.map (fun r => .resend r.id),
    s.kmflight.map (fun f => .merge f.k),
    s.queries.map (fun q => .bound q.id),
    ((List.range 4).filter fun d => (getDie s d).profile != s.profile).map (fun d => .profile d),
    (s.pairs.filter (·.2.resetting)).map (fun p => .matrixReset p.1),
    (s.ops.map (·.pair)).eraseDups.map (fun p => .watchdog p),
    s.sets.map (fun t => .holding t.die t.num)]

def movers (s : State) : List Mover :=
  inputMovers s ++ groupMovers s ++ unitMovers s
    ++ ((schedulerEvents s ++ engineEvents s).filter fun i => changes s (exec i s)).map (fun i => .event i)
    ++ ((lateEvents s).filter fun l => changes s (l.exec s)).map (fun l => .late l)

/-- A warp that could have issued for longer than the device lets it wait: the one that has waited longest (06/R123). -/
def overdue (s : State) (rs : List (Occupant × Group)) : Option Mover :=
  let late := rs.filter fun r => r.1.place.since + Config.patience ≤ s.choice
  (late.foldl (fun r c => match r with
    | none => some c
    | some x => if c.1.place.since < x.1.place.since then some c else some x) none).map groupMover

/-- The mover chosen: the only one; a warp that is overdue; or a free choice. -/
def chosen (s : State) : Option Mover :=
  match movers s, (quadrants s).flatMap (readyPlaces s) with
  | [], [] => none
  | [m], [] => some m
  | [m], [_] => some m
  | ms, rs => match overdue s rs with
    | some m => some m
    | none => ms[Config.pick s.choice % ms.length]?

/-! ### A move -/

/-- No unit issues between steps. -/
def quiet (s : State) : State := { s with cur := .none, view := none, popped := [] }

/-- A PC group of a warp runs; one that is not a fragment becomes the running group (06/R121-R122). What it yielded before is
over. -/
def runGroup (s : State) (id : Nat) (slices : BitVec 8) : State :=
  match findWarp s id with
  | some w =>
    let w := match w.groups.find? fun g => g.slices == slices && g.frag.isSome with
      | some g => w.setGroup { g with frag := g.frag.map fun (x : Place) => { x with yields := false } }
      | none => { w with place := { w.place with yields := false } }
    { setWarp s { w with runs := slices } with cur := .execute id }
  | none => s

/-- After an issue: the latest issue of the place is noted, and a fragment leaves the running group as it was. -/
def afterGroup (s t : State) (id : Nat) (slices : BitVec 8) : State :=
  match findWarp s id, findWarp t id with
  | some old, some w =>
    let frag := (old.groups.find? (·.slices == slices)).any (·.frag.isSome)
    let runs := if frag && w.groups.any (·.slices == old.runs) then old.runs else w.runs
    let note := fun (x : Place) => if t.last = .waited then x else { x with lastIssue := s.choice + 1, since := s.choice + 1 }
    let mine := fun (g : Group) => g.slices &&& slices != 0
    if frag then setWarp t { w with runs, groups := updWhere mine (fun g => { g with frag := g.frag.map note }) w.groups }
    else setWarp t { w with runs, place := note w.place }
  | _, _ => t

/-! ### Time (log 8) -/

/-- The clocks of the cores that have run and of those that hold warps advance. -/
def coreClocks (s : State) : Tab Nat :=
  let by_ := fun (core : Nat) => Config.elapsed (2 * (s.choice * 385 + core) + 1)
  let new := ((s.warps.map (·.core)).eraseDups).filter fun c => !s.coreClk.any (·.1 == c)
  new.foldl (fun t c => tabSet 0 t c (by_ c)) (s.coreClk.map fun p => (p.1, p.2 + by_ p.1))

/-- The counts advance by free amounts: the device timestamp, the clocks of the cores and that of the dispatcher. -/
def count (s : State) : State :=
  { s with
    now := s.now + Config.elapsed (2 * s.choice)
    clk := s.clk + Config.elapsed (2 * (s.choice * 385 + 384) + 1)
    coreClk := coreClocks s
    choice := s.choice + 1 }

/-- An issue goes on: it does more than wait. -/
def goesOn (s : State) : Bool :=
  match issue s with
  | .next t => t.last ≠ .waited || !sameState (quiet { t with last := s.last }) (quiet s)
  | _ => true

/-- Units that wait at an instruction that they try again are ready when it would go on now. -/
def lookAgain (s : State) : State :=
  let group := fun (w : Warp) (g : Group) => if g.wait.polled then { g with ready := goesOn (runGroup s w.id g.slices) } else g
  let acc := fun (w : Warp) =>
    if w.acc.wait.polled then { w.acc with ready := goesOn { s with cur := .access w.id } } else w.acc
  { s with warps := s.warps.map fun w => { w with groups := w.groups.map (group w), acc := acc w } }

/-- A place whose next word cannot issue counts its age from now (16/R385). -/
def ageWarp (s : State) (w : Warp) : Warp :=
  let age := fun (o : Occupant) (x : Place) =>
    if (o.next s).isSome then x else { x with readySince := tabGet 0 s.coreClk w.core, since := s.choice }
  { w with place := age ⟨w, none⟩ w.place, groups := w.groups.map fun g => { g with frag := g.frag.map (age ⟨w, some g⟩) } }

/-- A pending warp that has been ready for 4,096 clk takes a place now (06/R123). -/
def pressSwaps (s : State) : State :=
  (pendingQuads s).foldl (fun s q =>
    let clk := tabGet 0 s.coreClk q.1
    let due := (occupants (quadResidents s q.1 q.2)).any fun o =>
      !o.place.active && (o.next s).isSome && o.place.readySince + 4096 ≤ clk
    if due then (match execPendingWarpSwap q.1 q.2 s with | .next t => t | _ => s) else s) s

/-- Time passes. -/
def tick (s : State) : State :=
  let s1 := lookAgain (count s)
  pressSwaps { s1 with warps := s1.warps.map (ageWarp s1) }

/-- An outcome with its next state changed. -/
def onNext (f : State → State) : Host.Outcome State Fault Refusal → Host.Outcome State Fault Refusal
  | .next s => .next (f s)
  | .fault r => .fault r
  | .refused r => .refused r

/-- The access processor of a warp's core has taken its turn (06/R131). -/
def accessTurn (s : State) (a : Agent) : State :=
  match a with
  | .access id => match findWarp s id with
    | some w => { s with accTurn := tabSet 0 s.accTurn w.core id }
    | none => s
  | _ => s

/-- One move. An input that could not complete goes back to its place. -/
def move (s : State) : Mover → Host.Outcome State Fault Refusal
  | .input n =>
    match s.inputs[n]? with
    | none => .next s
    | some i =>
      onNext (fun t => if t.deferred then { t with inputs := t.inputs.take n ++ i :: t.inputs.drop n, deferred := false } else t)
        (exec i { s with inputs := s.inputs.eraseIdx n, deferred := false })
  | .event i => onNext (fun t => { t with deferred := false }) (exec i s)
  | .late l => onNext (fun t => { t with deferred := false }) (l.exec s)
  | .group id slices => onNext (fun t => quiet (afterGroup s t id slices)) (issue (runGroup s id slices))
  | .unit a => onNext (fun t => accessTurn (quiet t) a) (issue { s with cur := a })

/-- One step of the package: one mover moves and time passes. -/
def advance (s : State) : Host.Outcome State Fault Refusal :=
  match chosen s with
  | none => .next (tick s)
  | some m => onNext tick (move s m)

end Sys2Proof.Machine
end

