-- ==== Sys2Proof/Machine/Loading.lean ====
section
/-! DEFINITION. A word put where the package issues its next instruction (log 6): the package runs no program until the host
has made a context and a launch, so the loader stands for what the host does. -/

namespace Sys2Proof.Machine

/-- The package with nothing under way: no context, launch, unit or message. Memory, caches, platform and the model's own
counters are as they were. -/
def halted (s : State) : State :=
  { s with
    ctxs := [], queues := [], launches := [], blocks := [], bars := [], deliveries := [], warps := [], growWait := []
    outs := [], cellOps := [], scaleReqs := [], pairs := [], savedPairs := [], ops := [], cmds := [], pieces := [], nbcmds := []
    insts := [], chans := [], queries := [], walkers := [], msgs := [], pushes := [], sets := [], held := [], retries := []
    rsvWaits := [], packets := [], kmcmds := [], kmflight := [], resends := [], peerOuts := [], unitGot := [], hops := []
    fillQueue := [], inputs := [], hb := [], rels := [], owed := [], spadRel := [], spadSeen := [], quadTlb := [], coreTlb := [], walkCache := [], queueLeft := []
    fused := [], fbuf := [], accTurn := [], strTurn := []
    dies := tabMap {} 4 (fun (d : Die) => { d with waiting := [], profile := s.profile, above := false }) s.dies
    deferred := false, cur := .none, view := none, popped := [] }

/-- VA, and PA, of the line that holds the word. -/
def loadVa : Nat := 0x10000

/-- The context of the load: VAs 0 to 1 GiB are the PAs of the same number with every permission; its fault queue lies at
0x20000. -/
def loadCtx0 (s : State) : Ctx :=
  { slot := 0, cfg := 0, root := 0, rng := 0, fltq := 0x20000
    ranges := [{ w0 := 1, w1 := 0x3FFFF000, w2 := 0, w3 := BitVec.ofNat 64 (7 + 8 * layoutOf s 0) }] }

/-- The line: the word in slot 0, the flags that its CF needs, and every slot a branch target (08/R165). -/
def placedLine (word : W96) : FetchLine :=
  let set : Nat := match bits word 13 12 with
    | 1 => 2 ^ 16
    | 2 => 2 ^ 21
    | _ => 0
  mkLine word 0 0 0 0 (BitVec.ofNat 30 (31 * 2 ^ 22 + set))

/-- The stream whose opcodes hold a word's (08/R186). -/
def streamOf (word : W96) : StreamKind :=
  let opc := bits word 7 0
  if 0x87 ≤ opc ∧ opc ≤ 0x8D then .access
  else if 0xC0 ≤ opc ∧ opc ≤ 0xDF then .walker
  else if 0xE0 ≤ opc ∧ opc ≤ 0xEF then .bank
  else .execute

/-- A launch of one block, one warp of it at the line; in a pair-block, with a quad, for a matrix word. For a word of the access slice the
execute slice waits for flag 0. -/
def loadWarp (s : State) (word : W96) : State :=
  let n := s.nextId
  let acc := streamOf word = .access
  let pair : Bool := bits word 7 4 = 9
  let pc := loadVa / 64 * 5
  { s with
    launches := [{ id := n, ctx := 0, queue := none, grid := 1
                   kernel := { entry := pc, pair, scr := 65536, maxLimit := 256, access := if acc then some pc else none }
                   cls := 0, nwarp := if pair then 4 else 1, nblk := 1, next := 1, ready := true }]
    blocks := [{ id := n + 1, launch := n, ctx := 0, idx := 0, core := 0, pair, scr := 65536 }]
    warps := [{
      id := n + 2, block := n + 1, ctx := 0, idx := 0, core := 0, quad := 0, limit := 256
      slices := tabFill { active := 0 } 8 { active := 15 }
      groups := [{ slices := 255, pc := if acc then 0 else pc, wait := if acc then .flags 1 else .none }]
      f := if acc then [(0, 1)] else []
      acc := if acc then { st := .running, pc } else {}
      runs := 255 }]
    nextId := n + 3 }

/-- A search whose program is the line, with one walker at its start. -/
def loadWalker (s : State) (l : FetchLine) : State :=
  let n := s.nextId
  let pc := loadVa / 64 * 5
  { s with
    queries := [{ id := n, ctx := 0, warp := 0, block := 0, core := 0, flag := none, noprune := false, qva := 0, qpas := [], dva := 0
                  dpas := [], k := 1, snap := 0, resva := 0, rpas := [0], owner := .warp 0, bar := 0, prog := pc
                  budget := 2 ^ 32 - 1, word2 := 0, ids := 0, permit := .held, installed := true, lines := [l], linePas := [loadVa] }]
    walkers := [{ id := n + 1, query := n, base := 0, pc }]
    nextId := n + 2 }

/-- A near-bank command whose program is the line, with one started instance over the frame at PA 0. -/
def loadBank (s : State) (l : FetchLine) : State :=
  let n := s.nextId
  let pc := loadVa / 64 * 5
  { s with
    nbcmds := [{ id := n, ctx := 0, warp := 0, block := 0, core := 0, flag := none, bar := some (.warp 0, 0), prog := pc, loops := 1
                 va := 0, frames := 1, ids := 0, permit := .held }]
    insts := [{ id := n + 1, cmd := n, ctx := 0, chan := 0, pages := (List.range 512).map (· * 4096), frameIdx := 0
                started := true, lines := [l], linePas := [loadVa], pc }]
    nextId := n + 2 }

/-- The state in which the next step issues the word. -/
def loadWord (s : State) (word : W96) : State :=
  let h := halted (commitAll s.commits.length s)
  let s0 := { h with poison := s.poison.filter (· != loadVa), counts := tabSet 0 h.counts (loadVa / 256) 0 }
  let l := placedLine word
  let s1 := homePut { s0 with ctxs := [loadCtx0 s0] } loadVa (toBytes 64 l.toNat)
  match streamOf word with
  | .walker => loadWalker s1 l
  | .bank => loadBank s1 l
  | _ => loadWarp s1 word

end Sys2Proof.Machine
end

