-- ==== Sys2Proof/Machine/Step.lean ====
section
/-! DEFINITION. One step of the package, and the placing of a word where it issues next. -/

namespace Sys2Proof.Machine

/-- One step: one input, event or unit moves, and time passes (log 1). -/
def step (s : State) : Host.Outcome State Fault Refusal := advance s

/-- The word put where the next step issues its instruction (log 6). -/
def State.withFetchWord (s : State) (nbits w : Nat) : State := loadWord s (BitVec.ofNat 96 (w % 2 ^ nbits))

end Sys2Proof.Machine
end

