-- ==== Sys2Proof/Safety.lean ====
section
/-! DEFINITION. What a safe run is: runs of the package, and the invariant of the state as plain data. -/

namespace Sys2Proof

open Machine

/-- A state from which the package goes on. -/
def SafeState (s : State) : Prop := ∃ t, step s = .next t

/-- `n` steps lead from one state to another. -/
def StepsTo : Nat → State → State → Prop
  | 0, s, t => s = t
  | n + 1, s, t => ∃ u, step s = .next u ∧ StepsTo n u t

/-- A run is safe when every state it reaches goes on: no step ends in the model's own fault or refusal. -/
def SafeRun (s : State) : Prop := ∀ n t, StepsTo n s t → SafeState t

end Sys2Proof
end

