-- ==== Sys2Proof/Certificates/Slice0/Obligations.lean ====
section
/-! DEFINITION. The statements for the provers, and the words they are written in. A statement about an instruction gives the
whole next state: what the instruction writes, and that everything else is as it was. -/

namespace Sys2Proof.Spec

open Machine

/-! ### The issuing group -/

/-- Group `g` of warp `w` issues, and the queues that the word names can be popped. Inside a pair the registers read are those
of `sourceOf` (08/R181). -/
def Issues (s : State) (w : Warp) (g : Group) (f : Fields) : Prop :=
  issuer s = some (w, g) ∧ popCheck (sourceOf s w) w g (queuesOf f) = .ok ()

/-- The state after the pops of the word. -/
def popped (s : State) (w : Warp) (f : Fields) : State := (popAll s w (queuesOf f)).1

/-- The warp after the pops, its registers as read, the active lanes of the group and those that the predicate enables. -/
def exeOf (s : State) (w : Warp) (g : Group) (f : Fields) : Exe :=
  { w := (popAll s w (queuesOf f)).2, src := sourceOf s w, g, act := groupLanes w g
    en := groupLanes w g &&& predicate (sourceOf s w) f }

/-- The instruction retires: its group moves to the next slot, the warp is otherwise `w'`, and the rest of the package is the
state `base`. -/
def Retires (o : Host.Outcome State Fault Refusal) (base : State) (w' : Warp) (g : Group) : Prop :=
  o = .next { setWarp base (w'.setGroup g.next) with last := .retired }

/-! ### Destinations (06/R115-R116, 11/R245-R246) -/

/-- Only s-registers of a slice differ (and the model's own count of their writes). -/
def OnlyS (x y : Slice) : Prop := y = { x with s := y.s, clock := y.clock, stamp := y.stamp }

/-- The lanes of vD that are enabled receive values with the property `R`; every other lane, register and unit is unchanged. -/
def WritesV (o : Host.Outcome State Fault Refusal) (s : State) (w : Warp) (g : Group) (f : Fields) (R : Nat → W32 → Prop) : Prop :=
  let x := exeOf s w g f
  ∃ w' : Warp, Retires o (popped s w f) w' g ∧
    (∀ L < 32, if bit x.en L then R L (lane (w'.readV f.d.toNat) L) else lane (w'.readV f.d.toNat) L = lane (w.readV f.d.toNat) L) ∧
    (∀ r, r ≠ f.d.toNat → w'.readV r = w.readV r) ∧
    w' = { x.w with v := w'.v, vclock := w'.vclock, vstamp := w'.vstamp }

/-- sD of the slices with an enabled lane receives values with the property `R`; s0 discards them; nothing else changes of the
warp. The rest of the package is `base`. -/
def WritesSOver (base : State) (o : Host.Outcome State Fault Refusal) (s : State) (w : Warp) (g : Group) (f : Fields)
    (R : Nat → W64 → Prop) : Prop :=
  let x := exeOf s w g f
  ∃ w' : Warp, Retires o base w' g ∧
    (∀ j < 8, f.d ≠ 0 → if x.slices.contains j then R j (w'.readS j f.d.toNat) else w'.readS j f.d.toNat = w.readS j f.d.toNat) ∧
    (∀ j r, r ≠ f.d.toNat ∨ r = 0 → w'.readS j r = w.readS j r) ∧
    (∀ j, OnlyS (w.slice j) (w'.slice j)) ∧
    w' = { x.w with slices := w'.slices }

/-- The same, where the rest of the package changes only as the pops change it. -/
def WritesS (o : Host.Outcome State Fault Refusal) (s : State) (w : Warp) (g : Group) (f : Fields) (R : Nat → W64 → Prop) : Prop :=
  WritesSOver (popped s w f) o s w g f R

/-- The bits of kD of the enabled lanes; every other bit and register is unchanged (11/R246). -/
def WritesK (o : Host.Outcome State Fault Refusal) (s : State) (w : Warp) (g : Group) (f : Fields) (R : Nat → Bool) : Prop :=
  let x := exeOf s w g f
  ∃ w' : Warp, Retires o (popped s w f) w' g ∧
    (∀ L < 32, bit (w'.readK f.d.toNat) L = if bit x.en L then R L else bit (w.readK f.d.toNat) L) ∧
    (∀ r, r ≠ f.d.toNat → w'.readK r = w.readK r) ∧
    w' = { x.w with k := w'.k }

/-- cD of the slices with an enabled lane; nothing else changes. -/
def WritesCOver (base : State) (o : Host.Outcome State Fault Refusal) (s : State) (w : Warp) (g : Group) (f : Fields) (R : Nat → Cond) : Prop :=
  let x := exeOf s w g f
  ∃ w' : Warp, Retires o base w' g ∧
    (∀ j < 8, (w'.slice j).readC f.d.toNat = if x.slices.contains j then R j else (w.slice j).readC f.d.toNat) ∧
    (∀ j r, r ≠ f.d.toNat → (w'.slice j).readC r = (w.slice j).readC r) ∧
    (∀ j, w'.slice j = { w.slice j with c := (w'.slice j).c }) ∧
    w' = { x.w with slices := w'.slices }

/-- The same, where the rest of the package changes only as the pops change it. -/
def WritesC (o : Host.Outcome State Fault Refusal) (s : State) (w : Warp) (g : Group) (f : Fields) (R : Nat → Cond) : Prop :=
  WritesCOver (popped s w f) o s w g f R

/-- A computing instruction: the vector form with a 32-bit type, and the scalar form on the low bits of the s-registers, with
the result zero-extended (11/R245, 12/R265). `op` is the result in the type's width from operands A and B, the C register and
the old destination. LANEID in a scalar form is the model's free value, which `usedLaneless` takes (log 71). -/
def Computes (i : Instr) (s : State) (w : Warp) (g : Group) (f : Fields)
    (op : (n : Nat) → BitVec n → BitVec n → BitVec n → BitVec n → BitVec n → Prop) : Prop :=
  let x := exeOf s w g f
  (f.sc = false → tyWidth f.ty = 32 →
    WritesV (exec i s) s w g f fun L y =>
      op 32 (laneA s x f L) (laneB s x f L) (lane (x.src.readV f.c.toNat) L) (lane (x.src.readV f.d.toNat) L) y) ∧
  (f.sc = true →
    WritesSOver (usedLaneless (popped s w f) f) (exec i s) s w g f fun j y =>
      y = (y.setWidth (tyWidth f.ty)).setWidth 64 ∧
      op (tyWidth f.ty) ((sliceA s x f j).setWidth _) ((sliceB s x f j).setWidth _) ((x.src.readS j f.c.toNat).setWidth _)
        ((x.src.readS j f.d.toNat).setWidth _) (y.setWidth _))

/-! ### Integer elements (11/R256) -/

/-- The exact result kept to its low bits, or clamped with `.sat`. -/
def narrow (signed sat : Bool) (w : Nat) (r : Int) : BitVec w :=
  let lo : Int := if signed then -(2 ^ (w - 1)) else 0
  let hi : Int := (if signed then 2 ^ (w - 1) else 2 ^ w) - 1
  BitVec.ofInt w (if sat then max lo (min hi r) else r)

/-- Element `i` of a value as the type reads it. -/
def element (ty : Ty) {n : Nat} (x : BitVec n) (i : Nat) : Int :=
  let w := (tyShape ty).2.1
  if (tyShape ty).2.2 then (x.extractLsb' (w * i) w).toInt else (x.extractLsb' (w * i) w).toNat

/-- Every element of the result is the exact result of its elements, narrowed. -/
def Elementwise (f : Fields) (op : Int → Int → Int → Int) (n : Nat) (a b c _d y : BitVec n) : Prop :=
  let w := (tyShape f.ty).2.1
  ∀ i < (tyShape f.ty).1,
    y.extractLsb' (w * i) w = narrow (tyShape f.ty).2.2 (bit f.md 2) w (op (element f.ty a i) (element f.ty b i) (element f.ty c i))

end Sys2Proof.Spec

open Sys2Proof Sys2Proof.Machine Sys2Proof.Spec

/-- R256: integer arithmetic, element by element, exact and then kept to its low bits or clamped with `.sat`. -/
def Obligations.IntegerArithmetic : Prop :=
  ∀ s w g f, Issues s w g f →
    let R := fun i op => Computes i s w g f (Elementwise f op)
    R (.iadd f) (fun x y _ => x + y) ∧
    R (.isub f) (fun x y _ => x - y) ∧
    R (.imul f) (fun x y _ => x * y) ∧
    R (.imulh f) (fun x y _ => x * y / 2 ^ tyWidth f.ty) ∧
    R (.imad f) (fun x y z => x * y + z) ∧
    R (.imin f) (fun x y _ => min x y) ∧
    R (.imax f) (fun x y _ => max x y) ∧
    R (.iabs f) (fun x _ _ => x.natAbs) ∧
    R (.ineg f) (fun x _ _ => -x) ∧
    R (.lea f) (fun x y _ => x + y * 2 ^ f.sub.toNat)

/-- R257: shifts and rotations by opB[7:0]; shifts of the width or more give zeros or copies of the top bit, rotations take the
amount modulo the width. -/
def Obligations.ShiftsAndRotates : Prop :=
  ∀ s w g f, Issues s w g f →
    let R := fun i (h : (n : Nat) → BitVec n → Nat → BitVec n) => Computes i s w g f fun n a b _ _ y => y = h n a (b.toNat % 256)
    R (.shl f) (fun n a k => if n ≤ k then 0 else a <<< k) ∧
    R (.shr f) (fun n a k => if n ≤ k then 0 else a >>> k) ∧
    R (.sar f) (fun n a k => if n ≤ k then (if a.msb then BitVec.allOnes n else 0) else a.sshiftRight k) ∧
    R (.rot f) (fun _ a k => a.rotateLeft k) ∧
    R (.rotR f) (fun _ a k => a.rotateRight k)

namespace Sys2Proof.Spec

/-- The bit field of R258: its offset and its top bit, cut at the width; none when the width given is zero or the offset lies
at or beyond the type's width. -/
def field (n : Nat) (b : BitVec n) : Option (Nat × Nat) :=
  let off := b.toNat % 256
  let len := b.toNat / 256 % 256
  if len = 0 ∨ n ≤ off then none else some (off, min (off + len) n - 1)

end Sys2Proof.Spec

/-- R258: `bfx`, `bfxs` and `bfi`. -/
def Obligations.BitFields : Prop :=
  ∀ s w g f, Issues s w g f →
    (Computes (.bfx f) s w g f fun n a b _ _ y => match field n b with
      | none => y = 0
      | some (off, top) => y = (a.extractLsb' off (top + 1 - off)).setWidth n) ∧
    (Computes (.bfxs f) s w g f fun n a b _ _ y => match field n b with
      | none => y = 0
      | some (off, top) => y = (a.extractLsb' off (top + 1 - off)).signExtend n) ∧
    (Computes (.bfi f) s w g f fun n a b _ d y => match field n b with
      | none => y = d
      | some (off, top) => ∀ i < n, y.getLsbD i = if off ≤ i ∧ i ≤ top then a.getLsbD (i - off) else d.getLsbD i)

/-- R256: the bitwise operations, the counts and the reversal. -/
def Obligations.BitwiseAndCounts : Prop :=
  ∀ s w g f, Issues s w g f →
    (Computes (.and f) s w g f fun _ a b _ _ y => y = a &&& b) ∧
    (Computes (.or f) s w g f fun _ a b _ _ y => y = a ||| b) ∧
    (Computes (.xor f) s w g f fun _ a b _ _ y => y = a ^^^ b) ∧
    (Computes (.andn f) s w g f fun _ a b _ _ y => y = a &&& ~~~b) ∧
    (Computes (.popc f) s w g f fun n a _ _ _ y => y = BitVec.ofNat n ((List.range n).filter a.getLsbD).length) ∧
    (Computes (.clz f) s w g f fun n a _ _ _ y =>
      (a = 0 → y = BitVec.ofNat n n) ∧
      (a ≠ 0 → y.toNat < n ∧ a.getLsbD (n - 1 - y.toNat) = true ∧ ∀ i, n - 1 - y.toNat < i → a.getLsbD i = false)) ∧
    (Computes (.brev f) s w g f fun n a _ _ _ y => ∀ i < n, y.getLsbD i = a.getLsbD (n - 1 - i))

namespace Sys2Proof.Spec

/-- A trap is taken by the group: the trap registers are written and the group goes on at the handler, in handler mode
(17/R391-R392). -/
def TakesTrap (o : Host.Outcome State Fault Refusal) (s : State) (w : Warp) (g : Group) (cause code info : Nat) (tepc : W64) : Prop :=
  w.hm = false → w.tvec ≠ 0 → ∀ h, slotIndex w.tvec = some h →
    o = .next { setWarp s ({ w with
        tepc, tcause := BitVec.ofNat 64 (code * 2 ^ 16 + 2 ^ 8 + cause), tinfo := BitVec.ofNat 64 info
        handler := g.slices, runs := g.slices }.setGroup { g with
          pc := h, wait := .none, entry := .transfer g.pc, replay := [], part := 0 })
      with last := .trapped }

/-- A word that decodes to the instruction raises the illegal-instruction trap where the group meets it (08/R187, 17/R390). -/
def RaisesIllegal (s : State) (w : Warp) (g : Group) (i : Instr) : Prop :=
  ∀ word, decode word = .ok i → TakesTrap (issueOne s .execute word) s w g 1 0 (bits word 63 0) (codeAddr g.pc)

/-- The flags of x − y in a width (11/R259). -/
def flagsOf {n : Nat} (x y : BitVec n) : Cond :=
  { z := x == y, n := (x - y).msb, c := decide (y.toNat ≤ x.toNat), v := decide ((x - y).toInt ≠ x.toInt - y.toInt) }

/-- The comparison of the vector `icmp`, signed for s32 and unsigned for u32 (11/R259). -/
def compares (sub : BitVec 4) (signed : Bool) (x y : W32) : Bool :=
  let lt := fun (p q : W32) => if signed then p.slt q else p.ult q
  match sub.toNat with
  | 0 => x == y
  | 1 => x != y
  | 2 => lt x y
  | 3 => lt x y || x == y
  | 4 => lt y x
  | _ => lt y x || x == y

end Sys2Proof.Spec

/-- R259: `icmp` writes the comparison of each enabled lane to kD in the vector form, and the four flags of sA − opB in the
type's width to cD of each slice in the scalar form. Another SUB, destination or type raises the illegal-instruction trap. -/
def Obligations.IntegerCompare : Prop :=
  ∀ s w g f, Issues s w g f →
    let x := exeOf s w g f
    (f.sc = false → f.d ≠ 0 → f.ty = .u32 ∨ f.ty = .s32 →
      WritesK (exec (.icmp f) s) s w g f fun L => compares f.sub (f.ty = .s32) (laneA s x f L) (laneB s x f L)) ∧
    (f.sc = true →
      WritesC (exec (.icmp f) s) s w g f fun j =>
        flagsOf ((sliceA s x f j).setWidth (tyWidth f.ty)) ((sliceB s x f j).setWidth (tyWidth f.ty))) ∧
    (f.sc = false → 6 ≤ f.sub.toNat ∨ f.d.toNat ∉ [1, 2, 3, 4, 5, 6, 7] ∨ f.ty ∉ [.u32, .s32] → RaisesIllegal s w g (.icmp f)) ∧
    (f.sc = true → f.sub ≠ 0 ∨ 4 ≤ f.d.toNat ∨ f.ty ∉ [.u32, .s32, .u64, .s64] → RaisesIllegal s w g (.icmp f))

/-- R256, R260: the moves and `sel`. R261, R246: the mask instructions; k1 to k7 are the destinations, and k0 as a source reads
the active lanes. -/
def Obligations.MovesAndMasks : Prop :=
  (∀ s w g f, Issues s w g f →
     let x := exeOf s w g f
     (Computes (.mov f) s w g f fun _ a _ _ _ y => y = a) ∧
     (Computes (.movi f) s w g f fun _ _ b _ _ y => y = b) ∧
     WritesV (exec (.movS f) s) s w g f (fun L y => y = (x.src.readS (L / 4) f.a.toNat).setWidth 32) ∧
     WritesS (exec (.moviHi f) s) s w g f (fun j y => y = f.imm ++ (x.src.readS j f.d.toNat).setWidth 32) ∧
     WritesV (exec (.sel f) s) s w g f (fun L y => y = if bit (x.src.readK f.c.toNat) L then laneA s x f L else laneB s x f L)) ∧
  (∀ s w g f, Issues s w g f →
     let x := exeOf s w g f
     let a := x.src.readK f.a.toNat
     let b := if f.bk = .imm then f.imm else x.src.readK f.b.toNat
     let low := if a = 0 then 32 else ((List.range 32).find? a.getLsbD).getD 32
     let count := ((List.range 32).filter a.getLsbD).length
     (f.d ≠ 0 →
       WritesK (exec (.kand f) s) s w g f (fun L => bit a L && bit b L) ∧
       WritesK (exec (.kor f) s) s w g f (fun L => bit a L || bit b L) ∧
       WritesK (exec (.kxor f) s) s w g f (fun L => bit a L ^^ bit b L) ∧
       WritesK (exec (.knot f) s) s w g f (fun L => !bit a L) ∧
       WritesK (exec (.kmov f) s) s w g f (fun L => bit b L) ∧
       WritesK (exec (.kmovKv f) s) s w g f (fun L => laneA s x f L != 0)) ∧
     WritesV (exec (.kmovVk f) s) s w g f (fun _ y => y = a) ∧
     (f.sc = false →
       WritesV (exec (.kpop f) s) s w g f (fun _ y => y = BitVec.ofNat 32 count) ∧
       WritesV (exec (.kfirst f) s) s w g f (fun _ y => y = BitVec.ofNat 32 low)) ∧
     (f.sc = true →
       WritesS (exec (.kpop f) s) s w g f (fun _ y => y = BitVec.ofNat 64 count) ∧
       WritesS (exec (.kfirst f) s) s w g f (fun _ y => y = BitVec.ofNat 64 low)))

namespace Sys2Proof.Spec

/-- A source lane that is enabled in the same instruction (11/R262). -/
def validSource (x : Exe) (n : Int) : Option Nat := if 0 ≤ n ∧ n < 32 ∧ bit x.en n.toNat = true then some n.toNat else none

/-- Each enabled lane receives the value of its source lane, its own where that is invalid, and kC tells which; C = 0 writes no
predicate (11/R262). -/
def Shuffles (o : Host.Outcome State Fault Refusal) (s : State) (w : Warp) (g : Group) (f : Fields) (src : Nat → Option Nat) : Prop :=
  let x := exeOf s w g f
  ∃ w' : Warp, Retires o (popped s w f) w' g ∧
    (∀ L < 32, lane (w'.readV f.d.toNat) L
      = if bit x.en L then laneA s x f ((src L).getD L) else lane (w.readV f.d.toNat) L) ∧
    (∀ r, r ≠ f.d.toNat → w'.readV r = w.readV r) ∧
    (f.c ≠ 0 → ∀ L < 32, bit (w'.readK f.c.toNat) L = if bit x.en L then (src L).isSome else bit (w.readK f.c.toNat) L) ∧
    (∀ r, r ≠ f.c.toNat ∨ r = 0 → w'.readK r = w.readK r) ∧
    w' = { x.w with v := w'.v, vclock := w'.vclock, vstamp := w'.vstamp, k := w'.k }

/-- `vote.any` and `vote.all` write r to every active lane of each slice that has an enabled lane (11/R263). -/
def Votes (o : Host.Outcome State Fault Refusal) (s : State) (w : Warp) (g : Group) (f : Fields) (r : Bool) : Prop :=
  let x := exeOf s w g f
  ∃ w' : Warp, Retires o (popped s w f) w' g ∧
    (∀ L < 32, bit (w'.readK f.d.toNat) L
      = if bit w.activeLanes L && x.slices.contains (L / 4) then r else bit (w.readK f.d.toNat) L) ∧
    (∀ n, n ≠ f.d.toNat → w'.readK n = w.readK n) ∧
    w' = { x.w with k := w'.k }

/-- One step of a reduction (11/R264): wrapping sums, the lesser, the greater, and the bitwise operations; in f32 a sum rounded
in the mode of MD, and the results of `fmin` and `fmax`. -/
def reduceStep (f : Fields) (a b : W32) : W32 :=
  let fp := f.ty = .f32
  let le := if f.ty = .s32 then a.sle b else a.ule b
  match f.sub.toNat % 8 with
  | 0 => if fp then
      BitVec.ofNat 32 (f32Fmt.result (bits f.md 1 0) false (bit f.md 3)
        (addVal (bits f.md 1 0) (f32Fmt.value (f32Fmt.flush (bit f.md 3) a.toNat)) (f32Fmt.value (f32Fmt.flush (bit f.md 3) b.toNat))))
    else a + b
  | 1 => if fp then BitVec.ofNat 32 (f32Fmt.minMax (bit f.md 3) false a.toNat b.toNat) else if le then a else b
  | 2 => if fp then BitVec.ofNat 32 (f32Fmt.minMax (bit f.md 3) true a.toNat b.toNat) else if le then b else a
  | 3 => a &&& b
  | 4 => a ||| b
  | _ => a ^^^ b

/-- The identity that an exclusive scan without a lower enabled lane gives (11/R264). -/
def reduceIdentity (f : Fields) : W32 :=
  match f.sub.toNat % 8, f.ty with
  | 1, .f32 => 0x7F800000
  | 1, .s32 => 0x7FFFFFFF
  | 1, _ => 0xFFFFFFFF
  | 2, .f32 => 0xFF800000
  | 2, .s32 => 0x80000000
  | 3, _ => 0xFFFFFFFF
  | _, _ => 0

/-- The value of the first lane: in f32 it is a result too, canonical where it is a NaN and flushed by `.ftz` (05/R101, R103). -/
def reduceFirst (f : Fields) (a : W32) : W32 :=
  if f.ty = .f32 then
    BitVec.ofNat 32 (f32Fmt.result (bits f.md 1 0) false (bit f.md 3) (f32Fmt.value (f32Fmt.flush (bit f.md 3) a.toNat)))
  else a

/-- The lanes' values combined in ascending order. -/
def reduced (s : State) (x : Exe) (f : Fields) : List Nat → W32
  | [] => reduceIdentity f
  | L :: r => r.foldl (fun a M => reduceStep f a (laneA s x f M)) (reduceFirst f (laneA s x f L))

end Sys2Proof.Spec

/-- R262-R264: shuffles, broadcasts, votes, reductions and scans, and the forms that raise the illegal-instruction trap. -/
def Obligations.CrossLane : Prop :=
  ∀ s w g f, Issues s w g f →
    let x := exeOf s w g f
    let b := fun L => laneB s x f L
    let one : Nat → Option Nat := fun _ => validSource x (bits f.imm 4 0)
    Shuffles (exec (.shflIdx f) s) s w g f (fun L => validSource x (b L).toNat) ∧
    Shuffles (exec (.shflUp f) s) s w g f (fun L => validSource x ((L : Int) - (b L).toNat)) ∧
    Shuffles (exec (.shflDown f) s) s w g f (fun L => validSource x ((L : Int) + (b L).toNat)) ∧
    Shuffles (exec (.shflXor f) s) s w g f
      (fun L => if bits (b L) 31 5 ≠ 0 then none else validSource x ((L ^^^ bits (b L) 4 0 : Nat) : Int)) ∧
    Shuffles (exec (.bcast f) s) s w g f one ∧
    (∃ w', Retires (exec (.bcastS f) s) (popped s w f) w' g ∧
      (∀ j < 8, f.d ≠ 0 → w'.readS j f.d.toNat = match one 0 with
        | some L => if x.slices.contains j then zx64 (laneA s x f L) else w.readS j f.d.toNat
        | none => w.readS j f.d.toNat) ∧
      (∀ j r, r ≠ f.d.toNat ∨ r = 0 → w'.readS j r = w.readS j r) ∧
      (f.c ≠ 0 → ∀ L < 32, bit (w'.readK f.c.toNat) L = if bit x.en L then (one L).isSome else bit (w.readK f.c.toNat) L) ∧
      (∀ r, r ≠ f.c.toNat ∨ r = 0 → w'.readK r = w.readK r) ∧
      (∀ j, OnlyS (w.slice j) (w'.slice j)) ∧ w' = { x.w with slices := w'.slices, k := w'.k }) ∧
    (f.d ≠ 0 →
      Votes (exec (.voteAny f) s) s w g f ((lanesOf x.en).any fun L => laneA s x f L != 0) ∧
      Votes (exec (.voteAll f) s) s w g f ((lanesOf x.en).all fun L => laneA s x f L != 0)) ∧
    WritesV (exec (.voteBallot f) s) s w g f (fun _ y => ∀ L < 32, bit y L = (bit x.en L && laneA s x f L != 0)) ∧
    WritesV (exec (.redux f) s) s w g f (fun _ y => y = reduced s x f (lanesOf x.en)) ∧
    WritesV (exec (.scan f) s) s w g f (fun L y =>
      y = reduced s x f ((lanesOf x.en).filter fun M => if bit f.sub 3 then M < L else M ≤ L)) ∧
    (f.sc = true ∨ f.ty ≠ .b32 → ∀ i ∈ [Instr.shflIdx f, .shflUp f, .shflDown f, .shflXor f, .bcast f, .bcastS f, .voteAny f, .voteAll f,
      .voteBallot f], RaisesIllegal s w g i) ∧
    (f.bk ≠ .imm ∨ bits f.imm 31 5 ≠ 0 → RaisesIllegal s w g (.bcast f) ∧ RaisesIllegal s w g (.bcastS f)) ∧
    (f.c ≠ 0 → RaisesIllegal s w g (.voteAny f) ∧ RaisesIllegal s w g (.voteAll f) ∧ RaisesIllegal s w g (.voteBallot f)) ∧
    (6 ≤ f.sub.toNat % 8 ∨ bit f.md 2 = true ∨ f.ty ∉ (if f.sub.toNat % 8 ≤ 2 then [.u32, .s32, .f32] else [.b32]) →
      RaisesIllegal s w g (.redux f) ∧ RaisesIllegal s w g (.scan f)) ∧
    (bit f.sub 3 = true → RaisesIllegal s w g (.redux f))

namespace Sys2Proof.Spec

/-- Every element of a floating-point type: `r` gives its code from the elements' codes. -/
def FloatElements (f : Fields) (r : BinFmt → Nat → Nat → Nat → Nat) (n : Nat) (a b c _d y : BitVec n) : Prop :=
  let F := (fpFmt f.ty).1
  let m := (fpFmt f.ty).2
  let w := 32 / m
  let el := fun (x : BitVec n) i => (x.extractLsb' (w * i) w).toNat
  ∀ i < m, y.extractLsb' (w * i) w = BitVec.ofNat w (r F (el a i) (el b i) (el c i))

/-- The steps of 12/R267 around an exact result: flush the inputs, round once, flush the result, saturate. -/
def roundedBy (f : Fields) (op : Val → Val → Val → Val) (F : BinFmt) (a b c : Nat) : Nat :=
  let ftz := bit f.md 3
  let v := fun x => F.value (F.flush ftz x)
  let r := F.flush ftz (F.round (bits f.md 1 0) false 0 (op (v a) (v b) (v c)))
  if bit f.md 2 && (F.value r).isInf then F.code (F.value r).neg F.maxFin else r

/-- The lesser or greater of two operands (12/R271): the other of a NaN, the canonical NaN of two, −0 below +0, the operand
bit for bit otherwise; `.ftz` flushes both. -/
def lesser (f : Fields) (greater : Bool) (F : BinFmt) (a b : Nat) : Nat :=
  let p := F.flush (bit f.md 3) a
  let q := F.flush (bit f.md 3) b
  let x := F.value p
  let y := F.value q
  if x.isNan && y.isNan then F.nanCode
  else if x.isNan then q
  else if y.isNan then p
  else match cmpVal x y with
    | some .lt => if greater then q else p
    | some .gt => if greater then p else q
    | _ => if x.neg = greater then q else p

/-- The relation of two binary32 codes; none when either is a NaN (12/R272). -/
def relation (f : Fields) (a b : W32) : Option Ordering :=
  let v := fun (x : W32) => f32Fmt.value (f32Fmt.flush (bit f.md 3) x.toNat)
  cmpVal (v a) (v b)

/-- The comparison that SUB names (12/R272). -/
def relationHolds (sub : BitVec 4) (r : Option Ordering) : Bool :=
  match sub.toNat with
  | 0 => r == some .eq
  | 1 => r != some .eq
  | 2 => r == some .lt
  | 3 => r == some .lt || r == some .eq
  | 4 => r == some .gt
  | 5 => r == some .gt || r == some .eq
  | 6 => r == none
  | _ => r != none

/-- The flags of the scalar `fcmp` (12/R272). -/
def relationFlags : Option Ordering → Cond
  | some .lt => { n := true, z := false, c := false, v := false }
  | some .eq => { n := false, z := true, c := true, v := false }
  | some .gt => { n := false, z := false, c := true, v := false }
  | none => { n := false, z := false, c := true, v := true }

end Sys2Proof.Spec

/-- R267, R270: the arithmetic instructions, exact and rounded once under MD. `fscale` reads opB as s32; its exponent is kept in
−600 to 600, beyond which every result is the same. -/
def Obligations.FloatArithmetic : Prop :=
  ∀ s w g f, Issues s w g f →
    let R := fun i op => Computes i s w g f (FloatElements f (roundedBy f op))
    (f.ty = .f32 →
      R (.fadd f) (fun x y _ => addVal (bits f.md 1 0) x y) ∧
      R (.fsub f) (fun x y _ => addVal (bits f.md 1 0) x (negVal y)) ∧
      R (.fmul f) (fun x y _ => mulVal x y) ∧
      R (.ffma f) (fun x y z => addVal (bits f.md 1 0) (mulVal x y) z) ∧
      Computes (.fscale f) s w g f (FloatElements f fun F a b _ =>
        roundedBy f (fun x _ _ => mulVal x (.fin false (pow2 (max (-600) (min 600 (BitVec.ofNat 32 b).toInt))))) F a 0 0)) ∧
    (f.ty = .f16x2 ∨ f.ty = .bf16x2 →
      R (.hadd2 f) (fun x y _ => addVal (bits f.md 1 0) x y) ∧
      R (.hmul2 f) (fun x y _ => mulVal x y) ∧
      R (.hfma2 f) (fun x y z => addVal (bits f.md 1 0) (mulVal x y) z))

/-- R271, R272: minimum, maximum and comparison, and the forms that raise the illegal-instruction trap. -/
def Obligations.FloatCompare : Prop :=
  ∀ s w g f, Issues s w g f →
    let x := exeOf s w g f
    (f.ty = .f32 ∨ f.ty = .f16x2 ∨ f.ty = .bf16x2 →
      Computes (.fmin f) s w g f (FloatElements f fun F a b _ => lesser f false F a b) ∧
      Computes (.fmax f) s w g f (FloatElements f fun F a b _ => lesser f true F a b)) ∧
    (f.sc = false → f.d ≠ 0 →
      WritesK (exec (.fcmp f) s) s w g f fun L => relationHolds f.sub (relation f (laneA s x f L) (laneB s x f L))) ∧
    (f.sc = true →
      WritesCOver (usedLaneless (popped s w f) f) (exec (.fcmp f) s) s w g f fun j =>
        relationFlags (relation f ((sliceA s x f j).setWidth 32) ((sliceB s x f j).setWidth 32))) ∧
    (f.ty ∉ [.f32, .f16x2, .bf16x2] → RaisesIllegal s w g (.fmin f) ∧ RaisesIllegal s w g (.fmax f)) ∧
    (f.sc = false → 8 ≤ f.sub.toNat ∨ f.d.toNat ∉ [1, 2, 3, 4, 5, 6, 7] ∨ f.ty ≠ .f32 → RaisesIllegal s w g (.fcmp f)) ∧
    (f.sc = true → f.sub ≠ 0 ∨ 4 ≤ f.d.toNat ∨ f.ty ≠ .f32 → RaisesIllegal s w g (.fcmp f))

namespace Sys2Proof.Spec

/-- The special inputs of 05/R107, the bound of `frcp` (1 ulp of the exact result), and `fsqrt` rounded in the named mode: its
square brackets the operand as each mode asks, with `u` the spacing at the result. -/
def SpecialTable (opc mode : Nat) (x : W32) (r : Nat) : Prop :=
  let v := f32Fmt.value x.toNat
  let y := f32Fmt.value r
  let q := y.rat
  let u := ulp q
  let inf := fun (neg : Bool) => if neg then 0xFF800000 else 0x7F800000
  let nan := 0x7FC00000
  (v = .nan → r = nan) ∧
  (opc = 0x47 →
    (∀ n, v = .inf n → r = if n then 0x80000000 else 0) ∧
    (∀ n, v = .fin n 0 → r = inf n) ∧
    (∀ n m, v = .fin n m → m ≠ 0 → 1 / m ≤ f32Fmt.maxFin →
      y.isNan = false ∧ y.isInf = false ∧ q - 1 / v.rat ≤ ulp (1 / v.rat) ∧ 1 / v.rat - q ≤ ulp (1 / v.rat))) ∧
  (opc = 0x48 → (∀ n, v = .fin n 0 → r = inf n) ∧ (v = .inf false → r = 0) ∧
    ((v = .inf true ∨ ∃ m, m ≠ 0 ∧ v = .fin true m) → r = nan)) ∧
  (opc = 0x49 → (∀ n, v = .fin n 0 → r = if n then 0x80000000 else 0) ∧ (v = .inf false → r = inf false) ∧
    ((v = .inf true ∨ ∃ m, m ≠ 0 ∧ v = .fin true m) → r = nan) ∧
    (∀ m, v = .fin false m → m ≠ 0 → y.isInf = false ∧ 0 < q ∧
      (mode = 0 → (2 * q - u) * (2 * q - u) ≤ 4 * m ∧ 4 * m ≤ (2 * q + u) * (2 * q + u)) ∧
      (mode = 1 ∨ mode = 3 → q * q ≤ m ∧ m < (q + u) * (q + u)) ∧
      (mode = 2 → (q - u) * (q - u) < m ∧ m ≤ q * q))) ∧
  (opc = 0x4A → (v = .inf true → r = 0) ∧ (v = .inf false → r = inf false)) ∧
  (opc = 0x4B → (∀ n, v = .fin n 0 → r = inf true) ∧ ((v = .inf true ∨ ∃ m, m ≠ 0 ∧ v = .fin true m) → r = nan)) ∧
  (opc = 0x4C ∨ opc = 0x4D → (∀ n, v = .inf n → r = nan) ∧
    (∀ n m, v = .fin n m → 2 ^ 20 < m → y.isNan = false ∧ y.isInf = false ∧ -1 ≤ q ∧ q ≤ 1)) ∧
  (opc = 0x4E → ∀ n, v = .inf n → r = if n then 0xBF800000 else 0x3F800000) ∧
  (opc = 0x4F → (v = .inf true → r = 0) ∧ (v = .inf false → r = 0x3F800000))

/-- A special function under `.ftz` and `.sat` (12/R273): the result before them is the special case or within the bound of
05/R107 (`special`, whose free value is the same for the same input). -/
def SpecialFunction (f : Fields) (opc n : Nat) (a _b _c _d y : BitVec n) : Prop :=
  let ftz := bit f.md 3
  let x := BitVec.ofNat 32 (f32Fmt.flush ftz a.toNat)
  let r0 := special opc (bits f.md 1 0) x
  let r := f32Fmt.flush ftz r0
  SpecialTable opc (bits f.md 1 0) x r0 ∧
  y = BitVec.ofNat n (if bit f.md 2 && (f32Fmt.value r).isInf then f32Fmt.code (f32Fmt.value r).neg f32Fmt.maxFin else r)

/-- A lane of `cvt` outside the stochastic mode (12/R278-R279): element `i` is taken at its place, flushed where the format is one
of the first four, rounded to the destination format, flushed and written at its place; where the destination is the narrower,
every other bit of vD is as it was. -/
def Converts (f : Fields) (a d y : Nat) : Prop :=
  let sf := bits f.imm 7 0
  let df := bits f.imm 15 8
  ∀ ws wd, cvtWidth sf = some ws → cvtWidth df = some wd → bits f.imm 19 16 < max (wd / ws) (ws / wd) →
    let n := 32 / max ws wd
    let src := fun i => if ws < wd then ws * (bits f.imm 19 16 * n + i) else ws * i
    let dst := fun i => if wd < ws then wd * (bits f.imm 19 16 * n + i) else wd * i
    (∀ i < n, y / 2 ^ dst i % 2 ^ wd =
      let code := a / 2 ^ src i % 2 ^ ws
      destCode df (bit f.md 3) (elemRound df (bits f.imm 26 24) (bit f.md 2) 0 (sourceVal sf (bit f.md 3) code) (nanSign sf code))
        % 2 ^ wd) ∧
    (wd < ws → ∀ b < 32, b < dst 0 ∨ dst 0 + wd * n ≤ b → y.testBit b = d.testBit b)

/-- The class bit of 12/R275. -/
def classOf (F : BinFmt) (a : Nat) : Nat :=
  match F.value a with
  | .nan => if a.testBit (F.m - 1) then 9 else 8
  | .inf neg => if neg then 0 else 7
  | .fin neg m => if m = 0 then (if neg then 3 else 4) else if F.subnormal a then (if neg then 2 else 5) else if neg then 1 else 6

end Sys2Proof.Spec

/-- R273, R107: the nine special functions: the special inputs of each, `frcp` within 1 ulp, `fsqrt` correctly rounded, sine and
cosine of large arguments within [-1, 1], `.ftz` and `.sat` around the result. -/
def Obligations.SpecialFunctions : Prop :=
  ∀ s w g f, Issues s w g f → f.ty = .f32 →
    let R := fun i opc => Computes i s w g f (SpecialFunction f opc)
    R (.frcp f) 0x47 ∧ R (.frsq f) 0x48 ∧ R (.fsqrt f) 0x49 ∧ R (.fex2 f) 0x4A ∧ R (.flg2 f) 0x4B ∧ R (.fsin f) 0x4C ∧
    R (.fcos f) 0x4D ∧ R (.ftanh f) 0x4E ∧ R (.fsig f) 0x4F

/-- R275 whole: classification, and the types for which it raises the illegal-instruction trap. Of R274 and R276-R279: rounding to
an integral value, and conversion. A conversion in stochastic mode draws from the LFSR of the core, in ascending lane order; in
any other mode it changes no state but vD. -/
def Obligations.RoundClassifyConvert : Prop :=
  ∀ s w g f, Issues s w g f →
    let x := exeOf s w g f
    let mode := if f.sub = 1 then 4 else bits f.md 1 0
    let step := fun (l : W32) L => cvtLane f l (laneA s x f L).toNat (lane (x.src.readV f.d.toNat) L).toNat
    let before := fun (Ls : List Nat) => Ls.foldl (fun l L => (step l L).2) (coreLfsr s w.core)
    (f.ty = .f32 ∨ f.ty = .f16x2 ∨ f.ty = .bf16x2 →
      Computes (.frnd f) s w g f (FloatElements f fun F a _ _ =>
        F.flush (bit f.md 3) (match F.value (F.flush (bit f.md 3) a) with
          | .nan => F.nanCode
          | .inf neg => F.infCode neg
          | .fin neg m => F.code neg (roundMag mode neg m 1 0))) ∧
      Computes (.fclass f) s w g f (FloatElements f fun F a _ _ => 2 ^ classOf F a)) ∧
    (f.ty ∉ [.f32, .f16x2, .bf16x2] → RaisesIllegal s w g (.fclass f)) ∧
    ∃ w' s', Retires (exec (.cvt f) s) s' w' g ∧
      (∀ L < 32, lane (w'.readV f.d.toNat) L = if bit x.en L then
          BitVec.ofNat 32 (step (before ((lanesOf x.en).filter (· < L))) L).1 else lane (w.readV f.d.toNat) L) ∧
      (∀ r, r ≠ f.d.toNat → w'.readV r = w.readV r) ∧
      w' = { x.w with v := w'.v, vclock := w'.vclock, vstamp := w'.vstamp } ∧
      s' = { popped s w f with lfsr := s'.lfsr } ∧
      (∀ core, coreLfsr s' core = if core = w.core then before (lanesOf x.en) else coreLfsr s core) ∧
      (bits f.imm 26 24 ≠ 5 → s'.lfsr = s.lfsr ∧ ∀ L < 32, bit x.en L = true →
        Converts f (laneA s x f L).toNat (lane (x.src.readV f.d.toNat) L).toNat (lane (w'.readV f.d.toNat) L).toNat)

namespace Sys2Proof.Spec

/-- The group moves to slot `t` by a control transfer (08/R170), the warp being otherwise `w'`. -/
def Transfers (o : Host.Outcome State Fault Refusal) (base : State) (w' : Warp) (g : Group) (t : Nat) : Prop :=
  o = .next { setWarp base (w'.setGroup { g with pc := t, wait := .none, entry := .transfer g.pc, replay := [], part := 0 }) with
    last := .retired }

/-- The lowest slice of the group with an active lane. -/
def firstSlice (w : Warp) (g : Group) : Nat := ((List.range 8).find? fun j => bit g.slices j && (w.slice j).active != 0).getD 0

end Sys2Proof.Spec

/-- R249, R167: `bra`, `call`, `ret` and `jmpi` move the whole group to a slot; `call` leaves the next slot's address in sD of
every slice with an active lane. A target that has no code address raises the branch-target trap at the branch. -/
def Obligations.Branches : Prop :=
  ∀ s w g f, Issues s w g f →
    let x := exeOf s w g f
    let a := x.src.readS (firstSlice x.w g) f.a.toNat
    (∀ t, slotPlus g.pc f.imm.toInt = some t →
      Transfers (exec (.bra f) s) (popped s w f) x.w g t ∧
      ∃ w', Transfers (exec (.call f) s) (popped s w f) w' g t ∧
        (∀ j r, w'.readS j r = if r = f.d.toNat ∧ r ≠ 0 ∧ j < 8 ∧ bit g.slices j ∧ (w.slice j).active ≠ 0
          then codeAddr (g.pc + 1) else w.readS j r) ∧
        (∀ j, OnlyS (w.slice j) (w'.slice j)) ∧ w' = { x.w with slices := w'.slices }) ∧
    (∀ t, slotIndex a = some t → Transfers (exec (.ret f) s) (popped s w f) x.w g t) ∧
    (∀ n t, slotIndex a = some n → slotPlus n f.imm.toInt = some t → Transfers (exec (.jmpi f) s) (popped s w f) x.w g t) ∧
    (slotPlus g.pc f.imm.toInt = none → TakesTrap (exec (.bra f) s) s w g 3 0 (codeAddr g.pc).toNat (codeAddr g.pc)) ∧
    (slotIndex a = none → TakesTrap (exec (.ret f) s) s w g 3 0 (codeAddr g.pc).toNat (codeAddr g.pc))

namespace Sys2Proof.Spec

/-- The conditions of 11/R250. -/
def condition (c : Cond) (code : Nat) : Bool :=
  match code with
  | 0 => c.z | 1 => !c.z | 2 => c.c | 3 => !c.c | 4 => c.n | 5 => !c.n | 6 => c.v | 7 => !c.v
  | 8 => c.c && !c.z | 9 => !c.c || c.z | 10 => c.n == c.v | 11 => c.n != c.v
  | 12 => !c.z && c.n == c.v | 13 => c.z || c.n != c.v | _ => true

/-- A conditional branch (11/R251): the group goes on whole, at the target or at the next slot, or it parts and pushes an entry
with its slices, its join point and their FMT; a full stack raises the parting-stack overflow trap. -/
def Parts (o : Host.Outcome State Fault Refusal) (s : State) (w : Warp) (g : Group) (f : Fields) (take : Nat → Bool) : Prop :=
  let x := exeOf s w g f
  let off := sextNat 16 (bits f.imm 15 0)
  let joff := sextNat 16 (bits f.imm 31 16)
  let active := fun j => bit g.slices j && (x.w.slice j).active != 0
  let all := (List.range 8).all fun j => !active j || take j
  let some_ := (List.range 8).any fun j => active j && take j
  (all = true → ∀ t, slotPlus g.pc off = some t → Transfers o (popped s w f) x.w g t) ∧
  (all = false → some_ = false ∨ off = 1 → Retires o (popped s w f) x.w g) ∧
  (all = false → some_ = true → off ≠ 1 → x.w.stack.length < 16 →
    ∀ t join, slotPlus g.pc off = some t → slotPlus g.pc joff = some join →
    ∃ (T : BitVec 8) (runs : BitVec 8) (e : PartEntry),
      (∀ j < 8, bit T j = (active j && take j)) ∧
      (runs = T ∨ runs = g.slices &&& ~~~ T) ∧ (∃ j < 8, bit runs j = true ∧ ∀ i < j, bit g.slices i = false) ∧
      e.members = g.slices ∧ e.arrived = 0 ∧ e.join = join ∧ e.keep = false ∧
      (∀ j < 8, bit g.slices j = true → e.fmts.getD j 0 = (x.w.slice j).fmt) ∧
      o = .next { setWarp (popped s w f) { x.w with
        stack := e :: x.w.stack
        groups := { g with slices := T, pc := t, wait := .none, entry := .transfer g.pc, replay := [], part := 0 } ::
          { slices := g.slices &&& ~~~ T, pc := g.pc + 1, entry := .resume } ::
          x.w.groups.filter (·.slices != g.slices)
        runs } with last := .retired }) ∧
  (all = false → some_ = true → off ≠ 1 → 16 ≤ x.w.stack.length → TakesTrap o s w g 4 0 0 (codeAddr g.pc))

end Sys2Proof.Spec

/-- R250, R251: the conditional branches; code 15 raises the illegal-instruction trap. -/
def Obligations.ConditionalBranches : Prop :=
  ∀ s w g f, Issues s w g f →
    let x := exeOf s w g f
    let nibble := fun j => bits (x.src.readK f.a.toNat) (4 * j + 3) (4 * j)
    Parts (exec (.brc f) s) s w g f (fun j => condition ((x.src.slice j).readC f.a.toNat) f.sub.toNat) ∧
    (f.sub = 15 → RaisesIllegal s w g (.brc f)) ∧
    Parts (exec (.brz f) s) s w g f (fun j => nibble j = 0) ∧
    Parts (exec (.brnz f) s) s w g f (fun j => nibble j ≠ 0)

/-- R120, R253: `regang` does nothing away from the join point on top of the stack, waits there while members are missing, and
with the last of them merges them one slot on, with the FMT of the entry unless `.keep` is given. `exit` ends the lanes of the
group, removes its slices from the stack, and merges the waiting slices of an entry that this completes, as the last of them to
arrive would have. -/
def Obligations.RejoinAndExit : Prop :=
  ∀ s w g f, Issues s w g f →
    let x := exeOf s w g f
    (x.w.stack = [] → Retires (exec (.regang f) s) (popped s w f) x.w g) ∧
    (∀ e rest, x.w.stack = e :: rest → g.pc ≠ e.join → Retires (exec (.regang f) s) (popped s w f) x.w g) ∧
    (∀ e rest, x.w.stack = e :: rest → g.pc = e.join → e.arrived ||| g.slices ≠ e.members →
      exec (.regang f) s = .next { setWarp (popped s w f) ({ x.w with
        stack := { e with arrived := e.arrived ||| g.slices, keep := f.sub == 1 } :: rest }.setGroup
          { g with wait := .arrived, frag := none })
        with last := .retired }) ∧
    (∀ e rest, x.w.stack = e :: rest → g.pc = e.join → e.arrived ||| g.slices = e.members →
      ∃ w', exec (.regang f) s = .next { setWarp (popped s w f) w' with last := .retired } ∧
        w'.stack = rest ∧ w'.runs = e.members ∧
        (∃ h ∈ w'.groups, h.slices = e.members ∧ h.pc = e.join + 1 ∧ h.wait = .none) ∧
        (∀ j < 8, (w'.slice j) = { w.slice j with
          fmt := if bit e.members j && f.sub != 1 then e.fmts.getD j 0 else (w.slice j).fmt })) ∧
    (∃ t w', exec (.exit f) s = .next t ∧ t.last = .retired ∧ t = { setWarp (popped s w f) w' with last := .retired, bars := t.bars } ∧
      (∀ j < 8, bit g.slices j = true → (w'.slice j).active = 0) ∧
      (∀ j < 8, bit g.slices j = false → ∃ fmt, w'.slice j = { w.slice j with fmt }) ∧
      let less := fun (e : PartEntry) => { e with members := e.members &&& ~~~ g.slices, arrived := e.arrived &&& ~~~ g.slices }
      let left := (w.stack.map less).filter (·.members != 0)
      let others := w.groups.filter (·.slices != g.slices)
      let handler := if w.hm && w.handler == g.slices then 0 else w.handler
      ((∀ e ∈ left, e.arrived ≠ e.members) →
        w' = { x.w with slices := w'.slices, stack := left, groups := others, handler } ∧
        ∀ j < 8, bit g.slices j = false → w'.slice j = w.slice j) ∧
      (∀ e, left = [e] → e.arrived = e.members → ∃ h : Group, h.slices = e.members ∧ h.pc = e.join + 1 ∧ h.wait = .none ∧
        w' = { x.w with
          slices := w'.slices, stack := [], runs := e.members, handler
          groups := h :: others.filter fun y => y.slices &&& e.members == 0 } ∧
        ∀ j < 8, bit g.slices j = false → w'.slice j = { w.slice j with
          fmt := if bit e.members j && !e.keep then e.fmts.getD j 0 else (w.slice j).fmt }))

/-- R248, R254, R186: `nop` and `yield` only advance the group (`nop` in every stream); `waitf` does once its flags are clear,
and waits before that. -/
def Obligations.NopYieldWait : Prop :=
  (∀ s w g f, Issues s w g f →
    let x := exeOf s w g f
    Retires (exec (.nop f) s) (popped s w f) x.w g ∧
    (g.frag = none → Retires (exec (.yield f) s) (popped s w f) { x.w with place := { w.place with yields := true } } g) ∧
    (∀ p, g.frag = some p → Retires (exec (.yield f) s) (popped s w f) x.w { g with frag := some { p with yields := true } }) ∧
    ((∀ n < 12, bit f.imm n = true → w.flag n = 0) → Retires (exec (.waitf f) s) (popped s w f) x.w g) ∧
    ((∃ n < 12, bit f.imm n = true ∧ w.flag n ≠ 0) →
      exec (.waitf f) s = .next { setWarp s (w.setGroup { g with wait := .flags (f.imm.extractLsb' 0 12) }) with last := .waited })) ∧
  (∀ s f id w, s.cur = .walker id → findWalker s id = some w →
    ∃ t, exec (.nop f) s = .next t ∧ findWalker t id = some w.next ∧ t = { s with walkers := t.walkers, last := .retired }) ∧
  (∀ s f id i, s.cur = .bank id → findInst s id = some i →
    ∃ t, exec (.nop f) s = .next t ∧ findInst t id = some i.next ∧ t = { s with insts := t.insts, last := .retired }) ∧
  (∀ s f id w, s.cur = .access id → findWarp s id = some w →
    ∃ t, exec (.nop f) s = .next t ∧ findWarp t id = some w.accNext ∧ t = { s with warps := t.warps, last := .retired })

/-- R255, R366, R390-R394: `trap`, `brk` and `syscall` enter the handler with their cause, their code of IMM32[15:0], TINFO 0
and the address of the next slot in TEPC; `eret` in handler mode goes to TEPC and leaves handler mode, and outside it raises the
illegal-instruction trap. -/
def Obligations.TrapsAndReturn : Prop :=
  (∀ s w g f, Issues s w g f →
     let T := fun i cause => TakesTrap (exec i s) s w g cause (bits f.imm 15 0) 0 (codeAddr (g.pc + 1))
     T (.trap f) 10 ∧ T (.brk f) 11 ∧ T (.syscall f) 12) ∧
  (∀ s w g f, Issues s w g f →
     let x := exeOf s w g f
     (w.hm = true → ∀ t, slotIndex w.tepc = some t →
       ∃ w' : Warp, exec (.eret f) s = .next { setWarp (popped s w f)
           (w'.setGroup { g with pc := t, wait := .none, entry := .returned g.pc, replay := [], part := 0 }) with last := .retired } ∧
         w'.hm = false ∧
         (∀ b < 64, b ≠ 8 → bit w'.tcause b = bit w.tcause b) ∧ w' = { x.w with tcause := w'.tcause, handler := 0 }) ∧
     (w.hm = false → TakesTrap (exec (.eret f) s) s w g 1 0 g.word.toNat (codeAddr g.pc)))

/-- R395, R392: a trap in handler mode, or with no handler, is unhandled, unless it is a breakpoint outside handler mode: a
record of KIND 21 and the block killed. R366: `halt` stops the units of the context. -/
def Obligations.UnhandledTrapAndHalt : Prop :=
  (∀ s w g f c b, Issues s w g f → (w.hm = true ∨ w.tvec = 0) → findCtx s w.ctx = some c → fltFull s c = false →
     findBlock s w.block = some b → b.ended = false →
     ∀ i ∈ [Instr.trap f, Instr.syscall f], ∃ t, exec i s = .next t ∧ t.last = .trapped ∧ ∀ v ∈ t.warps, v.block ≠ w.block) ∧
  (∀ s w g f c, Issues s w g f → findCtx s w.ctx = some c → haltRoom s c = true →
     ∃ t, exec (.halt f) s = .next t ∧ t.last = .retired ∧ (∀ d ∈ t.ctxs, d.slot = w.ctx → d.halted = true) ∧
       ctxRuns t w.ctx = false)

namespace Sys2Proof.Spec

/-- What `csrr` reads for a slice: the registers of 08/R183 in their groups. -/
def register (s : State) (w : Warp) (c : Ctx) (j n : Nat) : Option W64 :=
  let die := getDie s (w.core / 96)
  match n with
  | 0x010 => some ((w.slice j).fmt.setWidth 64)
  | 0x011 => some w.tvec
  | 0x012 => some w.tepc
  | 0x013 => some w.tcause
  | 0x014 => some w.tinfo
  | 0x0C0 => some c.cfg
  | 0x0C1 => some c.root
  | 0x0C2 => some c.rng
  | 0x0C3 => some c.fltq
  | 0x0D8 => some (if s.fused.contains (w.core / 8) then 1 else 0)
  | 0x0D9 => some (tabGet 0 s.l2cnt w.core)
  | 0x0E0 => some (c.srseed.setWidth 64)
  | 0x100 => some (BitVec.ofNat 64 s.prioShift)
  | 0x101 => some (BitVec.ofNat 64 (s.dlscr * 256 + s.dlres))
  | 0x200 => some (c.routeseed.setWidth 64)
  | 0x300 => some (pwrstat die)
  | 0x301 => some (permitsWord die w)
  | _ => if 0x0D0 ≤ n ∧ n ≤ 0x0D7 then
      some ((s.rtn.find? fun r => r.die == w.core / 96 && r.num == n - 0x0D0 && r.ctx == w.ctx).elim 0 (·.word)) else none

end Sys2Proof.Spec

/-- R183, R366: `csrr` reads a control and status register into sD, FMT from each slice's own copy. R366, R391: `csrw` writes
the elected slice's sA, and FMT in each participating slice its own. -/
def Obligations.ControlRegisters : Prop :=
  (∀ s w g f c, Issues s w g f → findCtx s w.ctx = some c → f.imm.toNat < 4096 → csrKnown f.imm.toNat = true →
     WritesS (exec (.csrr f) s) s w g f fun j y => some y = register s (exeOf s w g f).src c j f.imm.toNat) ∧
  (∀ s w g f c, Issues s w g f → findCtx s w.ctx = some c →
     let x := exeOf s w g f
     let v := x.src.readS (x.slices.headD 0) f.a.toNat
     (f.imm = 0x010 → ∃ w', Retires (exec (.csrw f) s) (popped s w f) w' g ∧ w' = { x.w with slices := w'.slices } ∧
       ∀ j < 8, w'.slice j = if x.slices.contains j then { w.slice j with fmt := ((x.src.readS j f.a.toNat).setWidth 16).setWidth 32 }
         else w.slice j) ∧
     (f.imm = 0x011 → Retires (exec (.csrw f) s) (popped s w f) { x.w with tvec := v } g) ∧
     (f.imm = 0x012 → Retires (exec (.csrw f) s) (popped s w f) { x.w with tepc := v } g) ∧
     (f.imm = 0x0D9 → ∃ b, Retires (exec (.csrw f) s) b x.w g ∧ b = { popped s w f with l2cnt := b.l2cnt } ∧
       ∀ k, tabGet 0 b.l2cnt k = if k = w.core then v else tabGet 0 s.l2cnt k) ∧
     (f.imm = 0x0E0 → ∃ b, Retires (exec (.csrw f) s) b x.w g ∧ b = { popped s w f with ctxs := b.ctxs, lfsr := b.lfsr } ∧
       findCtx b w.ctx = some { c with srseed := v.setWidth 32 } ∧
       coreLfsr b w.core = (if v.setWidth 32 ^^^ BitVec.ofNat 32 w.core = 0 then 1 else v.setWidth 32 ^^^ BitVec.ofNat 32 w.core)) ∧
     (f.imm = 0x200 → ∃ b, Retires (exec (.csrw f) s) b x.w g ∧ b = { popped s w f with ctxs := b.ctxs } ∧
       findCtx b w.ctx = some { c with routeseed := v.setWidth 32 }))

/-- R366, R387, R451: the clocks, and `permit`: unused permits go back to the die's governor, and a request for more waits
there, cut to the die's limit. -/
def Obligations.ClocksAndPermits : Prop :=
  ∀ s w g f, Issues s w g f →
    let x := exeOf s w g f
    let die := w.core / 96
    let n := min f.imm.toNat (permax (getDie s die).profile)
    WritesS (exec (.clkrd f) s) s w g f (fun _ y => y = BitVec.ofNat 64 (s.now + Config.skew die % 64)) ∧
    WritesS (exec (.clkrdCore f) s) s w g f (fun _ y => y = BitVec.ofNat 64 (tabGet 0 s.coreClk w.core)) ∧
    (w.core < 384 →
      (n = 0 → ∃ b, Retires (exec (.permit f) s) b { x.w with permits := 0 } g ∧ b = { popped s w f with dies := b.dies } ∧
        getDie b die = { getDie s die with out := (getDie s die).out - w.permits }) ∧
      (n ≠ 0 → ∃ t w', exec (.permit f) s = .next t ∧ findWarp t w.id = some w' ∧ w'.permits = 0 ∧
        (getDie t die).out = (getDie s die).out - w.permits ∧
        ∃ r, (getDie t die).waiting = (getDie s die).waiting ++ [r] ∧ r.owner = .warp w.id g.slices ∧ r.n = n))

/-! ### Memory -/

namespace Sys2Proof.Spec

/-- The instruction takes effect: a next state in which it has retired, with the property `P`. -/
def Effect (o : Host.Outcome State Fault Refusal) (P : State → Prop) : Prop := ∃ t, o = .next t ∧ t.last = .retired ∧ P t

/-- An event or an input is performed: a next state with the property `P`. -/
def Becomes (o : Host.Outcome State Fault Refusal) (P : State → Prop) : Prop := ∃ t, o = .next t ∧ P t

/-- The destination registers of an access: vD of the enabled lanes, or sD of the slices with an enabled lane, take the values;
every other register of the warp is as it was. -/
def Lands (f : Fields) (x : Exe) (w w' : Warp) (val : Nat → Nat) : Prop :=
  if f.sc then
    (∀ j < 8, f.d ≠ 0 → w'.readS j f.d.toNat = if x.slices.contains j then BitVec.ofNat 64 (val j) else w.readS j f.d.toNat) ∧
    (∀ j r, r ≠ f.d.toNat ∨ r = 0 → w'.readS j r = w.readS j r) ∧
    (∀ j, OnlyS (w.slice j) (w'.slice j)) ∧ w'.v = w.v
  else
    (∀ L < 32, lane (w'.readV f.d.toNat) L = if bit x.en L then BitVec.ofNat 32 (val L) else lane (w.readV f.d.toNat) L) ∧
    (∀ r, r ≠ f.d.toNat → w'.readV r = w.readV r) ∧ w'.slices = w.slices

/-- The warp `x` but for the registers of `w'` that an access writes. -/
def onlyRegisters (x w' : Warp) : Warp := { x with v := w'.v, vclock := w'.vclock, vstamp := w'.vstamp, slices := w'.slices }

/-- Byte `i` of a value. -/
def byteOf (val i : Nat) : Byte := BitVec.ofNat 8 (val / 256 ^ i)

/-- The state `s` but for memory at the homes, the LLC and the banks, and the log of machine checks, as in `t`. -/
def onlyHome (s t : State) : State :=
  { s with mem := t.mem, stale := t.stale, llc := t.llc, mdc := t.mdc, counts := t.counts, commits := t.commits, poison := t.poison
           out := t.out }

/-- The state `s` but for the caches, the translation caches and what lies below them, as in `t`. -/
def onlyCaches (s t : State) : State :=
  { onlyHome s t with
    l1 := t.l1, l2 := t.l2, fillNo := t.fillNo, cellCopies := t.cellCopies, quadTlb := t.quadTlb, coreTlb := t.coreTlb
    walkCache := t.walkCache }

/-- The same, and what a release and an acquire leave behind (07/R139-R141). -/
def onlyOrder (s t : State) : State :=
  { onlyCaches s t with acq := t.acq, hb := t.hb, rels := t.rels, owed := t.owed, spadRel := t.spadRel, spadSeen := t.spadSeen }

end Sys2Proof.Spec

/-- R204: `lds` and `sts` on scratchpad offsets that lie in the block's allocation and are aligned, untied and without order, no
copy being in progress. A later lane's store wins. -/
def Obligations.ScratchpadAccess : Prop :=
  ∀ (s : State) (w : Warp) (g : Group) (f : Fields) (b : Block) (place : Nat → Bool × Nat),
    Issues s w g f → findBlock s w.block = some b → s.cmds = [] → bits f.md 1 0 = 0 → tiedFlag g f = none →
    let x := exeOf s w g f
    let n := accessSize f.ty
    (∀ u ∈ unitsOf x f, spadPlace b w.core (unitAddr s x f u) n = some (place u) ∧ unitAddr s x f u % (n : Int) = 0) →
    (∃ w', Retires (exec (.lds f) s) { popped s w f with nextId := s.nextId + 1 } w' g ∧
      Lands f x w w' (fun u => ofBytes (spadBytes b (place u) n)) ∧ w' = onlyRegisters x.w w') ∧
    (∃ t b', exec (.sts f) s = .next t ∧ findBlock t w.block = some b' ∧
      t = { popped s w f with
        nextId := s.nextId + 1, blocks := t.blocks, outs := t.outs, free := t.free
        warps := (setWarp s (x.w.setGroup g.next)).warps, last := .retired } ∧
      ((∀ o ∈ s.outs, o.redo = none) → t.outs = s.outs ∧ t.free = s.free) ∧
      b' = { b with spad := b'.spad, spadF := b'.spadF, spadClock := b'.spadClock, spadStamp := b'.spadStamp } ∧
      ∀ follower off, spadByte b' follower off =
        match (unitsOf x f).reverse.find? (fun u => (place u).1 == follower && (place u).2 ≤ off && off < (place u).2 + n) with
        | some u => byteOf (unitData x f f.d.toNat u) (off - (place u).2)
        | none => spadByte b follower off)

/-- R169, R202: a tied access retires with its flag raised by one, and its values wait in an outstanding access; its
`MEMORY_RESPONSE` writes those whose registers still hold their marks, lowers the flag and lets a group that waits go on. -/
def Obligations.TiedAccess : Prop :=
  (∀ (s : State) (w : Warp) (g : Group) (f : Fields) (b : Block) (place : Nat → Bool × Nat) (n : Nat),
    Issues s w g f → findBlock s w.block = some b → s.cmds = [] → bits f.md 1 0 = 0 → tiedFlag g f = some n → w.flag n < 15 →
    let x := exeOf s w g f
    (∀ u ∈ unitsOf x f, spadPlace b w.core (unitAddr s x f u) (accessSize f.ty) = some (place u) ∧
      unitAddr s x f u % (accessSize f.ty : Int) = 0) →
    Effect (exec (.lds f) s) fun t => ∃ (w' : Warp) (o : Outstanding),
      findWarp t w.id = some (w'.setGroup g.next) ∧ (∀ m, w'.flag m = if m = n then w.flag n + 1 else w.flag m) ∧
      t.outs = s.outs ++ [o] ∧ o.id = s.nextId ∧ o.warp = w.id ∧ o.flag = some n ∧ o.need = 0 ∧
      o.vwrites = (if f.sc then [] else (unitsOf x f).map fun u =>
        (f.d.toNat, u, BitVec.ofNat 32 (ofBytes (spadBytes b (place u) (accessSize f.ty))))) ∧
      o.swrites = (if f.sc then (unitsOf x f).map fun u =>
        (f.d.toNat, u, BitVec.ofNat 64 (ofBytes (spadBytes b (place u) (accessSize f.ty)))) else [])) ∧
  (∀ (s : State) (o : Outstanding) (w : Warp),
    s.outs.find? (·.id == o.id) = some o → findWarp s o.warp = some w → (∀ b, findBlock s w.block = some b → b.saving = false) →
    o.need = 0 → o.deq = none → o.inv = none → o.data = [] → o.conds = [] → o.swrites = [] → o.bytes = [] → o.acquire = none →
    (o.vwrites.map fun v => (v.1, v.2.1)).Nodup → (∀ v ∈ o.vwrites, v.2.1 < 32) →
    (∀ m ∈ o.vmarks, lane (w.readV m.1) m.2.1 = m.2.2) →
    Becomes (exec (.memoryResponse o.id) s) fun t => ∃ w',
      t = { s with warps := (setWarp s w').warps, outs := s.outs.filter (·.id != o.id), blocks := t.blocks } ∧
      (∀ id, findBlock t id = findBlock s id) ∧
      (∀ v ∈ o.vwrites, lane (w'.readV v.1) v.2.1 = v.2.2) ∧
      (∀ r, (∀ v ∈ o.vwrites, v.1 ≠ r) → w'.readV r = w.readV r) ∧
      (∀ m, w'.flag m = if o.flag = some m then w.flag m - 1 else w.flag m) ∧
      w'.groups = w.groups.map (fun g => if g.wait = .access o.id then { g with wait := .none } else g) ∧
      w' = { w with v := w'.v, vclock := w'.vclock, vstamp := w'.vstamp, f := w'.f, groups := w'.groups })

namespace Sys2Proof.Spec

/-- Byte `k` of a line that the L2 of a core's die gives a load of the core that wants some of its bytes: the L2's own where the
line is there with all of them valid, filled since the core's last acquire of device scope; else the line is filled from the home,
but for its dirty bytes (04/R62-R63, 07/R140). -/
def throughL2 (s : State) (core line : Nat) (want : Nat → Bool) (k : Nat) : Byte :=
  match l2Line s (core / 96) line with
  | some l =>
    let hit := (List.range 128).all (fun i => !want i || bit l.valid i) && decide (tabGet 0 s.acq core ≤ l.fill)
    if hit || bit l.dirty k then l.data.extractLsb' (8 * k) 8 else homeByte s (line + k)
  | none => homeByte s (line + k)

/-- The byte that a load of a core finds (04/R69, R71): the L1's, which a bypassing load takes only where it is dirty. -/
def loadedByte (s : State) (core : Nat) (bypass : Bool) (line : Nat) (need : Nat → Bool) (k : Nat) : Byte :=
  match l1Line s core line with
  | some l => if bypass && !bit l.dirty k then throughL2 s core line (fun i => need i && !bit l.dirty i) k
      else l.data.extractLsb' (8 * k) 8
  | none => throughL2 s core line need k

/-- The bytes of a raw access of every unit, in one line of HBM: aligned, in the place that the record gives them, and through
the checks of 03/R49. -/
def RawAccess (s : State) (x : Exe) (f : Fields) (c : Ctx) (need : Need) (line : Nat) (xl : Nat → Nat → Xlat) : Prop :=
  let r := recordOf s x.w.block f.a.toNat
  r.fmt = 0xFF ∧ r.oobf = false ∧ r.oobz = false ∧ bits f.md 1 0 = 0 ∧ tiedFlag x.g f = none ∧ s.cmds = [] ∧
  findCtx s x.w.ctx = some c ∧ c.seals = [] ∧
  ∀ u ∈ unitsOf x f, unitAddr s x f u % (accessSize f.ty : Int) = 0 ∧
    ∀ i < accessSize f.ty, checkByte s c need (r.elem (unitAddr s x f u + (i : Int))).va = .ok (xl u i) ∧
      isHbm (xl u i).pa = true ∧ lineOf (xl u i).pa = line

end Sys2Proof.Spec

/-- R198-R202, R69, R71: a raw load of bytes of one line: each lane or slice takes the bytes found through the caches; a load
that its L1 answers changes neither memory nor an L2. Nothing but the caches, what lies below them, and the core's L2 counts
changes. -/
def Obligations.Load : Prop :=
  ∀ s w g f c line (xl : Nat → Nat → Xlat), Issues s w g f →
    let x := exeOf s w g f
    let r := recordOf s w.block f.a.toNat
    RawAccess s x f c needLoad line xl → g.replay = [] → r.bad f.ty false = false → badRead s line = none →
    (∀ l, l1Line s w.core line = some l → r.bypass = false →
      ∀ u ∈ unitsOf x f, ∀ i < accessSize f.ty, bit l.valid ((xl u i).pa % 128) = true) →
    let need := fun k => (unitsOf x f).any fun u => (List.range (accessSize f.ty)).any fun i => (xl u i).pa % 128 == k
    ∃ b w', Retires (exec (.ld f) s) b w' g ∧
      Lands f x w w' (fun u => ofBytes ((List.range (accessSize f.ty)).map fun i =>
        loadedByte s w.core r.bypass line need ((xl u i).pa % 128))) ∧
      w' = onlyRegisters { x.w with peerGot := [] } w' ∧
      b = { onlyCaches (popped s w f) b with nextId := s.nextId + 1, l2cnt := b.l2cnt } ∧
      (l1Line s w.core line ≠ none → r.bypass = false → b.mem = s.mem ∧ b.l2 = s.l2)

/-- R198-R203, R69: a raw store of bytes of one line puts them in the L1 of its core, valid and dirty, a later lane's winning;
where the line is there already, neither memory nor an L2 changes. -/
def Obligations.Store : Prop :=
  ∀ s w g f c line (xl : Nat → Nat → Xlat), Issues s w g f →
    let x := exeOf s w g f
    let r := recordOf s w.block f.a.toNat
    RawAccess s x f c needStore line xl → r.bad f.ty true = false → r.bypass = false →
    Effect (exec (.st f) s) fun t =>
      findWarp t w.id = some ({ x.w with peerGot := [] }.setGroup g.next) ∧
      t = { onlyCaches (popped s w f) t with nextId := s.nextId + 1, warps := t.warps, last := .retired } ∧
      (unitsOf x f ≠ [] → ∃ l, l1Line t w.core line = some l ∧ ∀ k < 128,
        match ((unitsOf x f).flatMap fun u => (List.range (accessSize f.ty)).map fun i => (u, i)).reverse.find?
            (fun p => (xl p.1 p.2).pa % 128 == k) with
        | some p => bit l.valid k = true ∧ bit l.dirty k = true ∧
            (l.data.extractLsb' (8 * k) 8 : Byte) = byteOf (unitData x f f.d.toNat p.1) p.2
        | none => match l1Line s w.core line with
          | some o => bit l.valid k = bit o.valid k ∧ bit l.dirty k = bit o.dirty k ∧
              (l.data.extractLsb' (8 * k) 8 : Byte) = o.data.extractLsb' (8 * k) 8
          | none => bit l.valid k = false ∧ bit l.dirty k = false) ∧
      (l1Line s w.core line ≠ none → t.mem = s.mem ∧ t.l2 = s.l2)

namespace Sys2Proof.Spec

/-- The new value of an atomic (09/R205): sums that wrap or are rounded to nearest even, the lesser and the greater, bitwise
operations, exchange, and compare and swap. -/
def AtomicUpdate (f : Fields) (n : Nat) (old a swp y : BitVec n) : Prop :=
  let fp := f.ty = .f32 ∨ f.ty = .f16x2 ∨ f.ty = .bf16x2
  let g := { f with md := 0 }
  let le := if f.ty = .s32 ∨ f.ty = .s64 then old.sle a else old.ule a
  match f.sub.toNat with
  | 0 => if fp then FloatElements g (roundedBy g fun p q _ => addVal 0 p q) n old a 0 0 y else y = old + a
  | 1 => if fp then FloatElements g (fun F p q _ => lesser g false F p q) n old a 0 0 y else y = if le then old else a
  | 2 => if fp then FloatElements g (fun F p q _ => lesser g true F p q) n old a 0 0 y else y = if le then a else old
  | 3 => y = old &&& a
  | 4 => y = old ||| a
  | 5 => y = old ^^^ a
  | 6 => y = a
  | _ => y = if old = a then swp else old

end Sys2Proof.Spec

/-- R205-R207, R151: `atom` returns the old value and `red` does not, and both store the new one: in the scratchpad, for lanes
whose places do not overlap; and at the home, for one lane at device or system scope on a line that no cache near holds. No
other byte changes. -/
def Obligations.Atomics : Prop :=
  ∀ (s : State) (w : Warp) (g : Group) (f : Fields) (b : Block) (c : Ctx),
    Issues s w g f → findBlock s w.block = some b → findCtx s w.ctx = some c → s.cmds = [] → bits f.md 1 0 = 0 →
    tiedFlag g f = none → (atomTypes f.sc f.sub.toNat).contains f.ty = true →
    let x := exeOf s w g f
    let n := accessSize f.ty
    let W := tyWidth f.ty
    let New := fun (u old : Nat) (y : BitVec W) => AtomicUpdate f W (BitVec.ofNat W old) (BitVec.ofNat W (unitData x f f.d.toNat u))
      (BitVec.ofNat W (unitData x f (f.d.toNat + 1) u)) y
    (bit f.a 3 = true → ∀ place : Nat → Bool × Nat,
      (∀ u ∈ unitsOf x f, spadPlace b w.core (unitAddr s x f u) n = some (place u) ∧ unitAddr s x f u % (n : Int) = 0) →
      (∀ u ∈ unitsOf x f, ∀ v ∈ unitsOf x f, u ≠ v →
        (place u).1 ≠ (place v).1 ∨ (place u).2 + n ≤ (place v).2 ∨ (place v).2 + n ≤ (place u).2) →
      let old := fun u => ofBytes (spadBytes b (place u) n)
      let Stored := fun (t : State) => ∃ b', findBlock t w.block = some b' ∧
        (∀ u ∈ unitsOf x f, ∃ y, New u (old u) y ∧ spadBytes b' (place u) n = toBytes n y.toNat) ∧
        (∀ follower off, (∀ u ∈ unitsOf x f, (place u).1 ≠ follower ∨ off < (place u).2 ∨ (place u).2 + n ≤ off) →
          spadByte b' follower off = spadByte b follower off)
      (∃ t w', Retires (exec (.atom f) s) t w' g ∧ Lands f x w w' old ∧ w' = onlyRegisters x.w w' ∧ Stored t) ∧
      (∃ t, Retires (exec (.red f) s) t x.w g ∧ Stored t)) ∧
    (bit f.a 3 = false → 4 ≤ bits f.a 2 0 → ∀ u y, unitsOf x f = [u] → unitAddr s x f u % (n : Int) = 0 →
      checkBytes s c { needAtomic with peer := bits f.a 2 0 != 4 } (toBits 64 (unitAddr s x f u)).toNat n = .ok y →
      let pa := ((y.head?.map (·.pa)).getD 0)
      isHbm pa = true → (∀ i < n, busyGroup s (pa + i) = false) → badRead s pa = none →
      l1Line s w.core pa = none → l2Line s (w.core / 96) pa = none →
      let old := ofBytes (homeBytes s pa n)
      let Stored := fun (t : State) => (∃ y, New u old y ∧ homeBytes t pa n = toBytes n y.toNat) ∧
        ∀ q, q < pa ∨ pa + n ≤ q → homeByte t q = homeByte s q
      (∃ t w', Retires (exec (.atom f) s) t w' g ∧ Lands f x w w' (fun _ => old) ∧ w' = onlyRegisters x.w w' ∧ Stored t) ∧
      (∃ t, Retires (exec (.red f) s) t x.w g ∧ Stored t))

/-! ### Cells (07/R156-R160, 09/R208-R209) -/

namespace Sys2Proof.Spec

/-- One operation on a cell (07/R157-R159): the cell afterwards, the outcome code, and the value returned. A generation that is
not the cell's is stale (2) or in the future (3), whichever is nearer on the ring of 65,535 generations. -/
def cellRule (c : Cell) (kind : Nat) (g : W16) (x : BitVec 128) : Cell × Nat × BitVec 128 :=
  let ahead := (g.toNat + 65535 - c.gen.toNat) % 65535
  if g = 0 then (c, 2, 0)
  else if ahead ≠ 0 then (c, if ahead ≤ 32767 then 3 else 2, 0)
  else match kind, c.decided with
    | 0, false => ({ decided := true, gen := c.gen, value := x }, 0, x)
    | 0, true => (c, 1, c.value)
    | 1, true => (c, 5, c.value)
    | 1, false => (c, 4, 0)
    | _, true => ({ decided := false, gen := if c.gen = 0xFFFF then 1 else c.gen + 1, value := 0 }, 6, 0)
    | _, false => (c, 7, 0)

end Sys2Proof.Spec

/-- R208-R209, R157-R160: `cellp`, `cellr` and `cellc` send one operation for each enabled lane, in lane order, and wait; an
operation performed at the cell's home changes that cell alone, and its answer joins the access. -/
def Obligations.Cells : Prop :=
  (∀ (s : State) (w : Warp) (g : Group) (f : Fields) (c : Ctx) (xs : Nat → List Xlat),
    Issues s w g f → findCtx s w.ctx = some c → tiedFlag g f = none → s.cellCopies = [] →
    (∀ o ∈ s.outs, o.warp = w.id → o.need = 0) →
    let x := exeOf s w g f
    x.en ≠ 0 →
    let va := fun L => (toBits 64 (laneAddr s x f L)).toNat
    let pa := fun L => ((xs L).head?.map (·.pa)).getD 0
    let reg := fun n L => lane (x.src.readV n) L
    let d := f.d.toNat
    ∀ p ∈ [(0, Instr.cellp f), (1, Instr.cellr f), (2, Instr.cellc f)],
      (∀ L ∈ lanesOf x.en, va L % 16 = 0 ∧ isHbm (pa L) = true ∧ (granuleOf s (pa L)).isSome = true ∧
        checkBytes s c { perm := if p.1 = 1 then 1 else 2, cell := true, acc := 6, writes := p.1 == 0 } (va L) 16 = .ok (xs L)) →
      Effect (exec p.2 s) fun t =>
        findWarp t w.id = some (x.w.setGroup { g.next with wait := .access s.nextId }) ∧
        t.cellOps = s.cellOps ++ (lanesOf x.en).mapIdx fun i L =>
          { id := s.nextId + 1 + i, pa := pa L, kind := p.1, gen := (reg f.a.toNat L).extractLsb' 0 16
            x := if p.1 = 0 then reg (d + 3) L ++ reg (d + 2) L ++ reg (d + 1) L ++ reg d L else 0
            out := s.nextId, lane := L, d, a := f.a.toNat, core := w.core }) ∧
  (∀ (s : State) (o : CellOp), s.cellOps.find? (·.id == o.id) = some o →
    (s.cellOps.filter fun p => p.out == o.out && p.pa / 16 == o.pa / 16) = [o] →
    let r := cellRule (cellAt s o.pa) o.kind o.gen o.x
    let ends := r.2.1 = 0 ∨ r.2.1 = 1 ∨ r.2.1 = 5
    Becomes (exec (.cellOpAtHome o.id) s) fun t =>
      cellAt t o.pa = r.1 ∧ (∀ pa, pa / 16 ≠ o.pa / 16 → cellAt t pa = cellAt s pa) ∧
      t.cellOps = s.cellOps.filter (·.id != o.id) ∧
      t.outs = updWhere (·.id == o.out) (fun a => { a with
        need := a.need - 1, acquire := if ends then some .system else a.acquire
        vwrites := a.vwrites ++ (o.a, o.lane, BitVec.ofNat 32 (o.gen.toNat + r.2.1 * 65536)) ::
          (if o.kind = 2 then [] else (List.range 4).map fun i => (o.d + i, o.lane, r.2.2.extractLsb' (32 * i) 32)) }) s.outs ∧
      t = { s with cells := t.cells, cellOps := t.cellOps, outs := t.outs, cellCopies := t.cellCopies })

/-! ### Prefetch, maintenance, seals and retention (09/R210-R218) -/

namespace Sys2Proof.Spec

/-- The ways that a die's registers reserve are free of unreserved lines, of which the least recently used have gone and no other
line of the L2 (25/R442, 04/R67). -/
def RoomMade (s t : State) (die : Nat) : Prop :=
  let free := fun ls : List CacheLine => ls.filter (·.rtn.isNone)
  (∀ p ∈ t.l2, p.1 / 32768 = die →
    (free p.2).length ≤ 32 - 2 * reservedWays t die ∧ halvesOf (free p.2) ≤ 32 - 2 * reservedWays t die) ∧
  ∀ k, free (tabGet [] t.l2 k) <:+ free (tabGet [] s.l2 k) ∧
    (tabGet [] t.l2 k).filter (·.rtn.isSome) = (tabGet [] s.l2 k).filter (·.rtn.isSome) ∧
    (k / 32768 ≠ die → tabGet [] t.l2 k = tabGet [] s.l2 k)

/-- What a group instruction answers in the slices with an enabled lane (09/R211): sD, if it has one, and c0.Z. -/
def Answers (f : Fields) (x : Exe) (w w' : Warp) (v : Option W64) (z : Option Bool) : Prop :=
  (∀ j r, w'.readS j r = match v with
    | some v => if x.slices.contains j ∧ r = f.d.toNat ∧ r ≠ 0 then v else w.readS j r
    | none => w.readS j r) ∧
  (∀ j r, (w'.slice j).readC r = match z with
    | some z => if x.slices.contains j ∧ r = 0 then { (w.slice j).readC 0 with z } else (w.slice j).readC r
    | none => (w.slice j).readC r) ∧
  (∀ j, OnlyS { w.slice j with c := (w'.slice j).c } (w'.slice j))

/-- A group instruction retires with its answer and no other effect on its warp. -/
def AnswersOnly (o : Host.Outcome State Fault Refusal) (base : State) (w : Warp) (g : Group) (f : Fields) (x : Exe) (v : Option W64)
    (z : Option Bool) : Prop :=
  ∃ w', Retires o base w' g ∧ Answers f x w w' v z ∧ w' = { x.w with slices := w'.slices }

/-- A warp of a context when a seal is over: a group that waits for it goes on. -/
def sealOver (ctx h : Nat) (w : Warp) : Warp :=
  if w.ctx = ctx then
    { w with groups := w.groups.map fun g => if g.wait = .seal ctx h then { g with wait := .none } else g }
  else w

/-- The first handle or number, of `n`, that is not in use. -/
def IsFirstFree (n : Nat) (used : Nat → Bool) (h : Nat) : Prop := h < n ∧ used h = false ∧ ∀ i < h, used i = true

end Sys2Proof.Spec

/-- R210, R211-R213, R154: `pref` changes no register; `cclean`, `cinv` and `cdisc` give c0.Z = 0; afterwards no line of the range
is dirty (`cclean`), or held at all, in the core's L1 and its die's L2; the dirty bytes of an L2 line reach the home, but for
those in the range that `cdisc` discards. -/
def Obligations.CacheMaintenance : Prop :=
  ∀ (s : State) (w : Warp) (g : Group) (f : Fields) (c : Ctx), Issues s w g f → findCtx s w.ctx = some c →
    let x := exeOf s w g f
    (∃ b, Retires (exec (.pref f) s) b x.w g ∧ b = onlyCaches (popped s w f) b) ∧
    (x.slices ≠ [] →
      let va := (x.s f.a.toNat).toNat
      let len := rangeLen x f
      (len = 0 ∨ va + len ≤ 2 ^ 56) →
      ∀ p ∈ [(0, Instr.cclean f), (1, Instr.cinv f), (2, Instr.cdisc f)], ∀ pieces,
        presentPages s c { perm := if p.1 = 2 then 2 else 1, anyCell := true, acc := if p.1 = 2 then 1 else 0 } (rangePages va len)
          = .ok pieces →
        ∃ b, AnswersOnly (exec p.2 s) b w g f x none (some false) ∧ b = onlyCaches (popped s w f) b ∧
          (∀ q ∈ pieces, isHbm q.1 = true → ∀ l ∈ pieceLines q.1 q.2,
            if p.1 = 0 then
              (∀ y, l1Line b w.core l.1 = some y → y.dirty = 0) ∧ (∀ y, l2Line b (w.core / 96) l.1 = some y → y.dirty = 0)
            else l1Line b w.core l.1 = none ∧ l2Line b (w.core / 96) l.1 = none) ∧
          (∀ q line m y, pieces = [q] → isHbm q.1 = true → pieceLines q.1 q.2 = [(line, m)] →
            l1Line s w.core line = none → l2Line s (w.core / 96) line = some y →
            ∀ k < 128, busyGroup s (line + k) = false →
              homeByte b (line + k) = if bit y.dirty k && !(p.1 == 2 && bit m k) then y.data.extractLsb' (8 * k) 8
                else homeByte s (line + k)))

/-- R214-R218, 04/R65, R68, R80, 25/R442: seals and retention registers: the lowest free handle or number, −1 and c0.Z = 1 where there is
none or the operands do not allow it; a pin evicts what stands in the ways it reserves; `SEAL_COMPLETE`, once no store to the range
is on its way, empties every L2 of its lines, drops the cell copies of the range, completes the seal and lets its warps go on. -/
def Obligations.SealsAndPins : Prop :=
  (∀ (s : State) (w : Warp) (g : Group) (f : Fields) (c : Ctx), Issues s w g f → findCtx s w.ctx = some c →
    let x := exeOf s w g f
    x.slices ≠ [] →
    let va := (x.s f.a.toNat).toNat
    let h := (x.s f.a.toNat).toNat
    let len := rangeLen x f
    let sealed := fun h => c.seals.any (·.handle == h)
    let die := w.core / 96
    let size := (x.s f.b.toNat).toNat
    let ways := bits f.imm 3 0
    let used := fun n => s.rtn.any fun r => r.die == die && r.num == n
    let allowed := va % 65536 = 0 ∧ size % 65536 = 0 ∧ size ≠ 0 ∧ size ≤ 2 ^ 32 ∧ reservedWays s die + ways ≤ 12
    (va + len ≤ 2 ^ 56 → ∀ h, len ≠ 0 → IsFirstFree 16 sealed h →
      ∃ w' b, exec (.sealRange f) s = .next { setWarp b (w'.setGroup { g.next with wait := .seal c.slot h }) with last := .retired } ∧
        b = setCtx (popped s w f) { c with seals := { handle := h, va, len, complete := false } :: c.seals } ∧
        Answers f x w w' (some (BitVec.ofNat 64 h)) (some false) ∧ w' = { x.w with slices := w'.slices }) ∧
    (len = 0 ∨ (va + len ≤ 2 ^ 56 ∧ ∀ h < 16, sealed h = true) →
      AnswersOnly (exec (.sealRange f) s) (popped s w f) w g f x (some (BitVec.allOnes 64)) (some true)) ∧
    (sealed h = true → ∃ w', Answers f x w w' none (some false) ∧
      w' = { x.w with slices := w'.slices, groups := (sealOver c.slot h x.w).groups } ∧
      Retires (exec (.unsealRange f) s) { setCtx (popped s w f) { c with seals := c.seals.filter (·.handle != h) } with
        warps := s.warps.map (sealOver c.slot h) } w' g) ∧
    (sealed h = false → AnswersOnly (exec (.unsealRange f) s) (popped s w f) w g f x none (some true)) ∧
    (allowed → ∀ n, IsFirstFree 8 used n →
      ∃ b, AnswersOnly (exec (.pin f) s) b w g f x (some (BitVec.ofNat 64 n)) (some false) ∧ ∃ word : W64,
        b = { onlyCaches (popped s w f) b with rtn := { die, num := n, ctx := w.ctx, word } :: s.rtn } ∧
        b.l1 = s.l1 ∧ b.fillNo = s.fillNo ∧ b.cellCopies = s.cellCopies ∧ RoomMade s b die ∧
        bit word 63 = true ∧ bits word 62 59 = ways ∧ (bits word 55 40 + 1) * 65536 = size ∧ bits word 39 0 * 65536 = va % 2 ^ 56) ∧
    (¬ allowed ∨ (∀ n < 8, used n = true) →
      AnswersOnly (exec (.pin f) s) (popped s w f) w g f x (some (BitVec.allOnes 64)) (some true)) ∧
    ((s.rtn.any fun r => r.die == die && r.ctx == w.ctx && r.num == va) = true →
      ∃ b, AnswersOnly (exec (.unpin f) s) b w g f x none (some false) ∧ b = { popped s w f with rtn := b.rtn, l2 := b.l2 } ∧
        b.rtn = s.rtn.filter fun r => !(r.die == die && r.num == va)) ∧
    ((s.rtn.any fun r => r.die == die && r.ctx == w.ctx && r.num == va) = false →
      AnswersOnly (exec (.unpin f) s) (popped s w f) w g f x none (some true))) ∧
  (∀ (s : State) (c : Ctx) (l : Seal), findCtx s c.slot = some c → c.seals.find? (fun l' => l'.handle == l.handle && !l'.complete) = some l →
    let pages := (rangePages l.va l.len).filterMap fun p => match lookup s c p.1 0 with
      | .ok y => some (y.pa, p.2)
      | .error _ => none
    (storesOnWay s c l.va l.len pages = true → exec (.sealComplete c.slot l.handle) s = .next s) ∧
    (storesOnWay s c l.va l.len pages = false → Becomes (exec (.sealComplete c.slot l.handle) s) fun t =>
      t = { onlyCaches s t with ctxs := t.ctxs, warps := t.warps } ∧
      findCtx t c.slot = some { c with seals := updWhere (·.handle == l.handle) (fun l => { l with complete := true }) c.seals } ∧
      (∀ p ∈ pages, isHbm p.1 = true → ∀ q ∈ pieceLines p.1 p.2, ∀ die < 4, l2Line t die q.1 = none) ∧
      t.cellCopies = (s.cellCopies.filter fun k => pages.all fun p => k.pa + 16 ≤ p.1 || p.1 + p.2 ≤ k.pa) ∧
      t.warps = s.warps.map (sealOver c.slot l.handle)))

/-! ### Copies and check-outs (10/R219-R236) -/

namespace Sys2Proof.Spec

/-- A copy command is issued (10/R220-R221): it joins the commands and the open batch; tied, its flag rises, else its group
waits. Nothing has moved yet. -/
def CopyIssued (o : Host.Outcome State Fault Refusal) (s : State) (w : Warp) (g : Group) (f : Fields) (kind : CopyKind)
    (P : State → Warp → Prop) : Prop :=
  Effect o fun t => ∃ k w', t.cmds = s.cmds ++ [k] ∧ k.id = s.nextId ∧ k.warp = w.id ∧ k.block = w.block ∧ k.ctx = w.ctx ∧
    k.core = w.core ∧ k.kind = kind ∧ k.flag = tiedFlag g f ∧ k.progress = 0 ∧ findWarp t w.id = some w' ∧
    w'.openBatch = w.openBatch ++ [s.nextId] ∧ (∀ m, w'.flag m = if tiedFlag g f = some m then w.flag m + 1 else w.flag m) ∧
    w'.groups = (w.setGroup { g.next with wait := if tiedFlag g f = none then .copy s.nextId else g.wait }).groups ∧
    t.mem = s.mem ∧ t.l1 = s.l1 ∧ t.l2 = s.l2 ∧ P t w'

/-- Its flag has room, and so has the warp's list of commands (10/R220). -/
def CopyRoom (s : State) (w : Warp) (g : Group) (f : Fields) : Prop :=
  (∀ n, tiedFlag g f = some n → w.flag n < 15) ∧ (s.cmds.filter (·.warp == w.id)).length < 32

end Sys2Proof.Spec

/-- R219-R222, R225-R231: `cpy`, `cpyq`, `chko` and `chki` issue their commands where the offsets lie in the scratchpad and the
records are sound; a `cpy` of no bytes does nothing; `chko` takes the lowest free handle and answers −1 without one; `chki` of an
unknown handle answers c0.Z = 1. -/
def Obligations.CopyIssue : Prop :=
  ∀ (s : State) (w : Warp) (g : Group) (f : Fields) (b : Block), Issues s w g f → findBlock s w.block = some b → CopyRoom s w g f →
    let x := exeOf s w g f
    let reg := fun i => x.s (f.c.toNat + i)
    let src := x.s f.a.toNat
    let dst := x.s f.d.toNat
    (boxRange b w.core (bit f.sub 0) (srcBox src (reg 0) (reg 1)) = .ok () →
      boxRange b w.core (bit f.sub 1) (dstBox dst (reg 0) (reg 2)) = .ok () →
      (bits (reg 0) 31 0 = 0 → Retires (exec (.cpy f) s) (popped s w f) x.w g) ∧
      (bits (reg 0) 31 0 ≠ 0 → CopyIssued (exec (.cpy f) s) s w g f
        (.cpy (bit f.sub 0) (bit f.sub 1) (bit f.md 3) dst src (reg 0) (reg 1) (reg 2)) fun _ w' => w'.slices = w.slices)) ∧
    (let rec_ := fun n => recordOf s w.block n
      let row := f.b.toNat
      let col := bits f.imm 7 0
      let ntx := bits f.imm 15 8
      let nty := bits f.imm 23 16
      bits dst 31 0 % 32 = 0 → bits dst 63 32 % 32 = 0 → cpyqBad (rec_ f.a.toNat) (rec_ row) (rec_ col) = none →
      (bit f.sub 1 = true → tileRange b w.core (rec_ f.a.toNat) (cpyqElems dst ntx nty) = .ok ()) →
      (bit f.sub 0 = true → tileRange b w.core (rec_ row) (cpyqElems dst ntx nty) = .ok () ∧
        tileRange b w.core (rec_ col) (cpyqElems dst ntx nty) = .ok ()) →
      CopyIssued (exec (.cpyq f) s) s w g f (.cpyq (bit f.sub 1) (bit f.sub 0) (bit f.md 3) dst f.a.toNat row col ntx nty)
        fun _ w' => w'.slices = w.slices) ∧
    (let len := rangeLen x f
      let off := (reg 0).toNat
      let used := fun h => b.outs.any (·.handle == h)
      boxRange b w.core true { base := off, nx := len, ny := 1, nz := 1, sy := 0, sz := 0 } = .ok () →
      (len = 0 ∨ (∀ h < 16, used h = true) →
        AnswersOnly (exec (.chko f) s) (popped s w f) w g f x (some (BitVec.allOnes 64)) (some true)) ∧
      (len ≠ 0 → ∀ h, IsFirstFree 16 used h →
        CopyIssued (exec (.chko f) s) s w g f (.chko h (bit f.sub 1)) fun t w' =>
          Answers f x w w' (some (BitVec.ofNat 64 h)) (some false) ∧
          ∃ b', findBlock t w.block = some b' ∧
            b'.outs = { handle := h, excl := bit f.sub 0, va := src.toNat, len, off, complete := false, cmd := s.nextId } :: b.outs)) ∧
    (∀ p ∈ [(false, Instr.chki f), (true, Instr.chkiDrop f)],
      (∀ o, b.outs.find? (fun o => o.handle == src.toNat) = some o →
        CopyIssued (exec p.2 s) s w g f (.chki o.cmd p.1) fun _ w' => Answers f x w w' none (some false)) ∧
      (b.outs.find? (fun o => o.handle == src.toNat) = none → AnswersOnly (exec p.2 s) (popped s w f) w g f x none (some true)))

namespace Sys2Proof.Spec

/-- `n` bytes of a block's scratchpad from an offset as a number, each byte in its own place (04/R74). -/
def spadNumber (b : Block) (core off n : Nat) : Nat :=
  ofBytes ((List.range n).map fun i => match spadPlace b core ((off + i : Nat) : Int) 1 with
    | some p => spadByte b p.1 p.2
    | none => 0)

/-- Those bytes lie in the block's allocation. -/
def InSpad (b : Block) (core off n : Nat) : Prop := ∀ i < n, (spadPlace b core ((off + i : Nat) : Int) 1).isSome = true

/-- `w` bits at a bit offset of the scratchpad. -/
def spadField (b : Block) (core at_ w : Nat) : Nat :=
  spadNumber b core (at_ / 8) ((at_ % 8 + w + 7) / 8) / 2 ^ (at_ % 8) % 2 ^ w

/-- An untied `dec` writes its elements to vD and the registers after it, 32 to a register, and its offsets (10/R234). -/
def Decodes (o : Host.Outcome State Fault Refusal) (s : State) (w : Warp) (g : Group) (f : Fields) (element : Nat → Nat)
    (offsets : List (Nat × W64)) : Prop :=
  let x := exeOf s w g f
  ∃ w', Retires o (popped s w f) w' g ∧
    (∀ r < immLow f 4, ∀ L < 32, lane (w'.readV (f.d.toNat + r)) L
      = if bit x.en L then BitVec.ofNat 32 (element (32 * r + L)) else lane (w.readV (f.d.toNat + r)) L) ∧
    (∀ r, r < f.d.toNat ∨ f.d.toNat + immLow f 4 ≤ r → w'.readV r = w.readV r) ∧
    (∀ p ∈ offsets, p.1 ≠ 0 → ∀ j, x.slices.contains j = true → w'.readS j p.1 = p.2) ∧
    (∀ j r, (∀ p ∈ offsets, p.1 ≠ r) ∨ x.slices.contains j = false → w'.readS j r = w.readS j r) ∧
    (∀ j, OnlyS (w.slice j) (w'.slice j)) ∧ w' = onlyRegisters x.w w'

/-- The bytes and the elements of a run-length token (10/R235): up to 128 zeros, or up to 128 words. -/
def tokenBytes : Nat ⊕ List W32 → List Byte
  | .inl n => [BitVec.ofNat 8 (n - 1)]
  | .inr vs => BitVec.ofNat 8 (127 + vs.length) :: vs.flatMap fun v => toBytes 4 v.toNat

def tokenWords : Nat ⊕ List W32 → List W32
  | .inl n => List.replicate n 0
  | .inr vs => vs

end Sys2Proof.Spec

/-- R232-R236: `bclose` numbers the open batch; `bwait` goes on once no batch up to its number is left, and tied it goes on at
once with its flag raised; the three forms of `dec`. -/
def Obligations.BatchesAndDec : Prop :=
  ∀ (s : State) (w : Warp) (g : Group) (f : Fields) (b : Block), Issues s w g f → findBlock s w.block = some b → s.cmds = [] →
    let x := exeOf s w g f
    let sa := x.s f.a.toNat
    let sb := x.s f.b.toNat
    let upTo : W16 := if f.bk = .imm then f.imm.setWidth 16 else sb.setWidth 16
    let left := (w.batches.map (·.num)).filter fun n => (upTo - n).toNat < 32768
    let n := immLow f 4
    (w.batches.length < 8 → ∃ w', Retires (exec (.bclose f) s) (popped s w f) w' g ∧
      Answers f x w w' (some ((w.batchNo + 1).setWidth 64)) none ∧
      w' = { x.w with
        slices := w'.slices, batchNo := w.batchNo + 1, openBatch := []
        batches := w.batches ++ if w.openBatch = [] then [] else [⟨w.batchNo + 1, w.openBatch⟩] }) ∧
    (left = [] → (∀ m, tiedFlag g f = some m → w.flag m < 15) → ∃ t, Retires (exec (.bwait f) s) t x.w g ∧
      t = onlyOrder (popped s w f) t ∧ tabGet 0 t.acq w.core = t.fillNo ∧
      ∀ pa y, l1Line t w.core pa = some y → y.valid = y.dirty) ∧
    (left ≠ [] → tiedFlag g f = none →
      exec (.bwait f) s = .next { setWarp s (w.setGroup { g with wait := .stall }) with last := .waited }) ∧
    (left ≠ [] → ∀ m, tiedFlag g f = some m → w.flag m < 15 → ∃ w', Retires (exec (.bwait f) s) (popped s w f) w' g ∧
      (∀ k, w'.flag k = if k = m then w.flag m + 1 else w.flag k) ∧
      w' = { x.w with f := w'.f, bwaits := w.bwaits ++ [(m, left)] }) ∧
    (tiedFlag g f = none →
      (let bw := if bit f.imm 4 then 8 else 4
        let index := fun m => spadField b w.core (sa.toNat + bw * m) bw
        sb.toNat % 4 = 0 →
        (∀ m < 32 * n, InSpad b w.core ((sa.toNat + bw * m) / 8) (((sa.toNat + bw * m) % 8 + bw + 7) / 8) ∧
          InSpad b w.core (sb.toNat + 4 * index m) 4) →
        Decodes (exec (.decLut f) s) s w g f (fun m => spadNumber b w.core (sb.toNat + 4 * index m) 4)
          [(f.a.toNat, sa + BitVec.ofNat 64 (32 * n * bw))]) ∧
      (∀ toks : List (Nat ⊕ List W32), sa.toNat % 8 = 0 → (∀ t ∈ toks, 1 ≤ (tokenWords t).length ∧ (tokenWords t).length ≤ 128) →
        (toks.flatMap tokenWords).length = 32 * n →
        (∀ i < (toks.flatMap tokenBytes).length, InSpad b w.core (sa.toNat / 8 + i) 1 ∧
          spadNumber b w.core (sa.toNat / 8 + i) 1 = ((toks.flatMap tokenBytes).getD i 0).toNat) →
        Decodes (exec (.decRle0 f) s) s w g f (fun m => ((toks.flatMap tokenWords).getD m 0).toNat)
          [(f.a.toNat, BitVec.ofNat 64 (8 * (sa.toNat / 8 + (toks.flatMap tokenBytes).length)))]) ∧
      (let sel := fun q => spadField b w.core (sb.toNat + 4 * q) 4
        let word := fun q i => spadNumber b w.core (sa.toNat / 8 + 8 * q + 4 * i) 4
        sa.toNat % 32 = 0 → sb.toNat % 4 = 0 → f.a ≠ f.b →
        (∀ q < 8 * n, InSpad b w.core ((sb.toNat + 4 * q) / 8) (((sb.toNat + 4 * q) % 8 + 4 + 7) / 8) ∧
          InSpad b w.core (sa.toNat / 8 + 8 * q) 8 ∧ sel q % 4 < sel q / 4) →
        Decodes (exec (.decSp24 f) s) s w g f
          (fun m => if m % 4 = sel (m / 4) % 4 then word (m / 4) 0 else if m % 4 = sel (m / 4) / 4 then word (m / 4) 1 else 0)
          [(f.a.toNat, sa + BitVec.ofNat 64 (512 * n)), (f.b.toNat, sb + BitVec.ofNat 64 (32 * n))]))

namespace Sys2Proof.Spec

/-- The byte of a block's scratchpad at a place. -/
def placeByte (b : Block) (p : Spot2) : Byte := spadByte b (p.1 == .follower) p.2

/-- A wait that the completion of a command ends, `w` being its warp afterwards: for the command itself, or for a batch that has no
command left. -/
def waitOver (cmd : Nat) (w : Warp) : Wait → Bool
  | .copy n => n == cmd
  | .batch n => !(w.batches.map (·.num)).contains n
  | _ => false

/-- What the completion of a command leaves of its warp (10/R221, R232): its flag has fallen, its batches lose it, and the groups
whose waits it ends go on. -/
def CommandOver (k : CopyCmd) (w w' : Warp) : Prop :=
  (∀ m, w'.flag m = if k.flag = some m then w.flag m - 1 else w.flag m) ∧
  w'.groups = w.groups.map (fun g => if waitOver k.id w' g.wait then { g with wait := .none } else g) ∧
  w'.openBatch = w.openBatch.filter (· != k.id) ∧
  w'.batches = (w.batches.map fun b => { b with cmds := b.cmds.filter (· != k.id) }).filter (·.cmds != []) ∧
  w' = { w with f := w'.f, groups := w'.groups, openBatch := w'.openBatch, batches := w'.batches }

end Sys2Proof.Spec

/-- R221, R226, R224, 04/R75-R77: a `cpy` from scratchpad to scratchpad whose destination bytes differ from one another and from
its source bytes moves each byte and completes; a check-in without data releases its check-out; a piece that meets no other is
registered; a check-out conflict kills the block. -/
def Obligations.CopyEvents : Prop :=
  (∀ (s : State) (k : CopyCmd) (b : Block) (c : Ctx) (w : Warp) dst src d0 d1 d2 ef,
    s.cmds = [k] → findBlock s k.block = some b → findCtx s k.ctx = some c → findWarp s k.warp = some w → w.bwaits = [] →
    c.loaded = true → c.halted = false → k.parked = none → k.permit ≠ .waiting → k.conflict = none → k.taint = [] → k.sent = 0 →
    k.progress = 0 → k.kind = .cpy true true ef dst src d0 d1 d2 →
    (∀ i < unitCount b k, ∀ r ∈ copySrc s k, r.holds (moveAt b k i).2.1 (moveAt b k i).2.2 = false) →
    (∀ i < unitCount b k, ∀ j < unitCount b k, (moveAt b k i).2 ≠ (moveAt b k j).1 ∧
      (i ≠ j → (moveAt b k i).2 ≠ (moveAt b k j).2)) →
    Becomes (exec (.copyCommandComplete k.id) s) fun t => t.cmds = [] ∧
      (∃ b', findBlock t k.block = some b' ∧
        (∀ i < unitCount b k, placeByte b' (moveAt b k i).2 = placeByte b (moveAt b k i).1) ∧
        (∀ p : Spot2, p.1 ≠ .memory → (∀ i < unitCount b k, (moveAt b k i).2 ≠ p) → placeByte b' p = placeByte b p)) ∧
      ∃ w', findWarp t k.warp = some w' ∧ CommandOver k w w') ∧
  (∀ (s : State) (k : CopyCmd) (b : Block) (c : Ctx) (w : Warp) (o : CheckOut) n drop,
    s.cmds = [k] → findBlock s k.block = some b → findCtx s k.ctx = some c → findWarp s k.warp = some w → w.bwaits = [] →
    c.loaded = true → c.halted = false → k.parked = none → k.permit ≠ .waiting → k.conflict = none → k.sent = 0 → k.id ≠ n →
    (∀ x ∈ s.outs, x.warp = k.warp → x.need = 0) →
    k.kind = .chki n drop → b.outs.find? (·.cmd == n) = some o → (o.excl = false ∨ drop = true) →
    Becomes (exec (.checkinComplete k.id) s) fun t => t.cmds = [] ∧ t.pieces = s.pieces.filter (·.cmd != n) ∧ (s.l1 = [] → s.l2 = [] → t.mem = s.mem) ∧
      findBlock t k.block = some { b with outs := b.outs.filter (·.cmd != n) } ∧
      ∃ w', findWarp t k.warp = some w' ∧ CommandOver k w w') ∧
  (∀ (s : State) (p : Piece) (k : CopyCmd) (c : Ctx),
    s.pieces = [p] → s.cmds.find? (·.id == p.cmd) = some k → k.conflict = none → findCtx s k.ctx = some c → c.loaded = true →
    c.halted = false → p.held = false →
    Becomes (exec (.checkoutPieceGrant p.id) s) fun t => ∃ q, t.pieces = [q] ∧ q.held = true ∧ t = { onlyOrder s t with pieces := t.pieces } ∧
      q = { p with held := true, arrived := q.arrived }) ∧
  (∀ (s : State) (k : CopyCmd) (b : Block) (c : Ctx) cause,
    s.cmds.find? (·.id == k.id) = some k → findBlock s k.block = some b → b.ended = false → findCtx s k.ctx = some c →
    fltFull s c = false → k.conflict = some cause →
    Becomes (exec (.copyEngineFault k.id) s) fun t =>
      (∀ v ∈ t.warps, v.block ≠ k.block) ∧ (∀ v ∈ t.cmds, v.block ≠ k.block) ∧ ∀ q ∈ t.pieces, q.block ≠ k.block)

/-! ### The access processor (10/R237-R244) -/

namespace Sys2Proof.Spec

/-- The access slice retires an instruction: the warp is `w'`, and nothing else of the package changes. -/
def AccRuns (o : Host.Outcome State Fault Refusal) (s : State) (w' : Warp) : Prop :=
  o = .next { setWarp s w' with last := .retired }

/-- aD receives a value; `pc` and `entry` tell where the slice goes on. -/
def AccSets (o : Host.Outcome State Fault Refusal) (s : State) (w : Warp) (n : Nat) (y : W64) (pc : Nat) (entry : Entry) : Prop :=
  ∃ a, AccRuns o s { w with acc := { w.acc with a, pc, entry } } ∧
    ∀ m, tabGet 0 a m = if m = n then y else tabGet 0 w.acc.a m

/-- The access slice traps: it stops, and the trap waits to be delivered (17/R393). -/
def AccTraps (o : Host.Outcome State Fault Refusal) (s : State) (w : Warp) (cause : Nat) : Prop :=
  o = .next { setWarp s { w with acc := { w.acc with st := .trapped cause (codeAddr w.acc.pc).toNat } } with last := .trapped }

/-- The streams of the queues become those of `S`; the access slice becomes `acc`. -/
def AccStreams (o : Host.Outcome State Fault Refusal) (s : State) (w : Warp) (acc : Access) (S : Nat → Stream) : Prop :=
  ∃ w', AccRuns o s w' ∧ w' = { w with acc, q := w'.q } ∧ ∀ m, queueAt w' m = { queueAt w m with stream := S m }

/-- A stream after its stop: a running one closes once what is in flight has been pushed (10/R238). -/
def stopping (t : Stream) : Stream := if t.st = .running then { t with closing := true } else { st := .closed }

end Sys2Proof.Spec

/-- R244: the scalar instructions of the access slice, and R238-R239: `strm` defines a stream, `srun` starts the defined streams
that it names, `astop` closes one and `astop.all` all of them, which ends the slice. -/
def Obligations.AccessSlice : Prop :=
  ∀ (s : State) (f : Fields) id w, s.cur = .access id → findWarp s id = some w →
    let A := fun n => tabGet 0 w.acc.a n
    let pc := w.acc.pc
    let entry := w.accNext.acc.entry
    let t := fun n => (queueAt w n).stream
    let d := f.d.toNat
    let c := f.c.toNat
    let takes := match f.sub.toNat with
      | 0 => A f.a.toNat == A f.b.toNat
      | 1 => A f.a.toNat != A f.b.toNat
      | 2 => (A f.a.toNat).slt (A f.b.toNat)
      | 3 => !(A f.a.toNat).slt (A f.b.toNat)
      | 4 => (A f.a.toNat).ult (A f.b.toNat)
      | 5 => !(A f.a.toNat).ult (A f.b.toNat)
      | _ => true
    AccSets (exec (.amovi f) s) s w d (f.imm.signExtend 64) (pc + 1) entry ∧
    AccSets (exec (.amoviHi f) s) s w d (f.imm ++ (A d).setWidth 32) (pc + 1) entry ∧
    AccSets (exec (.aadd f) s) s w d (A f.a.toNat + match f.bk with
      | .imm => f.imm.signExtend 64
      | .special => BitVec.ofNat 64 (specialValue s w 0 0 f.b.toNat)
      | _ => A f.b.toNat) (pc + 1) entry ∧
    (A d = 1 → AccSets (exec (.aloop f) s) s w d 0 (pc + 1) entry) ∧
    (takes = false → AccRuns (exec (.abr f) s) s w.accNext) ∧
    (∀ n, slotPlus pc f.imm.toInt = some n →
      (A d ≠ 1 → AccSets (exec (.aloop f) s) s w d (A d - 1) n (.transfer pc)) ∧
      (takes = true → AccRuns (exec (.abr f) s) s { w with acc := { w.acc with pc := n, entry := .transfer pc } })) ∧
    (slotPlus pc f.imm.toInt = none →
      (A d ≠ 1 → AccTraps (exec (.aloop f) s) s w 3) ∧ (takes = true → AccTraps (exec (.abr f) s) s w 3)) ∧
    ((t d).st = .idle ∨ (t d).st = .defined → (recordOf s w.block f.a.toNat).bad f.ty false = false →
      AccStreams (exec (.strm f) s) s w w.accNext.acc fun m => if m = d then
        { st := .defined, record := f.a.toNat, ty := f.ty, md := f.md, laneStride := f.imm, base := A c, counts := A (c + 1)
          d01 := A (c + 2), d23 := A (c + 3) } else t m) ∧
    ((t d).st = .closed → AccTraps (exec (.strm f) s) s w 1) ∧
    ((t d).st = .running →
      exec (.strm f) s = .next { setWarp s { w with acc := { w.acc with wait := .retry } } with last := .waited }) ∧
    ((∀ n < 8, bit f.imm n = true → (t n).st = .defined ∧ (t n).closing = false) →
      AccStreams (exec (.srun f) s) s { w with strQueue := if (List.range 8).any fun n => (t n).st == .running then w.strQueue else 7 } w.accNext.acc
        fun m => if m < 8 ∧ bit f.imm m then
        { t m with st := if (t m).count = 0 then .idle else .running, next := 0, flight := [], parked := none } else t m) ∧
    ((∃ n < 8, bit f.imm n = true ∧ (t n).st ≠ .defined) → AccTraps (exec (.srun f) s) s w 1) ∧
    AccStreams (exec (.astop f) s) s w w.accNext.acc (fun m => if m = d then stopping (t m) else t m) ∧
    AccStreams (exec (.astopAll f) s) s w { w.accNext.acc with st := .ended } (fun m => if m < 8 then stopping (t m) else t m)

/-- R240-R241, R393: a running stream with room issues the loads of its next entry, whose lane L reads element
`index + L × laneStride`, and takes its turn among the streams of its warp and the warps of its core; its oldest entry in flight is pushed, and the last one ends the stream; a trap of the access slice is
taken by the group that would issue next, with every queue closed. -/
def Obligations.StreamEvents : Prop :=
  ∀ (s : State) id w, findWarp s id = some w → unitsRun s w = true →
    (∀ n < 8, ∀ (c : Ctx) q, findCtx s w.ctx = some c →
      let t := (queueAt w n).stream
      let r := recordOf s w.block t.record
      t.st = .running → t.parked = none → t.next < t.count → t.flight.length + (queueAt w n).entries.length < 16 →
      loadElems { s, w := whoOf s w, c, warp := w, g := { slices := 0, pc := 0 }, ef := bit t.md 3 || r.ef, bypass := r.bypass
                  count := true } r t.ty (bit t.md 2)
        ((lanesOf w.activeLanes).map fun L => (L, (toBits 64 (t.index t.next + (L : Int) * t.laneStride.toInt)).toInt)) = .ok q →
      q.1.warps = s.warps →
      ∃ w', exec (.streamEntryIssue id n) s = .next { setWarp q.1 w' with strTurn := tabSet 0 q.1.strTurn w.core id } ∧
        w' = { w with q := w'.q, strQueue := n } ∧
        (∀ m, m ≠ n → queueAt w' m = queueAt w m) ∧
        queueAt w' n = { queueAt w n with stream := { t with
          next := t.next + 1, flight := t.flight ++ [q.2.foldl (fun v u => setLane v u.1 (BitVec.ofNat 32 u.2)) 0] } }) ∧
    (∀ n < 8, ∀ v rest, (queueAt w n).stream.flight = v :: rest → (queueAt w n).entries.length < 16 →
      ∃ w', exec (.streamEntryPush id n) s = .next (setWarp s w') ∧ w' = { w with q := w'.q } ∧
        (∀ m, m ≠ n → queueAt w' m = queueAt w m) ∧ (queueAt w' n).entries = (queueAt w n).entries ++ [v] ∧
        (rest ≠ [] ∨ (queueAt w n).stream.next ≠ (queueAt w n).stream.count →
          (queueAt w' n).stream = { (queueAt w n).stream with flight := rest }) ∧
        (rest = [] → (queueAt w n).stream.next = (queueAt w n).stream.count →
          (queueAt w' n).stream.st = if (queueAt w n).stream.closing then .closed else .idle)) ∧
    (∀ cause code g h, w.acc.st = .trapped cause code → nextGroup w atBoundary = some g → w.hm = false → w.tvec ≠ 0 →
      slotIndex w.tvec = some h →
      ∃ q : Tab Queue, exec (.accessTrapDeliver id) s = .next { setWarp s ({ w with
          q, acc := { w.acc with st := .ended, wait := .none }, tepc := codeAddr g.pc, tinfo := BitVec.ofNat 64 code
          tcause := BitVec.ofNat 64 (2 ^ 8 + cause % 256), handler := g.slices
          runs := g.slices }.setGroup { g with
            pc := h, wait := .none, entry := .transfer g.pc, replay := [], part := 0 }) with last := .trapped } ∧
        ∀ n < 8, tabGet {} q n = { queueAt w n with stream := stopping (queueAt w n).stream })

/-! ### The matrix engine (13/R280-R310, R462) -/

namespace Sys2Proof.Spec

/-- What a quad instruction needs to issue (13/R280-R281): a pair-block, a warp of a complete quad, not parted. -/
def QuadIssues (s : State) (w : Warp) (g : Group) (f : Fields) (b : Block) : Prop :=
  Issues s w g f ∧ findBlock s w.block = some b ∧ b.pair = true ∧ w.idx < 16 ∧ w.parted = false ∧ g.frag = none ∧
  ∃ l, findLaunch s b.launch = some l ∧ w.idx / 4 * 4 + 4 ≤ l.nwarp

/-- The warp's quad holds the baton, or is no member of its pair's ring (13/R310). -/
def MayUse (s : State) (w : Warp) : Prop :=
  (w.block, w.idx / 4) ∈ (tabGet {} s.pairs (w.core / 2)).ring →
    (tabGet {} s.pairs (w.core / 2)).ring.head? = some (w.block, w.idx / 4)

/-- Another warp of the quad has issued nothing that waits for its fellows. -/
def QuadMissing (s : State) (w : Warp) : Prop :=
  ∃ i < 4, i ≠ w.idx % 4 ∧ ∀ v ∈ s.warps, v.block = w.block → v.idx = w.idx / 4 * 4 + i → v.quadQ = []

/-- A warp issues its part of a joint operation that is not formed yet (13/R281): tied, its flag rises and it goes on, else it
waits; only its registers that the operation will write may change. -/
def QuadIssued (o : Host.Outcome State Fault Refusal) (s : State) (w : Warp) (g : Group) (f : Fields) (i : Instr)
    (flag : Option Nat) : Prop :=
  let x := exeOf s w g f
  Effect o fun t => t.ops = s.ops ∧ t.z = s.z ∧ t.mem = s.mem ∧ ∃ w' q, findWarp t w.id = some w' ∧
    w'.quadQ = w.quadQ ++ [q] ∧ q.instr = i ∧ q.seq = w.quadSeq ∧ q.tied = flag ∧ q.pc = g.pc ∧
    (flag = none → q.marks = []) ∧ (∀ m, w'.flag m = if flag = some m then w.flag m + 1 else w.flag m) ∧
    (∀ r, (∀ m ∈ q.marks, m.1 ≠ r) → w'.readV r = w.readV r) ∧
    w' = { x.w.setGroup { g.next with wait := if flag = none then .joint w.block (w.idx / 4) w.quadSeq else g.wait } with
      v := w'.v, vclock := w'.vclock, vstamp := w'.vstamp, f := w'.f, quadSeq := w.quadSeq + 1, quadQ := w'.quadQ }

end Sys2Proof.Spec

/-- R280-R281, R286, R292, R296, R309-R310: the matrix instructions at issue. -/
def Obligations.MatrixIssue : Prop :=
  (∀ s w g f b, QuadIssues s w g f b → QuadMissing s w →
    let x := exeOf s w g f
    let af := bits (ownFmt x.w) 7 0
    let bf := bits (ownFmt x.w) 15 8
    (∀ i ∈ [Instr.batonJoin f, Instr.batonTake f, Instr.batonPass f], QuadIssued (exec i s) s w g f i none) ∧
    (MayUse s w →
      (∀ i ∈ [Instr.zclr f, Instr.atbl f], QuadIssued (exec i s) s w g f i none) ∧
      ((∀ n, tiedFlag g f = some n → w.flag n < 15) →
        QuadIssued (exec (.drain f) s) s w g f (.drain f) (tiedFlag g f) ∧
        (27 < af ∨ 27 < bf ∨ f.a.toNat + aRegs af bf ≤ w.limit →
          QuadIssued (exec (.mma f) s) s w g f (.mma f) (tiedFlag g f)))) ∧
    (¬ MayUse s w → exec (.zclr f) s = .next { setWarp s (w.setGroup { g with wait := .stall }) with last := .waited })) ∧
  (∀ s w g f b, Issues s w g f → findBlock s w.block = some b → b.pair = true →
    let x := exeOf s w g f
    let val := fun j => if f.bk = .imm then f.imm else (x.src.readS j f.b.toNat).setWidth 32
    let mine := fun j => bit g.slices j && (w.slice j).active != 0
    let good := ∀ j < 8, mine j = true → bits (val j) 31 16 = 0 ∧ bits (val j) 15 8 ≤ 27 ∧ bits (val j) 7 0 ≤ 27
    (good → ∃ w', Retires (exec (.fmtset f) s) (popped s w f) w' g ∧ w' = { x.w with slices := w'.slices } ∧
      ∀ j < 8, w'.slice j = if mine j then { w.slice j with fmt := val j } else w.slice j) ∧
    (¬ good → TakesTrap (exec (.fmtset f) s) s w g 1 0 g.word.toNat (codeAddr g.pc)) ∧
    Retires (exec (.opfence f) s) (popped s w f) { x.w with opf := some (w.vclock, spadBefore s w b) } g ∧
    ((∀ n, tiedFlag g f = some n → w.flag n < 15) →
      let lead := w.core / 2 * 2
      let sa := x.s f.a.toNat
      ((∀ k ∈ [lead, lead + 1], ∀ e ∈ tabGet [] s.scale k, scaleInUse s k e = false) →
        (∃ b, Retires (exec (.scpreAll f) s) b x.w g ∧ b = { popped s w f with scale := b.scale } ∧
          ∀ k, tabGet [] b.scale k = if k = lead ∨ k = lead + 1 then [] else tabGet [] s.scale k) ∧
        (bits sa 63 16 = 0 → (tensorRecord (recordsOf s b.id) sa.toNat).isSome = true → ∃ b, Retires (exec (.scpreInv f) s) b x.w g ∧ b = { popped s w f with scale := b.scale } ∧
          ∀ k, tabGet [] b.scale k = if k = lead ∨ k = lead + 1 then (tabGet [] s.scale k).filter (·.tid != sa.toNat)
            else tabGet [] s.scale k)) ∧
      (∀ (c : Ctx) r xs, findCtx s w.ctx = some c → bits sa 63 16 = 0 → bits (x.s f.b.toNat) 63 32 = 0 →
        tensorRecord (recordsOf s b.id) sa.toNat = some r → 0 < f.imm.toNat → s.scaleReqs = [] →
        checkAll s c needUnit ((List.range f.imm.toNat).map fun i =>
          (scaleVa r ((x.s f.b.toNat).toNat + i), 4)) = .ok xs →
        Effect (exec (.scpreLd f) s) fun t => ∃ o, t.outs = s.outs ++ [o] ∧ o.warp = w.id ∧ o.flag = tiedFlag g f ∧
          o.need = 2 * f.imm.toNat ∧ t.scaleReqs.length = 2 * f.imm.toNat ∧
          ∀ q ∈ t.scaleReqs, q.out = some o.id ∧ q.tid = sa.toNat ∧ (q.core = lead ∨ q.core = lead + 1) ∧ q.ctx = w.ctx ∧
            ∃ i < f.imm.toNat, q.blk = (x.s f.b.toNat).toNat + i)))

namespace Sys2Proof.Spec

/-- A joint operation is over: it is gone, and no warp of its quad waits for it (13/R307). -/
def OpOver (s t : State) (o : JointOp) : Prop :=
  t.ops = s.ops.filter (·.id != o.id) ∧
  ∀ id ∈ o.warps, ∀ w, findWarp s id = some w → ∃ w', findWarp t id = some w' ∧
    ∀ g ∈ w'.groups, g.wait ≠ .joint o.block o.quad o.seq

/-- An operation whose block and context let it go on. -/
def OpRuns (s : State) (o : JointOp) (b : Block) (c : Ctx) : Prop :=
  s.ops.find? (·.id == o.id) = some o ∧ findBlock s o.block = some b ∧ b.saving = false ∧ findCtx s b.ctx = some c ∧
  ctxRuns s b.ctx = true ∧ o.parked = none ∧ o.cause = none ∧ (tabGet {} s.pairs o.pair).resetting = false ∧ o.warps.length = 4

/-- The operation's number: 1 `zclr`, 2 `drain` not to memory, 3 `atbl`. -/
def plainOp (o : JointOp) : Prop := o.kind = 1 ∨ (o.kind = 2 ∧ drainDest o.f ≠ 2) ∨ o.kind = 3

end Sys2Proof.Spec

/-- R284, R288, R295-R297, R301-R307, R404-R405, R462: an operation alone in its pair starts; `zclr` clears both tiles; a record
fetched enters its cache; the second pass starts once its records are present; a drain of raw integer cells puts each in its
lane; an operation that holds the arrays for 65,536 clk brings the reset of its pair, which clears its tiles, its ring and its
scale caches. -/
def Obligations.MatrixEvents : Prop :=
  (∀ s o b c, OpRuns s o b c →
    (s.ops = [o] → plainOp o → o.st = .formed → o.permit ≠ .waiting →
      exec (.matrixOpStart o.id) s = .next { s with ops := [{ o with st := .started, since := tabGet 0 s.coreClk (2 * o.pair) }] }) ∧
    (o.kind = 1 → o.st = .started → o.permit = .notNeeded →
      Becomes (exec (.matrixOpComplete o.id) s) fun t => OpOver s t o ∧ t.mem = s.mem ∧ t.blocks = s.blocks ∧
        ∀ k, tabGet 0 t.z k = if k = zKey (2 * o.pair) o.f.d.toNat ∨ k = zKey (2 * o.pair + 1) o.f.d.toNat then 0
          else tabGet 0 s.z k) ∧
    (let o' := if o.recs1 = [] then { o with recs := [], recs1 := o.recs } else o
      let o2 := bindRecs s o' true
      o.st = .started → o.twoPass = true → missingKeys o2 true = [] → sideVas o2 b (recordsOf s b.id) true = [] →
      Becomes (exec (.matrixSecondPass o.id) s) fun t =>
        t = { s with scale := t.scale, ops := s.ops.map fun q => if q.id = o.id then { o2 with st := .secondPass } else q } ∧
        ∀ k tid blk, scaleLookup t k tid blk = scaleLookup s k tid blk) ∧
    (o.kind = 2 → o.st = .started → o.permit ≠ .held → o.permit ≠ .reserved → drainDest o.f = 0 → drainOf o.f = 0x20 →
      drainZi o.f = true → drainBias o.f = false → drainAct o.f = false → drainRq o.f = false → o.early = false →
      (∀ m ∈ o.marks, m = []) → (s.warps.map (·.id)).Nodup → o.warps.Nodup →
      Becomes (exec (.drainComplete o.id) s) fun t => OpOver s t o ∧ t.z = s.z ∧ t.mem = s.mem ∧
        ∀ q < 4, ∀ w, findWarp s (o.warps.getD q 0) = some w → ∃ w', findWarp t (o.warps.getD q 0) = some w' ∧
          (∀ r < 32, ∀ L < 32, lane (w'.readV (o.f.a.toNat + r)) L = if bit w.activeLanes L then
            BitVec.ofNat 32 (cell (tabGet 0 s.z (zKey (2 * o.pair + if drainHi o.f then 1 else 0) o.f.d.toNat))
              (16 * q + L % 16) (r + 32 * (L / 16))) else lane (w.readV (o.f.a.toNat + r)) L) ∧
          ∀ r, r < o.f.a.toNat ∨ o.f.a.toNat + 32 ≤ r → w'.readV r = w.readV r)) ∧
  (∀ s (r : ScaleReq) c l t q, s.scaleReqs.find? (·.id == r.id) = some r → r.parked = none → ctxRuns s r.ctx = true →
    findCtx s r.ctx = some c → findLaunch s r.launch = some l → tensorRecord l.kernel.recs r.tid = some t →
    unitLoad s { core := r.core, ctx := r.ctx, compat := c.compat, warp := 0 } c (reqBlock s r) r.id (scaleVa t r.blk) 4 = .ok q →
    scaleLookup s r.core r.tid r.blk = none → (tabGet [] s.scale r.core).length < 512 → q.1.scale = s.scale →
    Becomes (exec (.scaleRecordFetch r.id) s) fun t =>
      scaleLookup t r.core r.tid r.blk = some (BitVec.ofNat 32 (ofBytes q.2)) ∧
      (∀ k, k ≠ r.core → tabGet [] t.scale k = tabGet [] s.scale k) ∧ ∀ x ∈ t.scaleReqs, x.id ≠ r.id) ∧
  (∀ s p, (∃ o ∈ s.ops, o.pair = p ∧ o.st ≠ .formed ∧ o.since + 65536 ≤ tabGet 0 s.coreClk (2 * p)) →
    ∃ x, exec (.watchdogReset p) s = .next { s with pairs := x } ∧
      ∀ k, tabGet {} x k = if k = p then { tabGet {} s.pairs p with resetting := true } else tabGet {} s.pairs k) ∧
  (∀ s p, (tabGet {} s.pairs p).resetting = true → (tabGet {} s.pairs p).ring = [] → (∀ o ∈ s.ops, o.pair ≠ p) →
    (∀ b ∈ s.blocks, b.saving = false ∧ b.pair = false) →
    Becomes (exec (.matrixResetComplete p) s) fun t => t = { s with z := t.z, pairs := t.pairs, scale := t.scale } ∧
      (∀ k, tabGet 0 t.z k = if k / 8 = p then 0 else tabGet 0 s.z k) ∧
      (∀ k, tabGet {} t.pairs k = if k = p then {} else tabGet {} s.pairs k) ∧
      (∀ k, tabGet [] t.scale k = if k / 2 = p then [] else tabGet [] s.scale k))

namespace Sys2Proof.Spec

/-- The sum of a function over 0 to n − 1. -/
def sumTo : Nat → (Nat → Int) → Int
  | 0, _ => 0
  | n + 1, g => sumTo n g + g n

/-- An integer element of a format (05/R96). -/
def integerOf (id code : Nat) : Int := match intFmt id with | some (w, sg) => intValue w sg code | none => 0

end Sys2Proof.Spec

/-- R285, R287, 05/R96, R98: an `mma` of two integer formats, all of whose operands an `opfence` covers, adds the exact sum of
products to each cell of both tiles: kept to 32 bits, or clamped with `.sat`; with `.init` the cell counts as zero. -/
def Obligations.MatrixIntegerSums : Prop :=
  ∀ s o b c, OpRuns s o b c → o.kind = 0 → o.st = .started → o.classI = true → (∀ q ∈ o.abad, q = 0) →
    (∀ q ∈ s.ops, q.abad.length ≤ 4) →
    (∀ i < 4, ∀ w, findWarp s (o.warps.getD i 0) = some w →
      ∀ r < aRegs o.af o.bf, w.lanesSince (o.f.a.toNat + r) (o.stamps.getD i 0) = 0) →
    (∀ follower, ∀ k < o.k, ∀ j < 64, bBad o b follower k j = false) →
    Becomes (exec (.matrixOpComplete o.id) s) fun t => OpOver s t o ∧ (s.l1 = [] → t.mem = s.mem) ∧
      (∀ h < 2, ∀ i < 64, ∀ j < 64,
        let key := zKey (2 * o.pair + h) o.f.d.toNat
        let old : Int := if bit o.f.sub 0 then 0 else (BitVec.ofNat 32 (cell (tabGet 0 s.z key) i j)).toInt
        (BitVec.ofNat 32 (cell (tabGet 0 t.z key) i j)) = narrow true (bit o.f.md 2) 32
          (old + sumTo o.k fun k => integerOf o.af (aCode o i k) * integerOf o.bf (bCode o b (h == 1) k j))) ∧
      ∀ key, key ≠ zKey (2 * o.pair) o.f.d.toNat → key ≠ zKey (2 * o.pair + 1) o.f.d.toNat → tabGet 0 t.z key = tabGet 0 s.z key

/-! ### Fences and barriers (14/R311-R320, 07/R142-R148) -/

namespace Sys2Proof.Spec

/-- Everything that a fence covers has been performed (14/R312-R313). -/
def Performed (s : State) (w : Warp) (fe : Fence) : Prop :=
  (∀ i ∈ fe.accesses, ∀ o ∈ s.outs, o.id ≠ i) ∧ (∀ i ∈ fe.engines, i ∉ engineIds s w) ∧
  ∀ n, fe.quads = some n → (∀ q ∈ w.quadQ, n ≤ q.seq) ∧ ∀ o ∈ s.ops, w.id ∈ o.warps → n ≤ o.seq

/-- The group waits at its instruction, of which nothing has been done. -/
def Waits (o : Host.Outcome State Fault Refusal) (s : State) (w : Warp) (g : Group) (x : Wait) : Prop :=
  o = .next { setWarp s (w.setGroup { g with wait := x }) with last := .waited }

/-- The barrier that a 16-bit name names for a warp of a block (14/R315, R320): four of the warp, sixteen of the block, eight of
the cluster, four of the grid, the last two in launches that have them. -/
def barNamed (w : Warp) (b : Block) (l : Launch) (n : Nat) : Option (BarOwner × Nat) :=
  let i := n % 256
  match n / 256 with
  | 0 => if i < 4 then some (.warp w.id, i) else none
  | 1 => if i < 16 then some (.block b.id, i) else none
  | 2 => if i < 8 ∧ l.cls ≠ 2 ∧ l.kernel.clus ≠ 0 then some (.cluster l.id (b.idx / l.kernel.clus), i) else none
  | 3 => if i < 4 ∧ l.cls = 1 then some (.grid l.id, i) else none
  | _ => none

/-- A phase has completed when the barrier has passed it, on a ring of 65,536 (14/R317). -/
def passed (B : Barrier) (n : W16) : Bool := (B.p - (n + 1)).toNat < 32768

end Sys2Proof.Spec

/-- R311-R314: `fence` answers its token and joins the warp's fences with what it covers: the outstanding accesses of its group's
slices that are of its kinds, engine commands and joint operations; `fwait` goes on, its fences gone, once every fence up to its token is performed. -/
def Obligations.Fences : Prop :=
  ∀ s w g f, Issues s w g f →
    let x := exeOf s w g f
    let no := w.fenceNo + 1
    (w.fences.length < 16 → ∃ b w', Retires (exec (.fence f) s) b w' g ∧ b = onlyOrder (popped s w f) b ∧
      (bit f.imm 1 = false → b = popped s w f) ∧ Answers f x w w' (some (no.setWidth 64)) none ∧
      w' = { x.w with
        slices := w'.slices, fenceNo := no
        fences := w.fences ++ [{
          token := no, kinds := f.imm.extractLsb' 0 3, scope := scopeOf (bits f.sub 2 0)
          accesses := (s.outs.filter fun o => o.warp == w.id && (List.range 8).any (fun j => bit o.slices j && bit g.slices j)
            && (bit o.kinds 0 && bit f.imm 0 || bit o.kinds 1 && bit f.imm 1)).map (·.id)
          engines := if bit f.imm 2 then engineIds s w else []
          quads := if bit f.imm 2 then some w.quadSeq else none }] }) ∧
    (16 ≤ w.fences.length → Waits (exec (.fence f) s) s w g .retry) ∧
    (let mine := fun (t : Fence) => decide (((x.s f.a.toNat).setWidth 16 - t.token).toNat < 32768);
      ((∀ t ∈ w.fences, mine t = true → Performed s x.w t) →
        ∃ b, Retires (exec (.fwait f) s) b { x.w with fences := w.fences.filter fun t => !mine t } g ∧
          b = onlyOrder (popped s w f) b) ∧
      ((∃ t ∈ w.fences, mine t = true ∧ ¬ Performed s x.w t) → Waits (exec (.fwait f) s) s w g .stall))

/-- R315-R320: the barrier instructions, at the barrier that IMM32[15:0] names; a name that names none raises the
illegal-instruction trap. Each slice arrives once: of the slices of `bar.arv` those that have arrived in the open phase wait. The last arrival at a block's barrier whose completions have come completes its phase; a delivery
adds a completion. -/
def Obligations.Barriers : Prop :=
  (∀ s w g f b l, Issues s w g f → findBlock s w.block = some b → findLaunch s b.launch = some l →
    let x := exeOf s w g f
    let n : W16 := (x.s f.a.toNat).setWidth 16
    let a := x.s f.a.toNat
    (barNamed w b l (bits f.imm 15 0) = none → ∀ i ∈ [Instr.barArv f, Instr.barWait f, Instr.barArm f, Instr.barTst f],
      TakesTrap (exec i s) s w g 1 0 g.word.toNat (codeAddr g.pc)) ∧
    (∀ o i, barNamed w b l (bits f.imm 15 0) = some (o, i) →
      let B := barAt s o i
      let here := match o with
        | .warp _ => x.slices.any B.arrived.contains
        | _ => B.arrived.contains w.id
      let there := fun (j : Nat) => match o with
        | .warp _ => B.arrived.contains j
        | _ => B.arrived.contains w.id || (B.part.find? (·.1 == w.id)).any fun p => bit p.2 j
      let todo := x.slices.filter fun j => !bit g.part j
      let now := todo.filter fun j => !there j
      let answered := fun (w' : Warp) => w' = { x.w with slices := w'.slices } ∧ (∀ j, OnlyS (w.slice j) (w'.slice j)) ∧
        ∀ j r, w'.readS j r = if j ∈ now ∧ r = f.d.toNat ∧ r ≠ 0 then B.p.setWidth 64 else w.readS j r
      (passed B n = true → ∃ t, Retires (exec (.barWait f) s) t x.w g ∧ t = onlyOrder (popped s w f) t) ∧
      (passed B n = false → Waits (exec (.barWait f) s) s w g .stall) ∧
      (∃ t, AnswersOnly (exec (.barTst f) s) t w g f x (some (B.p.setWidth 64)) (some (!passed B n)) ∧
        t = onlyOrder (popped s w f) t) ∧
      (bits a 15 0 = 0 ∨ bits a 63 16 ≠ 0 → TakesTrap (exec (.barArm f) s) s w g 1 0 g.word.toNat (codeAddr g.pc)) ∧
      (bits a 15 0 ≠ 0 → bits a 63 16 = 0 → Effect (exec (.barArm f) s) fun t =>
        t = { setWarp (popped s w f) (x.w.setGroup g.next) with bars := t.bars, last := .retired } ∧
        (∀ o' i', (o', i') ≠ (o, i) → barAt t o' i' = barAt s o' i') ∧
        let C := barAt t o i
        C = { B with a := C.a, nextA := C.nextA } ∧ C.a = B.a + (if here then 0 else a.toNat) ∧
          C.nextA = B.nextA + if here then a.toNat else 0) ∧
      (now = [] → todo ≠ [] → Waits (exec (.barArv f) s) s w g .retry) ∧
      (now ≠ [] → now ≠ todo → farPending s w = false → Becomes (exec (.barArv f) s) fun t => ∃ w', answered w' ∧
        ∃ part : BitVec 8, (∀ j < 8, bit part j = (bit g.part j || now.contains j)) ∧
        t = { onlyOrder (setWarp (popped s w f) (w'.setGroup { g with wait := .retry, part })) t with
          bars := t.bars, last := .waited }) ∧
      (now = todo → todo ≠ [] → farPending s w = false → Effect (exec (.barArv f) s) fun t => ∃ w', answered w' ∧
        t = { onlyOrder (setWarp (popped s w f) (w'.setGroup g.next)) t with bars := t.bars, last := .retired } ∧
        (o = .block b.id → b.ended = false → B.part = [] → (∀ j < 8, (w.slice j).active ≠ 0 → now.contains j = true) →
          let others := fun (v : Warp) => v.block = w.block → v.id = w.id ∨ v.id ∈ B.arrived
          ((∀ v ∈ s.warps, others v) → B.a ≤ B.e → barAt t o i = { B with
            p := B.p + 1, arrived := [], a := B.nextA, nextA := 0, e := B.e - B.a
            eng := if B.e = 0 then B.eng else B.p :: B.eng }) ∧
          ((∃ v ∈ s.warps, ¬ others v) ∨ B.e < B.a → barAt t o i = { B with arrived := B.arrived ++ [w.id] }))))) ∧
  (∀ (s : State) (d : Delivery) b, s.deliveries.find? (·.id == d.id) = some d → findBlock s b.id = some b → b.ended = false →
    d.owner = .block b.id →
    let B := barAt s d.owner d.idx
    Becomes (exec (.engineCompletionDelivery d.id) s) fun t =>
      t = { s with bars := t.bars, deliveries := s.deliveries.filter (·.id != d.id) } ∧
      (B.part = [] → (∃ v ∈ s.warps, v.block = b.id ∧ v.id ∉ B.arrived) → barAt t d.owner d.idx = { B with e := B.e + 1 }) ∧
      (B.part = [] → (∃ v ∈ s.warps, v.block = b.id) → (∀ v ∈ s.warps, v.block = b.id → v.id ∈ B.arrived) → B.a ≤ B.e + 1 →
        (barAt t d.owner d.idx).p = B.p + 1 ∧ (barAt t d.owner d.idx).e = B.e + 1 - B.a ∧ B.p ∈ (barAt t d.owner d.idx).eng))

/-! ### Register limits, quadrants and fragments (14/R321, 06/R122, R126-R130, 16/R385) -/

namespace Sys2Proof.Spec

/-- Registers of a warp's quadrant that can be had at once: nothing waits there and the pool holds them (06/R128). -/
def Growable (s : State) (w : Warp) (L : Nat) : Prop := growQueue s w.core w.quad = [] ∧ L - w.limit ≤ poolFree s w.core w.quad

/-- The warp whose request of `grow` is answered: the group that made it goes on with the outcome in c0.Z. -/
def GrowAnswered (w w' : Warp) (slices : BitVec 8) (z : Bool) : Prop :=
  w' = { w with slices := w'.slices, groups := w'.groups, limit := w'.limit } ∧
  ∀ g, w.groups.find? (fun g => g.slices == slices && g.wait == .grow) = some g →
    w'.groups = (w.setGroup { g.next with wait := .none }).groups ∧
    ∀ j < 8, bit slices j = true → (w.slice j).active ≠ 0 → ((w'.slice j).readC 0).z = z

end Sys2Proof.Spec

/-- R321, R126-R130: `grow` raises the limit at once, waits in arrival order, or, as `grow.try`, answers c0.Z = 1; a limit above
the kernel's largest raises the register-limit trap; `shrink` lowers it and its upper registers are lost; the first request of a
quadrant is granted whole, and only the group that made it goes on; when every warp of a core waits on nothing else for 1,024
clk, a request for the most registers fails. -/
def Obligations.RegisterLimits : Prop :=
  (∀ s w g f, Issues s w g f →
    let x := exeOf s w g f
    let L := f.imm.toNat
    let p := popped s w f
    (∀ i ∈ [Instr.grow f, Instr.growTry f],
      (maxLimitOf p x.w < L → TakesTrap (exec i s) s w g 5 0 (maxLimitOf p x.w) (codeAddr g.pc)) ∧
      (L ≤ maxLimitOf p x.w → L ≤ w.limit → AnswersOnly (exec i s) p w g f x none (some false)) ∧
      (L ≤ maxLimitOf p x.w → w.limit < L → Growable p x.w L →
        ∃ w', Retires (exec i s) p w' g ∧ Answers f x w w' none (some false) ∧ w' = { x.w with slices := w'.slices, limit := L })) ∧
    (L ≤ maxLimitOf p x.w → w.limit < L → ¬ Growable p x.w L →
      AnswersOnly (exec (.growTry f) s) p w g f x none (some true) ∧
      ∃ t, exec (.grow f) s = .next t ∧ t = { setWarp p (x.w.setGroup { g with wait := .grow }) with
        growWait := s.growWait ++ [⟨w.id, g.slices, L⟩], growClk := t.growClk, last := .waited }) ∧
    (∃ w', Retires (exec (.shrink f) s) p w' g ∧ Answers f x w w' none (some false) ∧
      w' = { x.w with slices := w'.slices, limit := min L w.limit, v := w'.v, vstamp := w'.vstamp } ∧
      ∀ r, r < L ∨ w.limit ≤ L → w'.readV r = w.readV r)) ∧
  (∀ s core quad (r : GrowReq) rest w, growQueue s core quad = r :: rest → findWarp s r.warp = some w →
    r.limit - w.limit ≤ poolFree s core quad →
    Becomes (exec (.growGrant core quad) s) fun t => ∃ w', findWarp t r.warp = some w' ∧ w'.limit = max w.limit r.limit ∧
      GrowAnswered w w' r.slices false ∧
      t = { s with warps := (setWarp s w').warps, growWait := s.growWait.filter (· != r), growClk := t.growClk }) ∧
  (∀ s core,
    let ws := s.warps.filter fun w => w.resident && w.core == core
    let asks := fun (r : GrowReq) (w : Warp) => r ∈ s.growWait ∧ ws.find? (·.id == r.warp) = some w
    (∀ w ∈ ws, (∃ g ∈ w.groups, g.wait = .grow) ∧ ∀ g ∈ w.groups, g.wait = .grow ∨ g.wait = .arrived) →
    tabGet 0 s.growClk core + 1024 ≤ tabGet 0 s.coreClk core → (∃ r w, asks r w) →
    Becomes (exec (.growDeadlockDetect core) s) fun t => ∃ r w w', asks r w ∧
      (∀ q v, asks q v → q.limit - v.limit ≤ r.limit - w.limit) ∧ GrowAnswered w w' r.slices true ∧ w'.limit = w.limit ∧
      t = { s with warps := (setWarp s w').warps, growWait := s.growWait.filter (· != r), growClk := t.growClk }) ∧
  (∀ s core, (∃ w ∈ s.warps, w.resident = true ∧ w.core = core ∧ ∃ g ∈ w.groups, g.wait ≠ .grow ∧ g.wait ≠ .arrived) →
    exec (.growDeadlockDetect core) s = .next s)

/-- R122, R385, 11/R254: of the pending warps and fragments of a quadrant the one that has been ready longest takes a free place,
or the place of an active one that waits for a long time or yields, or after 4,096 clk that of the one that issued least recently;
a group of a parted warp of the queued class is detached and takes a pending place of its own. -/
def Obligations.QuadrantEvents : Prop :=
  (∀ s core quad,
    let os := occupants (s.warps.filter fun w => w.resident && w.core == core && w.quad == quad)
    let able := fun (p : Occupant) => p ∈ os ∧ p.place.active = false ∧ (p.next s).isSome = true
    let first := fun (p : Occupant) => able p ∧ ∀ q, able q → p.place.readySince ≤ q.place.readySince
    let clk := tabGet 0 s.coreClk core
    let active := os.filter (·.place.active)
    let enters := fun (p : Occupant) (t : State) => p.put t fun x => { x with active := true }
    let swap := fun (p o : Occupant) => enters p (o.put s fun x => { x with active := false, readySince := clk, yields := false })
    (∃ p, able p) →
    (active.length < 8 → ∃ p, first p ∧ exec (.pendingWarpSwap core quad) s = .next (enters p s)) ∧
    (8 ≤ active.length → (∃ o ∈ active, o.stalled s = true) →
      ∃ p o, first p ∧ o ∈ active ∧ o.stalled s = true ∧ exec (.pendingWarpSwap core quad) s = .next (swap p o)) ∧
    (8 ≤ active.length → (∀ o ∈ active, o.stalled s = false) → (∃ o ∈ active, o.place.yields = true) →
      ∃ p o, first p ∧ o ∈ active ∧ o.place.yields = true ∧ exec (.pendingWarpSwap core quad) s = .next (swap p o)) ∧
    (8 ≤ active.length → (∀ o ∈ active, o.stalled s = false ∧ o.place.yields = false) →
      (∀ p, able p → p.place.readySince + 4096 ≤ clk) →
      ∃ p o, first p ∧ o ∈ active ∧ (∀ v ∈ active, o.place.lastIssue ≤ v.place.lastIssue) ∧
        exec (.pendingWarpSwap core quad) s = .next (swap p o)) ∧
    (8 ≤ active.length → (∀ o ∈ active, o.stalled s = false ∧ o.place.yields = false) →
      (∀ p, able p → clk < p.place.readySince + 4096) → exec (.pendingWarpSwap core quad) s = .next s)) ∧
  (∀ s w g j b, findWarp s w.id = some w → findBlock s w.block = some b → taskClass s b = true → w.resident = true →
    w.groups.find? (fun g => bit g.slices j) = some g → 1 < w.groups.length → g.frag = none → g.wait ≠ .arrived →
    2 * (slicesOf g.slices).length < ((List.range 8).filter fun j => (w.slice j).active != 0).length →
    0 < freePlaces s (feetOn s w.core none) w.quad →
    ((quadPlaces (s.warps.filter fun v => v.resident && v.core == w.core && v.quad == w.quad)).filter (!·.active)).length < 8 →
    exec (.fragmentDetach w.id j) s = .next (setWarp s (w.setGroup { g with
      frag := some { active := false, readySince := tabGet 0 s.coreClk w.core, since := s.choice } })))

/-! ### Tasks, permits and the dispatcher (14/R322, R329, 16/R367-R388, 06/R125) -/

namespace Sys2Proof.Spec

/-- The eight words of a launch record. -/
def recordWords (bs : List Byte) : List W64 := (List.range 8).map fun i => word64 bs (8 * i)

/-- A record of the queued class that is well formed, waits for no counter, and whose kernel can be read, with the state after
the reads of the dispatcher. -/
def PlainRecord (s : State) (c : Ctx) (h : HwQueue) (r : List W64) (s' : State) (k : Kernel) : Prop :=
  readKernel s c r = .ok (s', k) ∧ bits (r.getD 1 0) 43 40 = 2 ∧ bit (r.getD 3 0) 12 = false ∧ h.dl = false

/-- The launch of such a record (16/R367-R370). -/
def IsLaunchOf (s : State) (c : Ctx) (h : HwQueue) (r : List W64) (k : Kernel) (l : Launch) : Prop :=
  l.ctx = c.slot ∧ l.queue = some h.num ∧ l.grid = c.gridCtr ∧ l.kernel = k ∧ l.cls = 2 ∧ l.nwarp = bits (r.getD 1 0) 39 32 ∧
  l.nblk = bits (r.getD 1 0) 31 0 ∧ l.arg = r.getD 2 0 ∧ l.prio = h.prio ∧ l.task = c.taskCtr ∧ l.crep = r.getD 7 0 ∧
  l.ready = true ∧ l.readyAt = s.clk ∧ l.next = 0 ∧ l.status = none

/-- The state after its acceptance: the launch waits, and the grid and task counters of the context have moved. -/
def Accepted (s t : State) (c : Ctx) (h : HwQueue) (r : List W64) (k : Kernel) : Prop :=
  (∃ l, IsLaunchOf s c h r k l ∧ t.launches = s.launches ++ [l]) ∧
  findCtx t c.slot = some { c with gridCtr := c.gridCtr + 1, taskCtr := c.taskCtr + BitVec.ofNat 32 (bits (r.getD 1 0) 31 0) }

/-- A permit request is granted: it waits no more and its permits are out. -/
def Granted (s t : State) (die : Nat) (r : PermReq) : Prop :=
  getDie t die = { getDie s die with
    out := (getDie s die).out + r.n, above := false, waiting := (getDie s die).waiting.filter fun x => x.owner != r.owner }

/-- The request that a governor considers (16/R387): the first, under the Low-jitter profile the first of the deadline class where
there is one, and no other on a hot die. -/
def considered (d : Die) : Option PermReq :=
  if d.profile = 3 then (d.waiting.find? (·.deadline)).or (if d.hot then none else d.waiting.head?) else d.waiting.head?

end Sys2Proof.Spec

/-- R322, R329, R387, R450-R451, 06/R125: `spawn` and `spawn.try` hand a record to a queue and answer its first TASKID;
a queue without space makes the one wait and the other answer −1; `migrate` of a block of one warp answers c0.Z = 1 where it may
not move, and otherwise moves it, once its accesses and commands are complete, to the core chosen; a governor grants a request
whole within its die's limit, permits that warps hold in reserve aside. -/
def Obligations.TasksAndPermits : Prop :=
  (∀ s w g f c h, Issues s w g f → findCtx s w.ctx = some c → s.queues.find? (·.num == bits f.imm 7 0) = some h → h.ctx = c.slot →
    h.en = true → h.unbinding = false →
    let x := exeOf s w g f
    let va := (x.s f.a.toNat).toNat
    va % 64 = 0 → ∀ xs, checkBytes (popped s w f) c needFrontRead va 64 = .ok xs →
    (queueSpace s h = false → AnswersOnly (exec (.spawnTry f) s) (popped s w f) w g f x (some (BitVec.allOnes 64)) (some true) ∧
      Waits (exec (.spawn f) s) s w g .retry) ∧
    (queueSpace s h = true → ∀ q r bs s' k, releaseBefore (popped s w f) x (some .device) = .ok q →
      frontRead q.1 c va 64 = .ok (r, bs) → PlainRecord r c h (recordWords bs) s' k →
      ∀ i ∈ [Instr.spawn f, Instr.spawnTry f], ∃ t,
        AnswersOnly (exec i s) t w g f x (some (c.taskCtr.setWidth 64)) (some false) ∧ Accepted s t c h (recordWords bs) k ∧
        t = { onlyOrder (popped s w f) t with ctxs := t.ctxs, launches := t.launches, nextId := t.nextId })) ∧
  (∀ s w g f b c y, Issues s w g f → findBlock s w.block = some b → b.id = w.block → b.pair = false → taskClass s b = true →
    w.groups = [g] → g.frag = none → w.idx = 0 → s.warps.filter (·.block == b.id) = [w] → findCtx s b.ctx = some c →
    bits g.word 35 28 = f.a.toNat →
    let x := exeOf s w g f
    let s1 := setWarp (popped s w f) (x.w.setGroup { g with wait := .migrate })
    checkByte s1 c { perm := 0, acc := 7, anyCell := true, peer := false } ((x.w.readS (firstSlice x.w g) f.a.toNat).toNat) = .ok y →
    let ring := (tabGet {} s.pairs (b.core / 2)).ring
    let goal := migrateTarget s1 b (homeOf s1 y.pa)
    let passed := fun (t : State) (entry : Entry) (z : Bool) => ∃ w', findWarp t w.id = some w' ∧
      w'.groups = [{ ({ g with entry } : Group).next with wait := .none }] ∧
      ∀ j < 8, (w.slice j).active ≠ 0 → ((w'.slice j).readC 0).z = z
    ((65536 < b.scr ∨ (∃ m ∈ ring, m.1 = b.id) ∨ goal = none) →
      Effect (exec (.migrate f) s) fun t => passed t g.entry true ∧ t.blocks = s.blocks) ∧
    (b.scr ≤ 65536 → (∀ m ∈ ring, m.1 ≠ b.id) →
      (∀ core, goal = some (core, none) → Effect (exec (.migrate f) s) fun t => passed t g.entry false ∧ t.blocks = s.blocks) ∧
      ∀ core berth, goal = some (core, some berth) →
        (blockIdle s1 b = false → exec (.migrate f) s = .next { s1 with last := .waited }) ∧
        (blockIdle s1 b = true → Effect (exec (.migrate f) s) fun t => passed t .resume false ∧
          (∀ w', findWarp t w.id = some w' → w'.core = berth.core ∧ w'.v = w.v) ∧
          ∃ b', findBlock t b.id = some b' ∧ b'.core = berth.core ∧ b'.placed = true ∧ b'.spad = b.spad))) ∧
  (∀ s die r, die < 4 →
    let d := getDie s die
    let limit := permax d.profile
    let grants := (d.above = false ∨ d.out < limit) ∧ d.out - reservedOn s die + r.n ≤ limit
    considered d = some r →
    (∀ id slices w, r.owner = .warp id slices → findWarp s id = some w → grants →
      Becomes (exec (.permitGrant die) s) fun t => Granted s t die r ∧ t = { s with dies := t.dies, warps := t.warps } ∧
        findWarp t id = some { w with
          permits := w.permits + r.n
          groups := w.groups.map fun g => if g.slices = slices ∧ g.wait = .permits then { g.next with wait := .none } else g }) ∧
    (∀ id, r.owner = .joint id → grants → Becomes (exec (.permitGrant die) s) fun t => Granted s t die r ∧
      t = { s with dies := t.dies, ops := s.ops.map fun o => if o.id = id then { o with permit := .held } else o }) ∧
    (¬ grants → exec (.permitGrant die) s = .next s))

/-- R367-R378, R383-R384, R388, 11/R253: the host's doorbell, and one that goes backwards; the front end accepts the next record of
a ring; the dispatcher places the next block of a launch with its warps at the kernel's entry; a launch that has aged reserves what
frees on a die; a warp ends, and its block with its last; a launch whose blocks have ended reports and is gone. -/
def Obligations.DispatcherEvents : Prop :=
  (∀ s h (wrc : W64), s.queues.find? (·.num == h.num) = some h →
    let with_ := fun (h' : HwQueue) => s.queues.map fun q => if q.num = h.num then h' else q
    ((wrc - h.wrc).toNat < 2 ^ 63 → exec (.doorbellWrite h.num wrc) s = .next { s with queues := with_ { h with wrc } }) ∧
    (2 ^ 63 ≤ (wrc - h.wrc).toNat → ∀ c, findCtx s h.ctx = some c → fltFull s c = false →
      Becomes (exec (.doorbellWrite h.num wrc) s) fun t => t.queues = with_ { h with wrc, en := false } ∧ t.deferred = s.deferred)) ∧
  (∀ s h c s1 bs s2 k a v t1, s.queues.find? (·.num == h.num) = some h → findCtx s h.ctx = some c → c.loaded = true → h.en = true →
    h.unbinding = false → h.wrc ≠ h.rd → (h.wrc - h.rd).toNat ≤ 2 ^ (6 + h.clog) → queueSpace s h = true →
    frontRead s c ((h.rbase + 64 * (h.rd.toNat % 2 ^ (6 + h.clog))) % 2 ^ 64) 64 = .ok (s1, bs) →
    PlainRecord s1 c h (recordWords bs) s2 k → acceptRecord s1 c h.num h.prio h.dl (recordWords bs) = some (a, v) →
    frontWrite { a with queues := a.queues.map fun q => if q.num = h.num then { h with rd := h.rd + 1 } else q } c h.rdva
      (toBytes 8 (h.rd + 1).toNat) = .ok t1 →
    exec (.recordAccept h.num) s = .next t1 ∧ Accepted s t1 c h (recordWords bs) k ∧ v = c.taskCtr.setWidth 64 ∧
      t1.queues.find? (·.num == h.num) = some { h with rd := h.rd + 1 }) ∧
  (∀ s l c y, ranked s = [l] → findCtx s l.ctx = some c → l.cls = 2 → savedBlocks s l = [] → l.next < l.nblk →
    l.ssize = 0 → l.kernel.pair = false → s.launches.find? (·.id == l.id) = some l → (∀ m ∈ s.launches, m.fuse = false) →
    chooseBerth s [] l.shape l.deadline (affStack s c l.aff) (fun k => clusterOpen s l.id (clusterOf k)) = some y →
    Becomes (exec (.blockDispatch l.id) s) fun t => (s.owed = [] → t.mem = s.mem) ∧ t.prevPlace = y.core ∧
      findLaunch t l.id = some { l with next := l.next + 1, reserves := none, shadow := [] } ∧
      ∃ b ws, t.blocks = s.blocks ++ [b] ∧ t.warps = s.warps ++ ws ∧ ws.length = l.nwarp ∧ b.launch = l.id ∧ b.idx = l.next ∧
        b.core = y.core ∧ b.placed = true ∧ b.slotted = y.slotted ∧ b.base = y.base ∧ b.scr = l.kernel.scr ∧ b.spad = [] ∧
        ∀ i < l.nwarp, ∃ w, ws[i]? = some w ∧ w.block = b.id ∧ w.idx = i ∧ w.core = y.core ∧ w.quad = i % 4 ∧ w.limit = 64 ∧
          w.groups = [{ slices := 0xFF, pc := l.kernel.entry }] ∧ w.runs = 0xFF ∧ w.v = [] ∧ w.k = [] ∧
          ∀ j < 8, (w.slice j).active = 15 ∧ ∀ r, w.readS j r = if r = 1 then l.arg else 0) ∧
  (∀ s l, findLaunch s l.id = some l → hasWork s l = true → l.reserves = none → l.aff = 0 →
    let die := (s.prevPlace + 1) % 384 / 96
    ((l.prio + 1) * 2 ^ s.prioShift ≤ s.clk - l.readyAt →
      exec (.agingReserve l.id) s = .next (setLaunch s { l with
        reserves := some die, shadow := (List.range 96).flatMap fun i => feetOn s (die * 96 + i) none })) ∧
    (s.clk - l.readyAt < (l.prio + 1) * 2 ^ s.prioShift → exec (.agingReserve l.id) s = .next s)) ∧
  (∀ s w b l, findWarp s w.id = some w → w.groups = [] → w.f = [] → w.resident = true → findBlock s w.block = some b → w.resv = [] →
    findLaunch s b.launch = some l → (∀ m ∈ s.launches, m.fuse = false) → (∀ h ∈ s.held, h.block ≠ b.id) →
    Becomes (exec (.warpEnd w.id) s) fun t => t.warps = s.warps.filter (·.id != w.id) ∧
      ((∃ v ∈ s.warps, v.id ≠ w.id ∧ v.block = b.id) → t.blocks = s.blocks ∧ t.launches = s.launches ∧ t.mem = s.mem) ∧
      ((∀ v ∈ s.warps, v.id ≠ w.id → v.block ≠ b.id) → b.slot = none →
        (∃ b', findBlock t b.id = some b' ∧ b'.ended = true ∧ b'.placed = false ∧ b'.fail = none) ∧
        findLaunch t l.id = some { l with endedBlocks := l.endedBlocks + 1 })) ∧
  (∀ s l c t1, findLaunch s l.id = some l → findCtx s l.ctx = some c → ctxRuns s l.ctx = true → l.status = none → l.fails = [] →
    l.endedBlocks = l.nblk → (∀ b ∈ s.blocks, b.launch = l.id → hasCommands s b.id = false) → (∀ m ∈ s.launches, m.fuse = false) →
    l.sctr = none →
    (l.crep = 0 ∧ t1 = s ∨ l.crep ≠ 0 ∧ frontWrite s c l.crep.toNat (wordsToBytes [0, BitVec.ofNat 64 s.now]) = .ok t1) →
    exec (.launchComplete l.id) s = .next (settleBars { t1 with
      launches := t1.launches.filter (·.id != l.id), blocks := t1.blocks.filter (·.launch != l.id) }))

/-! ### Message queues (14/R323-R328) -/

namespace Sys2Proof.Spec

/-- The state `s` but for memory at the homes and what the homes of message queues expect to find there, as in `t`. -/
def onlyQueues (s t : State) : State := { onlyHome s t with queueLeft := t.queueLeft }

/-- No layout change is under way. -/
def Calm (s : State) : Prop := s.fillQueue = []

/-- Words 2 to 4 of a queue are what its home left there, or zero (14/R323): nothing else has written them while it was in use. -/
def AsLeft (s : State) (desc : Nat) : Prop :=
  ∀ e, s.queueLeft.find? (·.1 == desc) = some e →
    let now := [home64 s (desc + 16), home64 s (desc + 24), home64 s (desc + 32)]
    now = e.2 ∨ ∀ y ∈ now, y = 0

/-- One 64-bit word at the home has a new value, and every other byte of memory is unchanged. -/
def Word64Set (s t : State) (pa : Nat) (y : W64) : Prop :=
  home64 t pa = y ∧ ∀ q, q < pa ∨ pa + 8 ≤ q → homeByte t q = homeByte s q

/-- The slots that a warp has reserved on a queue (14/R324). -/
def slotsOf (w : Warp) (desc : Nat) : Nat := match w.resv.find? (·.desc == desc) with | some r => r.n | none => 0

/-- A sound queue at home in this package that the register of A names: its descriptor is translated, not stopped and well formed, its
words stand as the home left them, and memory is calm. -/
def NamesQueue (s : State) (w : Warp) (g : Group) (f : Fields) (c : Ctx) (desc : Nat) : Prop :=
  findCtx s w.ctx = some c ∧ isHbm desc = true ∧ queueCause s desc = none ∧ Calm s ∧ AsLeft s desc ∧
  ∃ xs, checkBytes (popped s w f) c needQueue ((exeOf s w g f).s f.a.toNat).toNat 64 = .ok xs ∧ (xs.head?.map (·.pa)) = some desc

/-- Slots of a queue, and whether `n` more can be reserved (14/R323-R324). -/
def capOf (s : State) (desc : Nat) : Nat := 2 ^ (6 + bits (home64 s (desc + 8)) 3 0)
def roomFor (s : State) (desc n : Nat) : Prop :=
  (home64 s (desc + 16) - home64 s (desc + 24)).toNat + (home64 s (desc + 32)).toNat + n ≤ capOf s desc

end Sys2Proof.Spec

/-- R323-R326: `rsv` and `rsv.try` reserve slots, and where there are too few wait or answer c0.Z = 1; `enq` sends its message and
spends a slot, and without a reservation answers c0.Z = 1; untied `deq` and `deq.try` take the oldest message into sD to s(D+7). -/
def Obligations.MessageQueues : Prop :=
  ∀ s w g f c desc, Issues s w g f → NamesQueue s w g f c desc →
    let x := exeOf s w g f
    let p := popped s w f
    let n := bits f.imm 15 0
    let ninth := slotsOf w desc = 0 ∧ 8 ≤ w.resv.length
    let va := (x.s f.a.toNat).toNat
    (n ≤ capOf s desc → ∀ i ∈ [Instr.rsv f, Instr.rsvTry f],
      (ninth → AnswersOnly (exec i s) p w g f x none (some true)) ∧
      (¬ ninth → roomFor s desc n → ∃ w' b, Retires (exec i s) b w' g ∧ b = onlyQueues p b ∧
        Word64Set s b (desc + 32) (home64 s (desc + 32) + BitVec.ofNat 64 n) ∧ Answers f x w w' none (some false) ∧
        w' = { x.w with slices := w'.slices, resv := w'.resv } ∧
        ∀ d, slotsOf w' d = if d = desc then slotsOf w desc + n else slotsOf w d)) ∧
    (n ≤ capOf s desc → ¬ ninth → ¬ roomFor s desc n →
      AnswersOnly (exec (.rsvTry f) s) p w g f x none (some true) ∧
      exec (.rsv f) s = .next { setWarp p (x.w.setGroup { g with wait := .grant s.nextId }) with
        nextId := s.nextId + 1, rsvWaits := s.rsvWaits ++ [{ id := s.nextId, desc, va, n, warp := some w.id, peer := none }]
        last := .waited }) ∧
    (let flag := tiedFlag g f;
      (∀ m, flag = some m → w.flag m < 15) →
      (slotsOf w desc = 0 → AnswersOnly (exec (.enq f) s) p w g f x none (some true)) ∧
      (slotsOf w desc ≠ 0 → farPending s w = false → Effect (exec (.enq f) s) fun t => ∃ k w',
        t = { onlyOrder p t with packets := t.packets, nextId := s.nextId + 1, warps := t.warps, last := .retired } ∧
        t.packets = s.packets ++ [k] ∧ k.desc = desc ∧ k.ctx = some w.ctx ∧ k.warp = w.id ∧ k.block = w.block ∧ k.flag = flag ∧
        k.ack = bit f.sub 0 ∧ k.msg = wordsToBytes ((List.range 8).map fun i => x.s (f.d.toNat + i)) ∧
        findWarp t w.id = some (w'.setGroup { g.next with wait := if k.ack ∧ flag = none then .packet k.id else g.wait }) ∧
        Answers f x w w' none (some false) ∧ w' = { x.w with slices := w'.slices, resv := w'.resv, f := w'.f } ∧
        (∀ m, w'.flag m = if flag = some m then w.flag m + 1 else w.flag m) ∧
        ∀ d, slotsOf w' d = if d = desc then slotsOf w desc - 1 else slotsOf w d)) ∧
    (tiedFlag g f = none →
      let depth := (home64 s (desc + 16) - home64 s (desc + 24)).toNat
      (depth = 0 → AnswersOnly (exec (.deqTry f) s) p w g f x none (some true) ∧ Waits (exec (.deq f) s) s w g .retry) ∧
      (0 < depth → depth ≤ capOf s desc → ∀ bs,
        vaBytes p c { perm := 1, acc := 7, peer := false } (slotVa s desc (home64 s (desc + 24))) 64 = .ok bs →
        ∀ i ∈ [Instr.deq f, Instr.deqTry f], ∃ w' b, Retires (exec i s) b w' g ∧
          b = { onlyOrder p b with queueLeft := b.queueLeft } ∧
          (s.owed = [] → Word64Set s b (desc + 24) (home64 s (desc + 24) + 1)) ∧ w' = { x.w with slices := w'.slices } ∧
          (∀ j r, w'.readS j r = if x.slices.contains j ∧ f.d.toNat ≤ r ∧ r < f.d.toNat + 8 ∧ r ≠ 0
            then word64 bs (8 * (r - f.d.toNat)) else w.readS j r) ∧
          ∀ j r, (w'.slice j).readC r = if x.slices.contains j ∧ r = 0 then { (w.slice j).readC 0 with z := false }
            else (w.slice j).readC r))

/-- R324-R325, R327: the first reservation that waits at a queue is granted when there is room; a packet reaches its home: its
message is in slot WR, WR has risen and RSV fallen. -/
def Obligations.QueueEvents : Prop :=
  (∀ s (r : RsvWait) id w g, s.rsvWaits.find? (·.id == r.id) = some r → s.rsvWaits.find? (·.desc == r.desc) = some r →
    isHbm r.desc = true → Calm s → AsLeft s r.desc → roomFor s r.desc r.n → r.peer = none → r.warp = some id → findWarp s id = some w →
    w.groups = [g] → g.wait = .grant r.id →
    Becomes (exec (.rsvGrant r.id) s) fun t => ∃ w', findWarp t id = some w' ∧
      Word64Set s t (r.desc + 32) (home64 s (r.desc + 32) + BitVec.ofNat 64 r.n) ∧
      t = { onlyQueues s t with rsvWaits := s.rsvWaits.filter (·.id != r.id), warps := (setWarp s w').warps } ∧
      w'.groups = [{ g.next with wait := .none }] ∧ slotsOf w' r.desc = slotsOf w r.desc + r.n ∧
      ∀ j < 8, bit g.slices j = true → (w.slice j).active ≠ 0 → ((w'.slice j).readC 0).z = false) ∧
  (∀ s (k : EnqPkt) c xs, s.packets.find? (·.id == k.id) = some k →
    (s.packets.find? fun y => y.warp == k.warp && y.desc == k.desc) = some k → isHbm k.desc = true → Calm s → AsLeft s k.desc →
    k.ctx.bind (findCtx s) = some c → k.msg.length = 64 →
    let wr := home64 s (k.desc + 16)
    checkBytes s c { perm := 2, acc := 7, writes := true, peer := false } (slotVa s k.desc wr) 64 = .ok xs →
    (xs.map (·.pa)).Nodup → (∀ y ∈ xs, y.pa < k.desc ∨ k.desc + 64 ≤ y.pa) →
    Becomes (exec (.enqDelivery k.id) s) fun t =>
      (∀ i < 64, ∀ y, xs[i]? = some y → homeByte t y.pa = k.msg.getD i 0) ∧
      home64 t (k.desc + 16) = wr + 1 ∧ home64 t (k.desc + 32) = home64 s (k.desc + 32) - 1 ∧
      (∀ q, (∀ y ∈ xs, y.pa ≠ q) → q < k.desc + 16 ∨ k.desc + 40 ≤ q ∨ (k.desc + 24 ≤ q ∧ q < k.desc + 32) →
        homeByte t q = homeByte s q) ∧
      t = { onlyQueues s t with packets := s.packets.filter (·.id != k.id), warps := t.warps } ∧ (k.ack = false → t.warps = s.warps) ∧
      (k.ack = true → ∀ w, findWarp s k.warp = some w → ∃ w', findWarp t k.warp = some w' ∧
        (∀ m, w'.flag m = if k.flag = some m then w.flag m - 1 else w.flag m) ∧
        w' = { w with f := w'.f, groups := w.groups.map fun g => if g.wait = .packet k.id then { g with wait := .none } else g }))

/-! ### The stage router (14/R330-R347, R463) -/

namespace Sys2Proof.Spec

/-- The set of the warp's context that the handle in the register of A names (14/R334). -/
def NamesSet (s : State) (w : Warp) (g : Group) (f : Fields) (t : StageSet) : Prop :=
  let h := (exeOf s w g f).s f.a.toNat
  bits h 63 6 = 0 ∧ findSet s (bits h 5 4) (bits h 3 0) = some t ∧ t.ctx = w.ctx

/-- No record is left in the set (14/R334). -/
def Empty (t : StageSet) : Prop := t.st = .closed ∧ (∀ r ∈ t.rings, r.used = []) ∧ t.holding = [] ∧ t.reorder = []

/-- A lane of vD receives a value and the rest of the registers keep theirs. -/
def LaneGets (f : Fields) (w w' : Warp) (L : Nat) (y : W32) : Prop :=
  (∀ M < 32, lane (w'.readV f.d.toNat) M = if M = L then y else lane (w.readV f.d.toNat) M) ∧
  ∀ r, r ≠ f.d.toNat → w'.readV r = w.readV r

/-- The set is plain: one pure stage, an unordered sink, nothing waiting to be sorted. -/
def PlainSet (t : StageSet) : Prop :=
  ∃ a r, t.stages = [a] ∧ a.eff = false ∧ t.rings = [r] ∧ t.ord = false ∧ t.resolved = [] ∧ t.reorder = []

/-- The record `r` enters the first stage's queue, in its lowest free slot, with HOPS one greater (14/R330-R331, R336). -/
def Enters (t' : State) (t T : StageSet) (r : List Byte) : Prop :=
  ∃ i, IsFirstFree (t.ring 0).cap (t.ring 0).used.contains i ∧
    T.ring 0 = { t.ring 0 with waiting := (t.ring 0).waiting ++ [i], used := i :: (t.ring 0).used } ∧
    homeBytes t' ((t.ring 0).slotPa i) 64
      = toBytes 8 (putBits (word64 r 0) 63 48 (bits (word64 r 0) 63 48 + 1)).toNat ++ r.drop 8

end Sys2Proof.Spec

/-- R330-R346, R463: `route.set` takes the lowest free set of the die with the queues that its table needs, or answers −1;
`route.set.free` frees an empty set, else c0.Z = 1; `route.admit.close` closes it; `route.admit` numbers a record and sends it
on, or answers c0.Z = 1 once closed; `route.pop` takes a record with a ticket, waits for one, or with `.try` gives none;
`route.verd` drops a record; `route.stat` reads; the holding store sends on what can go. -/
def Obligations.Router : Prop :=
  (∀ s w g f c q, Issues s w g f → findCtx s w.ctx = some c →
    let x := exeOf s w g f
    let p := popped s w f
    let va := (x.s f.a.toNat).toNat
    let die := w.core / 96
    va % 64 = 0 → (∃ xs, checkBytes p c { needUnit with peer := false } va 192 = .ok xs) →
    unitLoad p (whoOf p x.w) c w.block w.id va 192 = .ok q → tableBad q.2 = false → ringFault q.1 c q.2 = none → q.1.sets = s.sets →
    let stages := bits (word64 q.2 0) 3 0
    let taken := fun n => (findSet s die n).isSome
    let fits := queuesTaken s die + stages + 3 ≤ 64
    (∀ n, IsFirstFree 16 taken n → fits → ∃ b t, AnswersOnly (exec (.routeSet f) s) b w g f x (some (BitVec.ofNat 64 (n + 16 * die)))
      (some false) ∧ b = { q.1 with sets := s.sets ++ [t] } ∧ t.die = die ∧ t.num = n ∧ t.ctx = c.slot ∧ t.st = .opened ∧
      t.seq = 0 ∧ t.admitted = 0 ∧ t.stages.length = stages ∧ t.holding = [] ∧ t.lfsr = lfsrSeed c.routeseed n ∧
      ∀ i < stages, (t.ring i).cap = tableCap q.2 (64 + 16 * i) ∧ (t.ring i).used = [] ∧ (t.stage i).p = 32768) ∧
    ((∀ n < 16, taken n = true) ∨ ¬ fits →
      AnswersOnly (exec (.routeSet f) s) q.1 w g f x (some (BitVec.allOnes 64)) (some true))) ∧
  (∀ s w g f t b, Issues s w g f → NamesSet s w g f t → findBlock s w.block = some b →
    let x := exeOf s w g f
    let p := popped s w f
    let same := fun (y : StageSet) => y.die == t.die && y.num == t.num && y.ctx == t.ctx
    let offset := fun L => (x.s f.b.toNat).toNat + 64 * L
    (Empty t → ∃ b, AnswersOnly (exec (.routeSetFree f) s) b w g f x none (some false) ∧
      b = { p with sets := s.sets.filter (!same ·), retries := b.retries }) ∧
    (¬ Empty t → AnswersOnly (exec (.routeSetFree f) s) p w g f x none (some true)) ∧
    AnswersOnly (exec (.routeAdmitClose f) s) { p with sets := s.sets.map fun y => if same y then { t with st := .closed } else y }
      w g f x none (some false) ∧
    (t.st = .closed → w.routed = 0 → AnswersOnly (exec (.routeAdmit f) s) p w g f x none (some true)) ∧
    (∀ L place, lanesOf x.en = [L] → t.st = .opened → w.routed = 0 → PlainSet t → t.holding = [] → s.cmds = [] → s.fillQueue = [] →
      farPending s w = false → spadPlace b w.core ((offset L + 8 : Nat) : Int) 56 = some place →
      (t.ring 0).used.length < (t.ring 0).cap →
      ∃ b' w', Retires (exec (.routeAdmit f) s) b' w' g ∧ LaneGets f w w' L t.seq ∧ w'.routed = 0 ∧
        (∀ j, x.slices.contains j = true → ((w'.slice j).readC 0).z = false) ∧
        ∃ T, findSet b' t.die t.num = some T ∧ T.seq = t.seq + 1 ∧ T.admitted = t.admitted + 1 ∧
          Enters b' t T (toBytes 8 (t.seq.toNat * 2 ^ 16 + t.num * 2 ^ 8) ++ spadBytes b place 56)) ∧
    (∀ sel, sel = bits f.imm 3 0 → (sel < 8 ∧ sel < t.stages.length) ∨ sel = 8 ∨ (sel = 9 ∧ t.dropq = true) ∨ sel = 10 →
      let ring := t.queue sel
      (∀ i v, (i, v) ∈ [(2, ring.used.length), (3, ring.cap), (6, t.lfsr.toNat), (9, t.admitted)] → bits f.imm 7 4 = i →
        AnswersOnly (exec (.routeStat f) s) p w g f x (some (BitVec.ofNat 64 v)) none) ∧
      (bits f.imm 7 4 = 0 → sel < 8 → AnswersOnly (exec (.routeStat f) s) p w g f x (some (BitVec.ofNat 64 (t.stage sel).p)) none) ∧
      (∀ L place, lanesOf x.en = [L] → spadPlace b w.core (offset L : Int) 64 = some place →
        (ring.waiting = [] → bit f.imm 4 = true → ∃ w', Retires (exec (.routePop f) s)
          { p with sets := s.sets.map fun y => if same y then t else y } w' g ∧ LaneGets f w w' L 0 ∧
          ∀ j, x.slices.contains j = true → ((w'.slice j).readC 0).z = true) ∧
        (ring.waiting = [] → bit f.imm 4 = false → ¬ Empty t → Waits (exec (.routePop f) s) s w g .retry) ∧
        (∀ slot rest n, ring.waiting = slot :: rest → sel < t.stages.length → sel < t.rings.length → sel < 8 → s.retries = [] →
          s.cmds = [] → IsFirstFree 4096 (fun i => s.held.any fun h => h.die == t.die && h.place == i) n →
          ∃ b' w', Retires (exec (.routePop f) s) b' w' g ∧
            LaneGets f w w' L (BitVec.ofNat 32 (2 ^ 31 + 2 ^ 15 + t.die * 2 ^ 12 + n)) ∧
            (∀ j, x.slices.contains j = true → ((w'.slice j).readC 0).z = false) ∧ (s.owed = [] → b'.mem = s.mem) ∧
            b'.held = s.held ++ [{ die := t.die, place := n, set := t.num, stage := sel, slot, ctx := t.ctx, block := b.id, poppedAt := s.clk }] ∧
            (∃ b2, findBlock b' b.id = some b2 ∧ spadBytes b2 place 64 = homeBytes s (ring.slotPa slot) 64) ∧
            ∃ T, findSet b' t.die t.num = some T ∧ T.queue sel = { ring with waiting := rest })))) ∧
  (∀ s w g f t b, Issues s w g f → findSet s t.die t.num = some t → t.ctx = w.ctx → findBlock s w.block = some b →
    let x := exeOf s w g f
    (∀ L h, lanesOf x.en = [L] → w.routed = 0 → lane (x.src.readV f.b.toNat) L = 1 →
      let tic := lane (x.src.readV f.a.toNat) L
      bit tic 31 = true → bit tic 15 = true →
      (s.held.find? fun y => y.die == bits tic 13 12 && y.place == bits tic 11 0 && y.block == b.id) = some h →
      h.die = t.die → h.set = t.num → h.retry = false → h.stage < 8 → h.stage < t.rings.length → h.stage < t.stages.length →
      t.dropq = false → t.ord = false → t.resolved = [] → t.reorder = [] → t.holding = [] → farPending s w = false →
      ∃ b' T, Retires (exec (.routeVerd f) s) b' x.w g ∧
        b'.held = s.held.filter (fun y => !(y.die == h.die && y.place == h.place)) ∧ findSet b' t.die t.num = some T ∧
        (T.ring h.stage).used = (t.ring h.stage).used.filter (· != h.slot) ∧
        ((t.stage h.stage).wn < t.nwin → T.stage h.stage = { t.stage h.stage with
          wn := (t.stage h.stage).wn + 1, wtotal := (t.stage h.stage).wtotal + (s.clk - h.poppedAt) }))) ∧
  (∀ s die num t r, findSet s die num = some t → PlainSet t → t.holding = [(.route, r)] → r.length = 64 →
    bit (word64 r 0) 0 = false → (t.ring 0).used.length < (t.ring 0).cap → s.fillQueue = [] →
    (∀ h ∈ s.held, ∃ b, findBlock s h.block = some b ∧ b.ended = false) →
    Becomes (exec (.holdingStoreRetry die num) s) fun t' => ∃ T, findSet t' die num = some T ∧ T.holding = [] ∧ Enters t' t T r)

/-! ### Searches (15/R348-R363, 18/R419-R421) -/

namespace Sys2Proof.Spec

/-- Where a heavy command's permit stands after its issue: one that the warp has reserved, or it waits (16/R387). -/
def permitAt (w : Warp) : PermitSt := if 0 < w.permits then .reserved else .waiting

/-- A command of an engine is issued: tied, its flag rises, else its group waits; it takes a permit of the warp's, if it has one. -/
def CommandIssued (t : State) (w : Warp) (g : Group) (flag : Option Nat) (wait : Wait) : Prop :=
  ∃ w', findWarp t w.id = some w' ∧ w'.v = w.v ∧ w'.slices = w.slices ∧ w'.permits = w.permits - 1 ∧
    (∀ m, w'.flag m = if flag = some m then w.flag m + 1 else w.flag m) ∧
    w'.groups = (w.setGroup { g.next with wait := if flag = none then wait else g.wait }).groups

/-- The result record of a search or a round (15/R356): STATUS and COUNT, EVALS and SNAP, the entries, and filler up to `k`. -/
def resultRecord (status evals snap : W32) (entries : List (W32 × W32)) (k : Nat) (fill : W32) : List Byte :=
  wordsToBytes ((status ++ BitVec.ofNat 32 entries.length : W64) :: (evals ++ snap : W64) ::
    (entries.map (fun e => (e.2 ++ e.1 : W64)) ++ List.replicate (k - entries.length) ((0xFFFFFFFF : W32) ++ fill : W64)))

/-- `bytes` stand at the addresses that a range names, and no other byte of memory has changed. -/
def RangeWritten (s t : State) (va : Nat) (pages : List Nat) (bytes : List Byte) : Prop :=
  ((List.range bytes.length).map (pageByte va pages)).Nodup → Calm s →
    (∀ i < bytes.length, homeByte t (pageByte va pages i) = bytes.getD i 0) ∧
    ∀ q, (∀ i < bytes.length, pageByte va pages i ≠ q) → homeByte t q = homeByte s q

end Sys2Proof.Spec

/-- R348, R353, R362, R364: `srch`, `kmerge` and `nbcall` issue their commands where their operands pass the checks: the query with
the operands of its eight registers, the contribution with its entries, and one bank instance for each frame. -/
def Obligations.SearchIssue : Prop :=
  ∀ s w g f c b l, Issues s w g f → findCtx s w.ctx = some c → findBlock s w.block = some b → findLaunch s b.launch = some l →
    (∀ n, tiedFlag g f = some n → w.flag n < 15) →
    let x := exeOf s w g f
    let p := popped s w f
    let r := fun i => x.s (f.a.toNat + i)
    (∀ o bar pc dpas qpas rpas lpas, barNamed w b l (bits (r 5) 15 0) = some (o, bar) → slotIndex (r 6) = some pc →
      let prog : W64 := BitVec.ofNat 64 (8 * 2 ^ 56)
      let k := bits (r 2) 10 0
      1 ≤ k → k ≤ 1024 → bits (r 2) 63 11 = 0 → bits (r 3) 63 32 = 0 → bits (r 5) 63 16 = 0 → bits (r 7) 63 32 = 0 →
      (r 0).toNat % 16 = 0 → (r 4).toNat % 16 = 0 → (r 1).toNat % 64 = 0 →
      namedRange p c needIn prog (r 1).toNat 128 = .ok dpas → pageError p (r 1).toNat dpas 16 8 = none →
      let w2 := word64 (pageBytes p (r 1).toNat dpas 16 8) 0
      namedRange p c needIn prog (r 0).toNat (if vecOk w2 then vecBytes w2 else 16) = .ok qpas →
      namedRange p c needOut prog (r 4).toNat (16 + 8 * k) = .ok rpas → namedRange p c needProgram prog (pc / 5 * 64) 64 = .ok lpas →
      Effect (exec (.srch f) s) fun t => t.mem = s.mem ∧ CommandIssued t w g (tiedFlag g f) (.query s.nextId) ∧
        t.queries = s.queries ++ [{
          id := s.nextId, ctx := w.ctx, warp := w.id, block := w.block, core := w.core, flag := tiedFlag g f, noprune := bit f.sub 0
          qva := (r 0).toNat, qpas, dva := (r 1).toNat, dpas, k, snap := (r 3).setWidth 32, resva := (r 4).toNat, rpas, owner := o, bar
          prog := pc, budget := if r 7 = 0 then 2 ^ 32 - 1 else (r 7).toNat, word2 := w2, ids := warpIds p x.w 7
          permit := permitAt w }]) ∧
    (∀ o bar hpas epas rpas,
      let tree := bits (r 1) 7 0
      let word := (tabGet {} s.trees tree).word
      let prog : W64 := BitVec.ofNat 64 (9 * 2 ^ 56 + tree)
      let k := bits (r 2) 10 0
      let va := (r 0).toNat
      bit word 63 = true → (if bit word 62 then barNamed w b l (bits (r 3) 15 0) else some (.warp w.id, 0)) = some (o, bar) →
      1 ≤ k → k ≤ 1024 → bits (r 1) 31 8 = 0 → bits (r 2) 63 11 = 0 → bits (r 3) 63 16 = 0 → va % 64 = 0 →
      (bit word 62 = true → (r 4).toNat % 16 = 0) →
      namedRange p c needIn prog va 16 = .ok hpas → pageError p va hpas 0 16 = none →
      let head := fun i => word64 (pageBytes p va hpas 0 16) (8 * i)
      let n := min (bits (head 0) 31 0) k
      namedRange p c needIn prog va (16 + 8 * n) = .ok epas → pageError p va epas 16 (8 * n) = none →
      (if bit word 62 then namedRange p c needOut prog (r 4).toNat (16 + 8 * k) else .ok []) = .ok rpas →
      let e := fun i => word64 (pageBytes p va epas 16 (8 * n)) (8 * i)
      ∃ q, Retires (exec (.kmerge f) s) q x.w g ∧ q.mem = s.mem ∧ q = { onlyHome p q with
        nextId := s.nextId + 1
        kmcmds := s.kmcmds ++ [{ id := s.nextId, ctx := w.ctx, resva := (r 4).toNat, rpas, owner := o, bar, k }]
        kmflight := s.kmflight ++ [{ id := s.nextId, k := {
          tree, round := (r 1).extractLsb' 32 32, k, status := (head 0).extractLsb' 32 32, evals := (head 1).extractLsb' 32 32
          snap := (head 1).setWidth 32, loc := some s.nextId, sender := none
          entries := (List.range n).map fun i => ((e i).setWidth 32, (e i).extractLsb' 32 32) } }] }) ∧
    (∀ o pc lpas frames,
      let n := bits (r 2) 6 0
      let loops := bits (r 3) 15 0
      (if bit f.sub 0 then o = none else o.isSome = true ∧ o = barNamed w b l (bits (r 4) 15 0) ∧ bits (r 4) 63 16 = 0) →
      slotIndex (r 0) = some pc → bits (r 2) 63 7 = 0 → bits (r 3) 63 16 = 0 → (r 1).toNat % 2 ^ 21 = 0 → 1 ≤ n → n ≤ 64 →
      loops ≠ 0 → namedRange p c needProgram (BitVec.ofNat 64 (7 * 2 ^ 56)) (pc / 5 * 64) 64 = .ok lpas →
      frameRanges p c (r 1).toNat n 0 = .ok frames →
      Effect (exec (.nbcall f) s) fun t => t.mem = s.mem ∧ CommandIssued t w g (tiedFlag g f) (.nb s.nextId) ∧
        t.nbcmds = s.nbcmds ++ [{
          id := s.nextId, ctx := w.ctx, warp := w.id, block := w.block, core := w.core, flag := tiedFlag g f, bar := o, prog := pc, loops
          va := (r 1).toNat, frames := n, ids := warpIds p x.w 7, permit := permitAt w }] ∧
        t.insts = s.insts ++ frames.mapIdx fun i pages => {
          id := s.nextId + 1 + i, cmd := s.nextId, ctx := w.ctx, chan := chanOf s (pages.headD 0), pages, frameIdx := i, pc })

/-- R354-R356, R360-R363, R419-R421: a query is installed with its descriptor, its vector and one walker at the entry node; a
heap keeps its nearest entries; a bound reaches the query's base dies; a message makes its walker; a search that nothing is left
of writes its result and completes; a contribution opens its round, joins it, or finds it closed. -/
def Obligations.SearchEvents : Prop :=
  (∀ s q c, findQuery s q.id = some q → findCtx s q.ctx = some c → q.installed = false → permitted q.permit = true →
    ctxRuns s q.ctx = true → pageError s q.dva q.dpas 0 128 = none → vecOk q.word2 = true →
    pageError s q.qva q.qpas 0 (vecBytes q.word2) = none →
    let d := readDescriptor s q
    let base := descStack d (shardOf d (descEntry d))
    descriptorBad d q.word2 = false → mayAdmit s q = true → tablesFree s d = true → walkersAt s base < 16384 →
    Becomes (exec (.queryInstall q.id) s) fun t =>
      (∃ q', findQuery t q.id = some q' ∧ q'.installed = true ∧ q'.desc = d ∧ q'.home = base ∧ q'.heap = q.heap ∧
        q'.snap = (if q.snap = 0 then (d.getD 0 0).setWidth 32 else q.snap) ∧
        q'.qvec = pageBytes s q.qva q.qpas 0 (vecBytes q.word2)) ∧
      (∃ k, t.walkers = s.walkers ++ [k] ∧ k.query = q.id ∧ k.base = base ∧
        k.pc = q.prog ∧ k.hops = 0 ∧ k.node = none ∧ ∀ n, tabGet 0 k.w n = if n = 0 then (descEntry d).setWidth 64 else 0) ∧
      (∀ w, findWarp s q.warp = some w → ∃ w', findWarp t q.warp = some w' ∧
        (∀ m, w'.flag m = if q.flag = some m then w.flag m - 1 else w.flag m) ∧
        w'.groups = w.groups.map fun g => if g.wait = .query q.id then { g with wait := .none } else g)) ∧
  (∀ s (p : Push) q, s.pushes.find? (·.id == p.id) = some p → findQuery s p.query = some q → q.ended = false → 1 ≤ q.k →
    let e := (p.dist, p.node)
    let near := entryBefore (isInt8 q)
    Becomes (exec (.heapPushArrive p.id) s) fun t => t.pushes = s.pushes.filter (·.id != p.id) ∧
      ∃ q', findQuery t q.id = some q' ∧ q' = { q with heap := q'.heap } ∧
        (q.heap = [] → q'.heap = [e]) ∧
        ((∀ y ∈ q.heap, y.2 ≠ p.node ∧ near e y = false) → q'.heap = (q.heap ++ [e]).take q.k) ∧
        (∀ y ys, q.heap = y :: ys → (∀ z ∈ q.heap, z.2 ≠ p.node) → near e y = true → q'.heap = (e :: q.heap).take q.k) ∧
        (∀ y, q.heap.find? (·.2 == p.node) = some y → lessDist (isInt8 q) p.dist y.1 = false → q'.heap = q.heap)) ∧
  (∀ s q e, findQuery s q.id = some q → q.heap[q.k - 1]? = some e →
    Becomes (exec (.boundBroadcast q.id) s) fun t => ∃ b, findQuery t q.id = some { q with bounds := b } ∧
      t = { s with queries := t.queries } ∧
      ∀ i < 16, tabGet none b (descStack q.desc i) = some (if isInt8 q then e.1.signExtend 64 else e.1.setWidth 64)) ∧
  (∀ s m q, s.msgs.find? (·.id == m.id) = some m → findQuery s m.query = some q → ctxRuns s q.ctx = true → walkersAt s m.base < 16384 →
    Becomes (exec (.walkerMessageArrive m.id) s) fun t => t.msgs = s.msgs.filter (·.id != m.id) ∧ ∃ k, t.walkers = s.walkers ++ [k] ∧
      k.query = m.query ∧ k.base = m.base ∧ k.pc = m.pc ∧ k.hops = m.hops ∧
      ∀ n, tabGet 0 k.w n = if n = 0 then m.node else m.regs.getD n 0) ∧
  (∀ s q, findQuery s q.id = some q → q.installed = true → ctxRuns s q.ctx = true →
    q.ended = true ∨ ((∀ k ∈ s.walkers, k.query ≠ q.id) ∧ (∀ k ∈ s.msgs, k.query ≠ q.id) ∧ ∀ k ∈ s.pushes, k.query ≠ q.id) →
    Becomes (exec (.searchEnd q.id) s) fun t => t.queries = s.queries.filter (·.id != q.id) ∧ (∀ k ∈ t.walkers, k.query ≠ q.id) ∧
      t.deliveries = s.deliveries ++ [⟨s.nextId, q.owner, q.bar⟩] ∧
      RangeWritten s t q.resva q.rpas (resultRecord (q.status.setWidth 32) (BitVec.ofNat 32 q.evals) q.snap q.heap q.k
        (if efmt q.word2 = 11 then 0x7FFFFFFF else 0x7F800000))) ∧
  (∀ s (k : Contribution),
    let t := tabGet {} s.trees k.tree
    let last : W32 := t.word.setWidth 32
    let ahead := (k.round - last).toNat
    let expected := max 1 (bits t.word 45 37)
    let done := fun (s' : State) (k : Contribution) (u : State) =>
      (ahead = 0 ∨ 2 ^ 31 ≤ ahead ∨ (ahead ≤ 256 ∧ k.round ∈ t.closed) →
        u = { s' with kmcmds := s'.kmcmds.filter fun m => some m.id != k.loc }) ∧
      (1 ≤ ahead → ahead ≤ 256 → k.round ∉ t.closed → s.rounds = [] → 1 < expected →
        u = { s' with rounds := [{ tree := k.tree, round := k.round, parts := [k] }] }) ∧
      (∀ r, 1 ≤ ahead → ahead ≤ 256 → k.round ∉ t.closed → s.rounds = [r] → r.tree = k.tree → r.round = k.round →
        r.parts.length + 1 < expected → u = { s' with rounds := [{ r with parts := r.parts ++ [k] }] }) ∧
      (∀ r, ahead = 1 → t.closed = [] → s.rounds = [r] → r.tree = k.tree → r.round = k.round → r.parts.length + 1 = expected →
        bit t.word 62 = true → u.rounds = [] ∧ (tabGet {} u.trees k.tree).closed = [] ∧
          (tabGet {} u.trees k.tree).word.setWidth 32 = k.round)
    bit t.word 63 = true →
    (∀ id, k.loc = some id → (∃ m ∈ s.kmflight, m.id = id ∧ m.k = k) →
      Becomes (exec (.kmergeContributionArrive k) s) fun u => done { s with kmflight := s.kmflight.filter (·.id != id) } k u) ∧
    (∀ p, k.loc = none → k.sender = some p → fabricOn s = true →
      Becomes (exec (.kmergeContributionArrive k) s) fun u => done (heard s p) k u) ∧
    (∀ r : Resend, s.resends.find? (·.id == r.id) = some r → r.k = k →
      Becomes (exec (.kmergeResendTimer r.id) s) fun u => done { s with resends := s.resends.filter (·.id != r.id) } k u))

/-! ### Walkers (15/R351, R357, R359-R361) -/

namespace Sys2Proof.Spec

/-- The walker issues, in a search that has not ended. -/
def WalkIssues (s : State) (w : Walker) (q : Query) : Prop :=
  s.cur = .walker w.id ∧ findWalker s w.id = some w ∧ findQuery s w.query = some q ∧ q.ended = false

/-- The walker goes on as `w'`, in a package that is otherwise `base`. -/
def Walks (o : Host.Outcome State Fault Refusal) (base : State) (w' : Walker) : Prop :=
  o = .next { setWalker base w' with last := .retired }

/-- wD receives a value; nothing else changes but the slot. -/
def WalkSets (o : Host.Outcome State Fault Refusal) (base : State) (w : Walker) (n : Nat) (y : W64) : Prop :=
  ∃ r, Walks o base { w.next with w := r } ∧ ∀ m, tabGet 0 r m = if m = n then y else tabGet 0 w.w m

/-- The walker ends, leaving a bit in its search's STATUS, or none; `last` ends the search with it. -/
def WalkEnds (o : Host.Outcome State Fault Refusal) (s : State) (w : Walker) (q : Query) (n : Option Nat) (last : Bool) : Prop :=
  ∃ t, o = .next t ∧ t.walkers = s.walkers.filter (·.id != w.id) ∧
    findQuery t q.id = some { q with status := q.status ||| (match n with | some n => BitVec.ofNat 7 (2 ^ n) | none => 0), ended := last } ∧
    t = { s with walkers := t.walkers, queries := t.queries, last := .trapped }

/-- The hardware's order of a search: a node's shard, its base die, and its record's header (15/R349-R350). -/
def nodeHome (q : Query) (node : W32) : Nat := descStack q.desc (shardOf q.desc node)

/-- Element `i` of an INT8 vector. -/
def int8At (v : List Byte) (i : Nat) : Int := (v.getD i 0).toInt

end Sys2Proof.Spec

/-- R359: the walker's moves, arithmetic, comparisons and branches; `wcnt` reads the counts of its search. -/
def Obligations.WalkerArithmetic : Prop :=
  ∀ s w q f, WalkIssues s w q →
    let a := tabGet 0 w.w f.a.toNat
    let b := if f.bk = .imm then f.imm.signExtend 64 else tabGet 0 w.w f.b.toNat
    let S := fun i y => WalkSets (exec i s) s w f.d.toNat y
    let at_ := fun t => { w with pc := t, entry := .transfer w.pc }
    S (.wmovi f) (f.imm.signExtend 64) ∧
    S (.wmoviHi f) (f.imm ++ (tabGet 0 w.w f.d.toNat).setWidth 32) ∧
    S (.wadd f) (a + b) ∧ S (.wsub f) (a - b) ∧ S (.wand f) (a &&& b) ∧ S (.wshr f) (a >>> (b.toNat % 256)) ∧
    Walks (exec (.wcmp f) s) s { w.next with flags := flagsOf a b } ∧
    Walks (exec (.wcmpF f) s) s { w.next with
      flags := relationFlags (cmpVal (f32Fmt.value (bits a 31 0)) (f32Fmt.value (bits b 31 0))) } ∧
    (f.sub ≠ 15 → condition w.flags f.sub.toNat = false → Walks (exec (.wbr f) s) s w.next) ∧
    (f.sub = 15 → WalkEnds (exec (.wbr f) s) s w q (some 2) false) ∧
    (∀ t, slotPlus w.pc f.imm.toInt = some t → Walks (exec (.wj f) s) s (at_ t) ∧
      (f.sub ≠ 15 → condition w.flags f.sub.toNat = true → Walks (exec (.wbr f) s) s (at_ t))) ∧
    (slotPlus w.pc f.imm.toInt = none → WalkEnds (exec (.wj f) s) s w q (some 2) false) ∧
    (f.imm = 0 → ∃ t y, y ≤ q.evals ∧ WalkSets (exec (.wcnt f) s) t w f.d.toNat (BitVec.ofNat 64 y) ∧ t = { s with free := t.free }) ∧
    (f.imm = 1 → S (.wcnt f) (BitVec.ofNat 64 w.hops)) ∧
    (f.imm = 2 → S (.wcnt f) (BitVec.ofNat 64 q.k))

/-- R351, R357, R360-R361: nodes of the walker's own base die, their neighbours, fields and distances, visible at the search's
snapshot; pushes, bounds and the visited filter; walkers that are made, that move and that end. -/
def Obligations.WalkerMemory : Prop :=
  ∀ s w q f, WalkIssues s w q →
    let reg := fun n => tabGet 0 w.w n
    let S := fun i y => WalkSets (exec i s) s w f.d.toNat y
    let ones : W64 := BitVec.allOnes 64
    let shows := fun (h : W64) => bits h 31 0 ≤ q.snap.toNat && q.snap.toNat < bits h 63 32
    let a := reg f.a.toNat
    let na : W32 := a.setWidth 32
    (bits a 63 32 = 0 →
      (16 ≤ shardOf q.desc na → WalkEnds (exec (.wnode f) s) s w q (some 3) false) ∧
      (shardOf q.desc na < 16 → nodeHome q na ≠ w.base → WalkEnds (exec (.wnode f) s) s w q (some 1) false) ∧
      (shardOf q.desc na < 16 → nodeHome q na = w.base → ∀ h, nodeHead s q w.base na = .ok h →
        WalkSets (exec (.wnode f) s) h.1 { w with node := some na } f.d.toNat
          (if shows h.2.1 then BitVec.ofNat 64 (bits h.2.2 15 0) else ones))) ∧
    (w.node = none → ∀ i ∈ [Instr.wnbr f, Instr.wld f, Instr.wdist f, Instr.wseen f], WalkEnds (exec i s) s w q (some 2) false) ∧
    (∀ node, w.node = some node →
      (∀ h, nodeHead s q w.base node = .ok h →
        (a.toNat < bits h.2.2 15 0 → a.toNat < descDeg q.desc → ∀ bs,
          nodeBytes h.1 q w.base node (16 + vecBytes q.word2 + 8 * a.toNat) 8 = .ok bs →
          let e := word64 bs.2 0
          WalkSets (exec (.wnbr f) s) bs.1 w f.d.toNat
            (if bits e 63 32 ≤ q.snap.toNat then BitVec.ofNat 64 (bits e 31 0) else ones)) ∧
        (bits h.2.2 15 0 ≤ a.toNat ∨ descDeg q.desc ≤ a.toNat → WalkSets (exec (.wnbr f) s) h.1 w f.d.toNat ones) ∧
        (q.evals < q.budget →
          (shows h.2.1 = false → WalkSets (exec (.wdist f) s) h.1 w f.d.toNat ones) ∧
          (shows h.2.1 = true → ∀ v, nodeBytes h.1 q w.base node 16 (vecBytes q.word2) = .ok v →
            WalkSets (exec (.wdist f) s) (setQuery v.1 { q with evals := q.evals + 1 }) w f.d.toNat
              (if efmt q.word2 = 11 then
                let n := dim q.word2
                BitVec.ofInt 64 (if metric q.word2 = 0 then
                  sumTo n fun i => (int8At q.qvec i - int8At v.2 i) * (int8At q.qvec i - int8At v.2 i)
                else -sumTo n fun i => int8At q.qvec i * int8At v.2 i)
              else BitVec.ofNat 64 (floatDistance q.word2 q.qvec v.2))))) ∧
      (q.budget ≤ q.evals → WalkEnds (exec (.wdist f) s) s w q (some 0) true) ∧
      (let off := (a + f.imm.signExtend 64).toNat;
        (off % 8 ≠ 0 ∨ recSize q.desc q.word2 ≤ off → WalkEnds (exec (.wld f) s) s w q (some 5) false) ∧
        (off % 8 = 0 → off < recSize q.desc q.word2 → ∀ bs, nodeBytes s q w.base node off 8 = .ok bs →
          WalkSets (exec (.wld f) s) bs.1 w f.d.toNat (word64 bs.2 0))) ∧
      (q.seen.contains (w.base, node) = true → w.base ∉ q.full → S (.wseen f) 1) ∧
      (q.seen.contains (w.base, node) = false →
        ((q.seen.filter (·.1 == w.base)).length < 65536 →
          WalkSets (exec (.wseen f) s) (setQuery s { q with seen := (w.base, node) :: q.seen }) w f.d.toNat 0) ∧
        (65536 ≤ (q.seen.filter (·.1 == w.base)).length → ∃ q', (∀ b, b ∈ q'.full ↔ b = w.base ∨ b ∈ q.full) ∧
          q' = { q with status := q.status ||| 16, full := q'.full } ∧
          WalkSets (exec (.wseen f) s) (setQuery s q') w f.d.toNat 0))) ∧
    (let dist : W32 := a.setWidth 32
      let dropped := efmt q.word2 ≠ 11 ∧ (f32Fmt.value dist.toNat).isNan = true;
      (dropped → Walks (exec (.wpush f) s) s w.next) ∧
      (¬ dropped → Walks (exec (.wpush f) s) { s with
        nextId := s.nextId + 1
        pushes := s.pushes ++ [{ id := s.nextId, query := q.id, dist, node := (reg f.b.toNat).setWidth 32 }] } w.next)) ∧
    (let most : W64 := if efmt q.word2 = 11 then 0x7FFFFFFF else 0x7F800000;
      S (.wbound f) (if q.noprune then most else match tabGet none q.bounds w.base with | some y => y | none => most)) ∧
    (∀ t, slotPlus w.pc f.imm.toInt = some t →
      let regs := a :: (List.range 7).map fun i => reg (i + 1);
      let hops := (w.hops + 1) % 65536;
      (16 ≤ shardOf q.desc na → Walks (exec (.wspawn f) s) (setQuery s { q with status := q.status ||| 8 }) w.next ∧
        WalkEnds (exec (.whop f) s) s w q (some 3) false) ∧
      (shardOf q.desc na < 16 →
        Walks (exec (.wspawn f) s) { s with
          nextId := s.nextId + 1
          msgs := s.msgs ++ [{ id := s.nextId, query := q.id, spawn := true, base := nodeHome q na, node := a, regs, pc := t, hops }] }
          w.next ∧
        (nodeHome q na = w.base → ∃ r, Walks (exec (.whop f) s) s { w with
            w := r, pc := t, entry := .transfer w.pc, flags := {}, node := none, hops } ∧
          ∀ n < 8, tabGet 0 r n = regs.getD n 0) ∧
        (nodeHome q na ≠ w.base → Effect (exec (.whop f) s) fun u => u.walkers = s.walkers.filter (·.id != w.id) ∧
          u = { s with walkers := u.walkers, msgs := u.msgs, last := .retired } ∧
          u.msgs = s.msgs ++ [{ id := w.id, query := q.id, spawn := false, base := nodeHome q na, node := a, regs, pc := t, hops }]))) ∧
    WalkEnds (exec (.wend f) s) s w q none false

/-! ### Bank microprograms (15/R364-R365, 17/R402, 23/R434) -/

namespace Sys2Proof.Spec

/-- The instance issues. -/
def BankIssues (s : State) (i : NbInst) (c : NbCmd) : Prop :=
  s.cur = .bank i.id ∧ findInst s i.id = some i ∧ findNb s i.cmd = some c

/-- The instance goes on as `i'`, in a package that is otherwise `base`. -/
def Steps (o : Host.Outcome State Fault Refusal) (base : State) (i' : NbInst) : Prop :=
  o = .next { setInst base i' with last := .retired }

/-- bD receives a row. -/
def BankSets (o : Host.Outcome State Fault Refusal) (base : State) (i : NbInst) (n : Nat) (R : Row → Prop) : Prop :=
  ∃ t y, Steps o base { i.next with b := t } ∧ R y ∧ ∀ m, tabGet 0 t m = if m = n then y else tabGet 0 i.b m

/-- A result element by element: exact and then rounded once to nearest even in a float format, or clamped in an integer one. -/
def BankElements (fmt : Nat) (vals : Nat → Val) (y : Row) : Prop :=
  let w := if fmt = 0 then 32 else if fmt = 11 then 8 else 16
  ∀ n < 8192 / w, y.extractLsb' (w * n) w =
    if fmt = 10 ∨ fmt = 11 then narrow true true w (vals n).rat.floor
    else match binFmt fmt with | some F => BitVec.ofNat w (F.round 0 false 0 (vals n)) | none => 0

/-- Element `n` of a row in the current format. -/
def bankAt (fmt : Nat) (y : Row) (n : Nat) : Val :=
  let w := if fmt = 0 then 32 else if fmt = 11 then 8 else 16
  elemValue fmt (y.extractLsb' (w * n) w).toNat

/-- The row that `base + i × step` names, and its address in the frame. -/
def bankRowOf (i : NbInst) (f : Fields) : Nat := bits f.imm 15 0 + i.i * bits f.imm 31 16
def bankRowPa (i : NbInst) (r : Nat) : Nat := i.pages.getD (r / 4) 0 + r % 4 * 1024

end Sys2Proof.Spec

/-- R365: rows read and written, arithmetic on every element of a row in the current format, loops, signals and the end. -/
def Obligations.BankProgram : Prop :=
  ∀ s i c f, BankIssues s i c →
    let row := fun n => tabGet 0 i.b n
    let r := bankRowOf i f
    let e := fun n k => bankAt i.fmt (row n) k
    let imm := if i.fmt = 10 ∨ i.fmt = 11 then ofInt f.imm.toInt else f32Fmt.value f.imm.toNat
    let S := fun ins R => BankSets (exec ins s) s i f.d.toNat R
    S (.nbscale f) (BankElements i.fmt fun k => mulVal (e f.a.toNat k) imm) ∧
    S (.nbadd f) (BankElements i.fmt fun k => addVal 0 (e f.a.toNat k) (e f.b.toNat k)) ∧
    S (.nbfma f) (BankElements i.fmt fun k => addVal 0 (mulVal (e f.a.toNat k) (e f.b.toNat k)) (e f.d.toNat k)) ∧
    S (.nbclr f) (· = 0) ∧
    Steps (exec (.nbfmt f) s) s { i.next with fmt := f.imm.toNat } ∧
    (r < 2048 → (∀ l < 8, badRead s (bankRowPa i r + 128 * l) = none) → chanOf s (bankRowPa i r) = i.chan →
      ∃ b t, Steps (exec (.nbrow f) s) b { i.next with inStep := true, b := t } ∧ b = onlyHome s b ∧ b.mem = s.mem ∧
      ∀ m, tabGet 0 t m = if m = f.d.toNat then BitVec.ofNat 8192 (ofBytes (homeBytes s (bankRowPa i r) 1024)) else row m) ∧
    (r < 2048 → (∀ x, findCtx s c.ctx = some x → ∀ n < 1024, sealedAt x (c.va + i.frameIdx * 2 ^ 21 + r * 1024 + n) = false) →
      ∃ b, Steps (exec (.nbst f) s) b { i.next with inStep := true } ∧ b = onlyHome s b ∧
      (Calm s → chanOf s (bankRowPa i r) = i.chan → (∀ k < 1024, homeByte b (bankRowPa i r + k) = (row f.a.toNat).extractLsb' (8 * k) 8) ∧
        ∀ q, q < bankRowPa i r ∨ bankRowPa i r + 1024 ≤ q → homeByte b q = homeByte s q)) ∧
    (i.i + 1 < c.loops → ∀ t, slotPlus i.pc f.imm.toInt = some t → bankTarget c i t = true →
      Steps (exec (.nbloop f) s) s { i with i := i.i + 1, pc := t, entry := .transfer i.pc }) ∧
    (c.loops ≤ i.i + 1 → Steps (exec (.nbloop f) s) s { i.next with i := i.i + 1 }) ∧
    (∀ o, c.bar = some o → ∃ b, Steps (exec (.nbsig f) s) b i.next ∧
      b = { s with nextId := s.nextId + 1, deliveries := s.deliveries ++ [⟨s.nextId, o.1, o.2⟩] }) ∧
    ((∃ j ∈ s.insts, j.id ≠ i.id ∧ j.cmd = c.id) → Effect (exec (.nbend f) s) fun t =>
      t.insts = s.insts.filter (·.id != i.id) ∧ t = { s with insts := t.insts, chans := t.chans, last := .retired }) ∧
    ((∀ j ∈ s.insts, j.id ≠ i.id → j.cmd ≠ c.id) → c.permit ≠ .held → c.permit ≠ .reserved → Effect (exec (.nbend f) s) fun t =>
      t.nbcmds = s.nbcmds.filter (·.id != c.id) ∧ (∀ j ∈ t.insts, j.cmd ≠ c.id) ∧ (s.owed = [] → t.mem = s.mem) ∧
      (∀ o, c.bar = some o → t.deliveries = s.deliveries ++ [⟨s.nextId, o.1, o.2⟩]) ∧
      ∀ w, findWarp s c.warp = some w → ∃ w', findWarp t c.warp = some w' ∧
        (∀ m, w'.flag m = if c.flag = some m then w.flag m - 1 else w.flag m) ∧
        w'.groups = w.groups.map fun g => if g.wait = .nb c.id then { g with wait := .none } else g)

/-- R365, R402, R434: an instance starts with its program read; a row step ends; an ordinary access suspends
a running instance at a row step's end, is served, and the instance resumes with a row step owed; the window ends it too. -/
def Obligations.BankEvents : Prop :=
  (∀ s i c x, findInst s i.id = some i → findNb s i.cmd = some c → findCtx s i.ctx = some x → i.started = false → i.saved = false →
    runningOn s i.chan = none → ctxRuns s i.ctx = true → permitted c.permit = true →
    (∀ j ∈ s.insts, j.chan = i.chan → j = i) →
    Becomes (exec (.nbInstanceStart i.id) s) fun t => t = { onlyHome s t with insts := t.insts } ∧ t.mem = s.mem ∧
      ∃ i', findInst t i.id = some i' ∧
      i'.started = true ∧ i'.lines = (programLines s x c.prog 64 0).map (·.2) ∧
      i' = { i with started := true, lines := i'.lines, linePas := i'.linePas, bad := i'.bad }) ∧
  (∀ s i, runningOn s i.chan = some i → findInst s i.id = some i →
    let ch := findChan s i.chan
    let here := fun (t : State) (i' : NbInst) (ch' : Chan) => t = { s with insts := t.insts, chans := t.chans } ∧
      findInst t i.id = some i' ∧ findChan t i.chan = ch' ∧ ∀ k, k ≠ i.chan → findChan t k = findChan s k
    let taken := fun (pa : Nat) (ch : Chan) => { ch with
      serving := some pa, openRows := bankRow s pa :: ch.openRows.filter fun y => y.1 != (bankRow s pa).1 }
    let resumed := { ch with serving := none, owesStep := true, windowPassed := false, openRows := [] }
    (i.inStep = true → ctxRuns s i.ctx = true →
      (ch.waiting = [] → Becomes (exec (.rowStepEnd i.chan) s) fun t =>
        here t { i with inStep := false, rowSteps := i.rowSteps + 1 } { ch with owesStep := false }) ∧
      (∀ pa rest, ch.waiting = pa :: rest → Becomes (exec (.rowStepEnd i.chan) s) fun t =>
        here t { i with inStep := false, rowSteps := i.rowSteps + 1, suspended := true }
          (taken pa { ch with waiting := rest, owesStep := false, windowPassed := false }))) ∧
    (∀ pa, isHbm pa = true → chanOf s pa = i.chan →
      (i.suspended = true ∨ i.inStep = true ∨ ch.owesStep = true → Becomes (exec (.channelAccessArrive i.chan pa) s) fun t =>
        here t i { ch with waiting := ch.waiting ++ [pa / 128 * 128] }) ∧
      (i.suspended = false → i.inStep = false → ch.owesStep = false → ch.waiting = [] →
        Becomes (exec (.channelAccessArrive i.chan pa) s) fun t =>
          here t { i with suspended := true } (taken (pa / 128 * 128) { ch with windowPassed := false }))) ∧
    (∀ pa, ch.serving = some pa → i.suspended = true →
      (ch.waiting = [] ∨ ch.windowPassed = true → Becomes (exec (.channelAccessServed i.chan) s) fun t =>
        here t { i with suspended := false } resumed) ∧
      (∀ nxt rest, ch.waiting = nxt :: rest → ch.windowPassed = false → Becomes (exec (.channelAccessServed i.chan) s) fun t =>
        here t i (taken nxt { ch with waiting := rest }))) ∧
    (i.suspended = true → ch.serving = none → Becomes (exec (.arbitrationWindowExpiry i.chan) s) fun t =>
      here t { i with suspended := false } resumed) ∧
    (∀ pa, i.suspended = true → ch.serving = some pa → Becomes (exec (.arbitrationWindowExpiry i.chan) s) fun t =>
      here t i { ch with windowPassed := true }))

/-! ### Context commands (18/R412) -/

namespace Sys2Proof.Spec

/-- A context command completes: the context is `c'` with one more completed command, and the others are as they were. -/
def Completes (o : Host.Outcome State Fault Refusal) (s : State) (slot : Nat) (c' : Ctx) (P : State → Prop) : Prop :=
  Becomes o fun t => findCtx t slot = some { c' with cmdCount := c'.cmdCount + 1 } ∧
    (∀ k, k ≠ slot → findCtx t k = findCtx s k) ∧ P t

/-- A command that changes nothing but its context, which becomes `c'`. -/
def CompletesOnly (o : Host.Outcome State Fault Refusal) (s : State) (slot : Nat) (c' : Ctx) : Prop :=
  Completes o s slot c' fun t => t = { s with ctxs := t.ctxs }

/-- The state `s` but for the translation caches, as in `t`. -/
def onlyTlbs (s t : State) : State := { s with quadTlb := t.quadTlb, coreTlb := t.coreTlb, walkCache := t.walkCache }

/-- No cache holds a translation of a context for an address of a range, nor a table entry of it. -/
def Forgets (t : State) (slot lo hi : Nat) : Prop :=
  (∀ va, lo ≤ va → va < hi → tlbHits t slot va = []) ∧ ∀ pa, walkCached t slot pa = []

end Sys2Proof.Spec

/-- R412: a command whose arguments lie outside their fields is counted without effect. R52: `invalidate` removes the cached
translations of its range and reads the range table again, and completes once no access uses one of them. R56-R57: fault-done
replays the units parked on its FID or kills their blocks. R373: counter set. R399-R401: a pre-empted block is saved, and a
context is switched out and in. R366: restart after `halt`. R375, R380: queues are bound and unbound. R459: the report. -/
def Obligations.ContextCommands : Prop :=
  ∀ s slot c (arg : BitVec 56) (arg2 : W64), findCtx s slot = some c →
    let Counted := fun i => CompletesOnly (exec i s) s slot c
    let later := { s with deferred := true }
    (bits arg 55 44 ≠ 0 → Counted (.invalidate slot arg arg2)) ∧
    (bits arg 55 32 ≠ 0 ∨ bits arg2 63 1 ≠ 0 → Counted (.faultDone slot arg arg2)) ∧
    (64 * c.cgCount ≤ arg.toNat ∨ bits arg2 63 32 ≠ 0 → Counted (.counterSet slot arg arg2)) ∧
    (bits arg 55 32 ≠ 0 ∨ arg2 ≠ 0 → Counted (.preemptBlock slot arg arg2)) ∧
    (arg ≠ 0 ∨ arg2 ≠ 0 →
      Counted (.switchOut slot arg arg2) ∧ Counted (.switchIn slot arg arg2) ∧ Counted (.restartAfterHalt slot arg arg2)) ∧
    (bits arg 55 8 ≠ 0 → Counted (.bindQueue slot arg arg2)) ∧
    (bits arg 55 8 ≠ 0 ∨ arg2 ≠ 0 → Counted (.unbindQueue slot arg arg2)) ∧
    (arg ≠ 0 → Counted (.contextMeasurementReport slot arg arg2)) ∧
    (bits arg 55 44 = 0 →
      let lo := if arg2 = 0 then 0 else arg.toNat * 4096
      let hi := if arg2 = 0 then 2 ^ 64 else arg.toNat * 4096 + arg2.toNat
      let new := readRanges s c.rng
      let used := ∃ r ∈ (lo, hi) :: replacedVas c.ranges new, rangeInUse s slot r.1 r.2 = true
      (¬ used → Completes (exec (.invalidate slot arg arg2) s) s slot { c with ranges := new } fun t =>
        t = { onlyTlbs (onlyHome s t) t with ctxs := t.ctxs } ∧ t.mem = s.mem ∧ Forgets t slot lo hi) ∧
      (used → Becomes (exec (.invalidate slot arg arg2) s) fun t => t = onlyTlbs later t ∧ Forgets t slot lo hi)) ∧
    (bits arg 55 32 = 0 → bits arg2 63 1 = 0 →
      let fid := arg.toNat
      let left := c.parked.filter (·.fid != fid)
      (c.parked.find? (·.fid == fid) = none → Counted (.faultDone slot arg arg2)) ∧
      ∀ p, c.parked.find? (·.fid == fid) = some p →
        (bit arg2 0 = false → (∀ k ∈ s.cmds, k.ctx = slot → k.parked ≠ some fid) →
          Completes (exec (.faultDone slot arg arg2) s) s slot
            { c with parked := left } fun t =>
            t = { onlyTlbs s t with ctxs := t.ctxs, warps := t.warps, ops := t.ops, scaleReqs := t.scaleReqs, fbuf := t.fbuf } ∧
            Forgets t slot (p.page * 4096) (p.page * 4096 + 4096) ∧
            let lines := fun (w : Warp) => if w.resident
              then (s.fbuf.filter fun l => l.core == w.core && l.ctx == slot && l.fid == fid).map fun l => (l.pa, l.data) else []
            ∀ id w, findWarp s id = some w → ∃ v, findWarp t id = some v ∧ (w.ctx ≠ slot → v = w) ∧
              (w.ctx = slot → v.groups = w.groups.map fun g => if g.wait = .parked fid
                then { g with wait := .none, replay := g.replay ++ lines w } else g)) ∧
        (bit arg2 0 = true → Becomes (exec (.faultDone slot arg arg2) s) fun t =>
          (∀ d, findCtx t slot = some d → ∀ q ∈ d.parked, q.fid ≠ fid) ∧
          ∀ b, parkedBlocks s slot fid = [b.id] → findBlock s b.id = some b → b.ended = false →
            ∀ v ∈ t.warps, v.block ≠ b.id)) ∧
    (arg.toNat < 64 * c.cgCount → bits arg2 63 32 = 0 →
      Completes (exec (.counterSet slot arg arg2) s) s slot c fun t =>
        t = { s with ctxs := t.ctxs, counters := t.counters, launches := t.launches } ∧
        (∀ k, tabGet 0 t.counters k = if k = 64 * c.cgFirst + arg.toNat then arg2.setWidth 32 else tabGet 0 s.counters k) ∧
        (arg2 ≠ 0 → t.launches = s.launches) ∧
        (arg2 = 0 → ∀ l ∈ t.launches, l.ctx = slot → l.wctr = some arg.toNat → l.ready = true)) ∧
    (bits arg 55 32 = 0 → arg2 = 0 →
      (namedBlock s slot arg = none → Counted (.preemptBlock slot arg arg2)) ∧
      ∀ b, namedBlock s slot arg = some b → findBlock s b.id = some b →
        (b.placed = false → Counted (.preemptBlock slot arg arg2)) ∧
        (b.placed = true → canSave s b = false → Becomes (exec (.preemptBlock slot arg arg2) s) fun t =>
          findBlock t b.id = some { b with saving := true } ∧ t = { later with blocks := t.blocks }) ∧
        (b.placed = true → canSave s b = true → Completes (exec (.preemptBlock slot arg arg2) s) s slot c fun t =>
          (∃ b', findBlock t b.id = some b' ∧ b'.placed = false) ∧ ∀ v ∈ t.warps, v.block = b.id → v.resident = false)) ∧
    (arg = 0 → arg2 = 0 →
      ((∀ b ∈ s.blocks, b.ctx ≠ slot) → (∀ i ∈ s.insts, i.ctx ≠ slot) → (∀ r ∈ s.rtn, r.ctx ≠ slot) →
        Completes (exec (.switchOut slot arg arg2) s) s slot { c with loaded := false } fun t =>
          ∀ x ∈ t.sets, x.ctx = slot → x.saved = true) ∧
      (∀ b, s.blocks = [b] → b.ctx = slot → b.placed = true → b.ended = false → canSave s b = false →
        Becomes (exec (.switchOut slot arg arg2) s) fun t => findCtx t slot = some { c with loaded := false } ∧
          t = { later with ctxs := t.ctxs, blocks := [{ b with saving := true }] }) ∧
      (c.loaded = true → Counted (.switchIn slot arg arg2)) ∧
      (c.loaded = false → restoreRoom s c = false → exec (.switchIn slot arg arg2) s = .next later) ∧
      (c.loaded = false → restoreRoom s c = true →
        Completes (exec (.switchIn slot arg arg2) s) s slot
          { c with loaded := true, ranges := readRanges s c.rng, savedRtn := [] } fun t =>
          t = { onlyCaches s t with ctxs := t.ctxs, rtn := t.rtn, sets := t.sets } ∧ t.l1 = s.l1 ∧
          (c.savedRtn = [] → t = { onlyHome s t with ctxs := t.ctxs, rtn := t.rtn, sets := t.sets } ∧ t.mem = s.mem) ∧
          (∀ r, c.savedRtn = [r] → RoomMade s t r.1) ∧
          t.rtn = c.savedRtn.map (fun r => { die := r.1, num := r.2.1, ctx := slot, word := r.2.2 }) ++ s.rtn ∧
          ∀ x ∈ t.sets, x.ctx = slot → x.saved = false) ∧
      CompletesOnly (exec (.restartAfterHalt slot arg arg2) s) s slot { c with halted := false }) ∧
    (bits arg 55 8 = 0 → ∀ r bytes, frontRead s c arg2.toNat 64 = .ok (r, bytes) →
      let w := (List.range 8).map fun i => word64 bytes (8 * i)
      let x := fun i => w.getD i 0
      let h : HwQueue := {
        num := arg.toNat, ctx := slot, rbase := (x 0).toNat, clog := bits (x 1) 3 0, prio := bits (x 1) 7 4, dl := bit (x 1) 8
        maxout := bits (x 1) 31 16, en := bit (x 1) 9, rdva := (x 2).toNat }
      let Refused := Completes (exec (.bindQueue slot arg arg2) s) s slot c fun t =>
        t = { onlyHome s t with ctxs := t.ctxs } ∧ t.mem = s.mem
      (bindBad w = true → Refused) ∧
      (bindBad w = false → h.dl = true → 384 * dlSlots s < deadlineSum s h.num + h.maxout → Refused) ∧
      (bindBad w = false → h.dl = false ∨ deadlineSum s h.num + h.maxout ≤ 384 * dlSlots s →
        Completes (exec (.bindQueue slot arg arg2) s) s slot c fun t =>
          t = { onlyHome s t with ctxs := t.ctxs, queues := h :: s.queues.filter (·.num != h.num) } ∧ t.mem = s.mem)) ∧
    (bits arg 55 8 = 0 → arg2 = 0 →
      (findQueue s arg.toNat = none → Counted (.unbindQueue slot arg arg2)) ∧
      ∀ h, findQueue s arg.toNat = some h →
        (h.ctx ≠ slot → Counted (.unbindQueue slot arg arg2)) ∧
        (h.ctx = slot → waitingRecords s h.num = 0 → Completes (exec (.unbindQueue slot arg arg2) s) s slot c fun t =>
          t = { s with ctxs := t.ctxs, queues := s.queues.filter (·.num != h.num) }) ∧
        (h.ctx = slot → waitingRecords s h.num ≠ 0 → Becomes (exec (.unbindQueue slot arg arg2) s) fun t =>
          findQueue t h.num = some { h with unbinding := true } ∧ t = { later with queues := t.queues })) ∧
    (arg = 0 →
      ((∃ e, checkBytes s c needHostRead arg2.toNat 32 = .error e) → Counted (.contextMeasurementReport slot arg arg2)) ∧
      ∀ xs ys, checkBytes s c needHostRead arg2.toNat 32 = .ok xs → checkBytes s c needHostWrite arg2.toNat 1104 = .ok ys →
        let report := reportBytes s (xs.map fun x => homeByte s x.pa)
        Completes (exec (.contextMeasurementReport slot arg arg2) s) s slot c fun t =>
          report.length = 1104 ∧ t.reports = s.reports + 1 ∧
          ((ys.map (·.pa)).Nodup → Calm s → ∀ i < 1104, homeByte t ((ys.map (·.pa)).getD i 0) = report.getD i 0))

/-! ### The fabric and the host ports (18/R407-R418) -/

namespace Sys2Proof.Spec

/-- A request through a peer window lies in HBM, in one layout that is the packet's and holds addressable memory. -/
def InWindow (s : State) (q : PeerReq) (n : Nat) : Prop :=
  q.pa + n ≤ 2 ^ 40 ∧ ∀ a ∈ [q.pa, q.pa + n - 1], layoutOf s (groupOf a) = q.layout.toNat ∧ layoutOf s (groupOf a) ≠ 3

/-- The request is answered: the answer is sent in the state `base`. -/
def AnswersPeer (s base : State) (q : PeerReq) (vc : Nat) (ok : Bool) (data : List Byte) : Prop :=
  exec (.peerRequestArrive q) s = .next (sendPeer base q.peer vc (.peerResponse q.peer q.id ok data))

/-- The credits, sequence numbers and replay buffer of a hop are `h`, and no other hop has changed. -/
def HopIs (s t : State) (port vc : Nat) (h : Hop) : Prop :=
  findHop t port vc = h ∧ ∀ p v, (p, v) ≠ (port, vc) → findHop t p v = findHop s p v

/-- The output `o` is given and nothing else changes. -/
def Says (s : State) (i : Instr) (o : Output) : Prop := exec i s = .next { s with out := s.out ++ [o] }

/-- The output `o` is given last, after any machine checks that the homes have logged. -/
def Reports (s t : State) (o : Output) : Prop :=
  ∃ logs, t.out = s.out ++ logs ++ [o] ∧ ∀ x ∈ logs, ∃ pa, x = .machineCheckLog pa

/-- The address that the log of a machine check names: the block of a broken count, else the line (17/R396, 02/R38). -/
def logged (src : McSource) (pa : Nat) : Nat := if src = .compressionCount then pa / 256 * 256 else pa / 128 * 128

end Sys2Proof.Spec

/-- R415-R418: a peer's request is performed at the home and answered, refused outside memory, across layouts, at an error and
outside a cell granule; an answer completes what asked for it; reservations and enqueues from a peer act on the queue; packets
leave the replay buffer when acknowledged and are sent again otherwise, credits let packets go, a paused port sends none, and a
silent peer's requests fail. R407-R412: host reads and writes through a memory key, doorbells, refused atomics. -/
def Obligations.FabricAndHostPort : Prop :=
  (∀ s peer vc o port, portOf (tabGet 0 s.peers peer) = some port → portStopped s port vc = false →
    (findHop s port vc).credits ≠ 0 → (findHop s port vc).waiting = [] →
    let h := findHop s port vc
    (sendPeer s peer vc o).out = s.out ++ [o] ∧
    HopIs s (sendPeer s peer vc o) port vc
      { h with credits := h.credits - 1, nextSeq := h.nextSeq + 1, buffer := h.buffer ++ [⟨h.nextSeq, o⟩] }) ∧
  (∀ s q n peer desc k msg id ok data b how, bits s.fabcfg 15 0 = 0 →
    ∀ i ∈ [Instr.peerRequestArrive q, .peerResponseArrive id ok data, .remoteReservationArrive peer n desc k how,
      .remoteEnqueueArrive peer n desc b msg], exec i s = .next s) ∧
  (∀ s (q : PeerReq), bits s.fabcfg 15 0 ≠ 0 →
    let base := { s with silent := s.silent.filter (· != q.peer) }
    (∀ n, q.op = .read n →
      (2 ^ 40 < q.pa + n → AnswersPeer s base q 1 false [7]) ∧
      (q.pa + n ≤ 2 ^ 40 → ¬ InWindow s q n → AnswersPeer s base q 1 false [4]) ∧
      (InWindow s q n → (∀ i < n, badRead s (q.pa + i) = none) →
        ∃ t, AnswersPeer s t q 1 true (homeBytes s q.pa n) ∧ t = onlyHome base t ∧ t.mem = s.mem) ∧
      (∀ i src, InWindow s q n → i < n → (∀ k < i, badRead s (q.pa + k) = none) → badRead s (q.pa + i) = some src →
        AnswersPeer s { base with out := s.out ++ [.machineCheckLog (logged src (q.pa + i))] } q 1 false [23])) ∧
    (∀ bs, q.op = .write bs → InWindow s q bs.length → ∃ t, AnswersPeer s t q 1 true [] ∧ t = onlyHome base t ∧
      (Calm s → ∀ a, homeByte t a = if q.pa ≤ a ∧ a < q.pa + bs.length then bs.getD (a - q.pa) 0 else homeByte s a)) ∧
    (∀ op ty x y, q.op = .atomic op ty [(x, y)] → InWindow s q (accessSize ty) →
      (∀ i < accessSize ty, badRead s (q.pa + i) = none) →
      let n := accessSize ty
      ∃ t, AnswersPeer s t q 1 true (toBytes n (ofBytes (homeBytes s q.pa n))) ∧ t = onlyHome base t ∧
        (Calm s → homeBytes t q.pa n = toBytes n
            (atomNew op.toNat ty (ofBytes (homeBytes s q.pa n)) (x.toNat % 2 ^ (8 * n)) (y.toNat % 2 ^ (8 * n))) ∧
          ∀ a, a < q.pa ∨ q.pa + n ≤ a → homeByte t a = homeByte s a)) ∧
    (∀ kind g x, q.op = .cells [(kind, g, x)] → InWindow s q 16 →
      (granuleOf s q.pa = none → AnswersPeer s base q 3 false [13]) ∧
      (granuleOf s q.pa ≠ none →
        let r := cellRule (cellAt s q.pa) kind.toNat g x
        ∃ t, AnswersPeer s t q 3 true (BitVec.ofNat 8 r.2.1 :: toBytes 16 r.2.2.toNat) ∧ cellAt t q.pa = r.1 ∧
          t = { base with cells := t.cells }))) ∧
  (∀ s (o : PeerOut) data, bits s.fabcfg 15 0 ≠ 0 → s.peerOuts.find? (·.id == o.id) = some o → o.out = none →
    let base := { s with silent := s.silent.filter (· != o.peer), peerOuts := s.peerOuts.filter (·.id != o.id) }
    let bytes := data.mapIdx fun i b => (o.pa + i, b)
    let R := exec (.peerResponseArrive o.id true data) s
    (∀ id n, o.cmd = some id → o.op = .read n → R = .next { base with
      cmds := s.cmds.map fun k => if k.id = id then { k with got := k.got ++ bytes } else k }) ∧
    (∀ u, o.cmd = none → o.unit = some u → R = .next { base with unitGot := s.unitGot ++ bytes.map fun b => (u, b.1, b.2) }) ∧
    (∀ id, o.cmd = none → o.unit = none → o.warp = some id → R = .next { base with
      warps := s.warps.map fun w => if w.id = id then { w with peerGot := w.peerGot ++ bytes } else w }) ∧
    (∀ id w b c, o.cmd = none → o.unit = none → o.warp = some id → findWarp s id = some w → findBlock s w.block = some b →
      b.ended = false → findCtx s b.ctx = some c →
      (fltFull s c = true → exec (.peerResponseArrive o.id false data) s = .next { s with deferred := true }) ∧
      (fltFull s c = false → Becomes (exec (.peerResponseArrive o.id false data) s) fun t => ∀ v ∈ t.warps, v.block ≠ b.id))) ∧
  (∀ s peer id desc n msg, bits s.fabcfg 15 0 ≠ 0 →
    let base := { s with silent := s.silent.filter (· != peer) }
    let answer := fun t ok data => sendPeer t peer 2 (.peerResponse peer id ok data)
    let R := fun how => exec (.remoteReservationArrive peer id desc n how) s
    (∀ k how, how ≠ .giveBack → reserveCause base desc n = some k → R how = .next (answer base false [BitVec.ofNat 8 k])) ∧
    (R .giveBack = .next (if isHbm desc then returnResv base ⟨desc, n⟩ else base)) ∧
    (reserveCause base desc n = none → AsLeft s desc → canReserve base desc n = true → ∀ how, how ≠ .giveBack → R how = .next (answer (reserveSlots base desc n) true [])) ∧
    (reserveCause base desc n = none → AsLeft s desc → canReserve base desc n = false → R .orRefuse = .next (answer base false [0]) ∧
      R .orWait = .next { base with
        nextId := s.nextId + 1
        rsvWaits := s.rsvWaits ++ [{ id := s.nextId, desc, n, warp := none, peer := some (peer, id) }] }) ∧
    ∃ ctx, (s.ctxs ≠ [] → ctx ∈ s.ctxs.map fun c => some c.slot) ∧
      exec (.remoteEnqueueArrive peer id desc false msg) s = .next (deliverMessage base ctx desc msg) ∧
      exec (.remoteEnqueueArrive peer id desc true msg) s
        = .next (sendPeer (deliverMessage base ctx desc msg) peer 1 (.peerResponse peer id true []))) ∧
  (∀ s port vc n,
    let h := findHop s port vc
    let sent := fun (p : HopPkt → Bool) => Host.Outcome.next { s with out := s.out ++ (h.buffer.filter p).map (·.body) }
    (Becomes (exec (.sohornAck port vc n) s) fun t => HopIs s t port vc { h with buffer := h.buffer.filter (n < ·.seq) } ∧
      t = { s with hops := t.hops, silent := t.silent }) ∧
    (portStopped s port vc = false →
      exec (.sohornNak port vc n) s = sent (n ≤ ·.seq) ∧ exec (.sohornReplayTimeout port vc n) s = sent (·.seq == n)) ∧
    (portStopped s port vc = true → exec (.sohornNak port vc n) s = .next s ∧ exec (.sohornReplayTimeout port vc n) s = .next s) ∧
    (h.waiting = [] → Becomes (exec (.creditReturn port vc n) s) fun t =>
      HopIs s t port vc { h with credits := h.credits + n } ∧ t = { s with hops := t.hops }) ∧
    (∀ o, h.waiting = [o] → h.credits + n ≠ 0 → portStopped s port vc = false →
      Becomes (exec (.creditReturn port vc n) s) fun t => t.out = s.out ++ [o] ∧ HopIs s t port vc
        { h with waiting := [], credits := h.credits + n - 1, nextSeq := h.nextSeq + 1, buffer := h.buffer ++ [⟨h.nextSeq, o⟩] }) ∧
    exec (.priorityFlowControlPause port vc true) s = .next { s with paused := (port, vc) :: s.paused.filter (· != (port, vc)) } ∧
    ((∀ h ∈ s.hops, h.waiting = []) → Becomes (exec (.priorityFlowControlPause port vc false) s) fun t =>
      t.paused = s.paused.filter (· != (port, vc)) ∧ t.out = s.out)) ∧
  (∀ s peer, s.rsvWaits = [] → s.packets = [] →
    let base := { s with silent := peer :: s.silent.filter (· != peer) }
    ((∀ h ∈ s.hops, ∀ p ∈ h.buffer, packetPeer p.body ≠ some peer) → exec (.peerAckTimeout peer) s = .next s) ∧
    (∀ h ∈ s.hops, ∀ p ∈ h.buffer, packetPeer p.body = some peer →
      ((∀ o ∈ s.peerOuts, o.peer ≠ peer) → exec (.peerAckTimeout peer) s = .next base) ∧
      ∀ o id w b c, s.peerOuts = [o] → o.peer = peer → o.cmd = none → o.unit = none → o.warp = some id → findWarp s id = some w →
        findBlock s w.block = some b → b.ended = false → findCtx s b.ctx = some c → fltFull s c = false →
        Becomes (exec (.peerAckTimeout peer) s) fun t => t.peerOuts = [] ∧ ∀ v ∈ t.warps, v.block ≠ b.id)) ∧
  (∀ s qp key (va : W64) bytes len, s.recovery = true →
    ∀ i ∈ [Instr.hostRdmaWrite qp key va bytes, .hostRdmaRead qp key va len, .hostRdmaAtomic qp key va], exec i s = .next s) ∧
  (∀ s qp key (va : W64) bytes len, s.recovery = false →
    let W := Instr.hostRdmaWrite qp key va bytes
    let R := Instr.hostRdmaRead qp key va len
    let page := va.toNat / 4096
    Says s (.hostRdmaAtomic qp key va) (.rdmaNak qp true) ∧
    (keyFor s key va.toNat bytes.length = none → Says s W (.rdmaNak qp false)) ∧
    (keyFor s key va.toNat len = none → Says s R (.rdmaNak qp false)) ∧
    (∀ k slot c, keyFor s key va.toNat bytes.length = some k → k.slot = some slot → findCtx s slot = some c →
      (∀ e, checkBytes s c needHostWrite va.toNat bytes.length = .error e → Says s W (.rdmaNak qp false)) ∧
      ∀ xs, checkBytes s c needHostWrite va.toNat bytes.length = .ok xs →
        ((∃ x ∈ xs, granuleOf s x.pa ≠ none) → Says s W (.rdmaNak qp false)) ∧
        ((∀ x ∈ xs, granuleOf s x.pa = none) → Becomes (exec W s) fun t => Reports s t (.rdmaAck qp) ∧
          ((xs.map (·.pa)).Nodup → Calm s →
            (∀ i < bytes.length, homeByte t ((xs.map (·.pa)).getD i 0) = bytes.getD i 0) ∧
            ∀ a, a ∉ xs.map (·.pa) → homeByte t a = homeByte s a))) ∧
    (∀ k slot c, keyFor s key va.toNat len = some k → k.slot = some slot → findCtx s slot = some c →
      (∀ e, checkBytes s c needHostRead va.toNat len = .error e → Says s R (.rdmaNak qp false)) ∧
      ∀ xs, checkBytes s c needHostRead va.toNat len = .ok xs → (∀ x ∈ xs, granuleOf s x.pa = none → badRead s x.pa = none) →
        Becomes (exec R s) fun t => t = onlyHome s t ∧ t.mem = s.mem ∧ Reports s t (.rdmaData qp (xs.map fun x =>
          if granuleOf s x.pa = none then homeByte s x.pa else (cellAt s x.pa).value.extractLsb' (8 * (x.pa % 16)) 8))) ∧
    (∀ k, keyFor s key va.toNat bytes.length = some k → k.slot = none → va.toNat % 4096 = 0 →
      let posted := fun (i : Instr) => exec W s = .next { s with inputs := s.inputs ++ [i], out := s.out ++ [.rdmaAck qp] }
      (page < 256 → bytes.length = 8 → posted (.doorbellWrite page (word64 bytes 0))) ∧
      (256 ≤ page → bytes.length = 16 → findCtx s (page - 256) ≠ none →
        let table : List (Nat → BitVec 56 → W64 → Instr) := [.invalidate, .faultDone, .counterSet, .preemptBlock, .switchOut, .switchIn,
          .restartAfterHalt, .bindQueue, .unbindQueue, .contextMeasurementReport]
        let op := bits (word64 bytes 0) 7 0
        (∀ n mk, op = n + 1 → table[n]? = some mk → posted (mk (page - 256) ((word64 bytes 0).extractLsb' 8 56) (word64 bytes 8))) ∧
        (op = 0 ∨ 10 < op → posted (.counterSet (page - 256) (BitVec.allOnes 56) 0)))) ∧
    (∀ k slot c, keyFor s key va.toNat 8 = some k → k.slot = none → findCtx s slot = some c →
      va.toNat = (256 + slot) * 4096 + 0x10 →
      Says s (.hostRdmaRead qp key va 8) (.rdmaData qp ((List.range 8).map fun i => c.cmdCount.extractLsb' (8 * i) 8)))) ∧
  (∀ s qp, Becomes (exec (.congestionNotification qp) s) fun t => t = { s with rates := t.rates } ∧
    ∀ k, tabGet 0 t.rates k = if k = qp then Config.rateAfter (tabGet 0 s.rates qp) else tabGet 0 s.rates k)

/-! ### The management port (26/R453-R460) -/

namespace Sys2Proof.Spec

/-- A connection is open, with the key digest of its certificate. -/
def Open (s : State) (q : MgmtReq) (cert : Option Digest) : Prop := s.conns.find? (·.1 == q.conn) = some (q.conn, cert)

/-- What a connection may ask (26/R453): requests 1 and 9 always; the others outside recovery with the operator key, and request
10 while there is none. -/
def MayAsk (s : State) (cert : Option Digest) (op : Nat) : Prop :=
  op = 1 ∨ op = 9 ∨ s.recovery = false ∧ (s.opKey ≠ none ∧ cert = s.opKey ∨ op = 10 ∧ s.opKey = none)

/-- The request is one that the port serves. -/
def Serves (s : State) (q : MgmtReq) (op : Nat) : Prop :=
  q.op.toNat = op ∧ q.zero = 0 ∧ ∃ cert, Open s q cert ∧ MayAsk s cert op

/-- The answer to a request, in the state `base`. -/
def Responds (i : Instr) (s : State) (q : MgmtReq) (status : Nat) (v : W64) (base : State) : Prop :=
  exec i s = .next { base with out := base.out ++ [.mgmt q.conn (BitVec.ofNat 16 status) q.seq v] }

/-- A completed write: MR19 is extended by the register's number and its value (26/R457). -/
def Written (i : Instr) (s : State) (q : MgmtReq) (base : State) : Prop :=
  Responds i s q 0 0 { base with
    mr := tabSet 0 base.mr 19 (sha384 (digestBytes (tabGet 0 base.mr 19) ++ (toBytes 8 q.p0.toNat ++ toBytes 8 q.p1.toNat))) }

/-- The rows of 26/R454 with the requests that they serve. -/
def IsRequest (q : MgmtReq) (i : Instr) (op : Nat) : Prop :=
  let n := q.p0.toNat
  (i, op) ∈ [(Instr.readRegister q, 1), (.createContext q, 3), (.destroyContext q, 4), (.registerMemoryKey q, 5),
    (.revokeMemoryKey q, 6), (.registerCellGranule q, 7), (.unregisterCellGranule q, 8), (.measurementReport q, 9),
    (.setOperatorKey q, 10), (.resetMatrixEngine q, 11)] ∨
  op = 2 ∧ (i = .writeRegister q ∧ ownRow n = false ∨ i = .lgrpWrite q ∧ 0x800 ≤ n ∧ n ≤ 0x80F ∨ i = .lgrpstatWrite q ∧ n = 0x810 ∨
    i = .profileWrite q ∧ n = 0x811 ∨ i = .treeWrite q ∧ 0xA00 ≤ n ∧ n ≤ 0xAFF)

/-- What a management register reads as (26/R455). -/
def ManagedReads (s : State) (n : Nat) (v : W64) : Prop :=
  (n = 0x100 ∧ v = BitVec.ofNat 64 s.prioShift) ∨ (n = 0x101 ∧ v = BitVec.ofNat 64 (s.dlscr * 256 + s.dlres)) ∨
  (0x800 ≤ n ∧ n ≤ 0x80F ∧ v = tabGet 0 s.lgrp (n - 0x800)) ∨ (n = 0x811 ∧ v = BitVec.ofNat 64 s.profile) ∨
  (n = 0x812 ∧ v = s.fabpfx) ∨ (n = 0x813 ∧ v = s.fabcfg) ∨
  (0x820 ≤ n ∧ n ≤ 0x82F ∧ v = (tabGet 256 s.nbarb (n - 0x820)).setWidth 64) ∨
  (0x900 ≤ n ∧ n ≤ 0x9FF ∧ v = tabGet 0 s.peers (n - 0x900)) ∨ (0xA00 ≤ n ∧ n ≤ 0xAFF ∧ v = (getTree s (n - 0xA00)).word)

/-- The nonce of a report request. -/
def nonceOf (q : MgmtReq) : List Byte := wordsToBytes [q.p0, q.p1, q.p2, q.p3]

end Sys2Proof.Spec

/-- R453-R460, R413, R18-R20, R29, R404, R409, R419: management requests. One on no open connection has no answer; an unknown one
is answered with status 1, one without authority with 3, one whose zero bytes are not zero with 4; the others are served. -/
def Obligations.Management : Prop :=
  (∀ s conn cert, Becomes (exec (.managementConnect conn cert) s) fun t => t = { s with conns := t.conns } ∧
    t.conns = if s.conns.any (·.1 == conn) ∨ 8 ≤ s.conns.length then s.conns else s.conns ++ [(conn, cert)]) ∧
  (∀ s q cert, Open s q cert → q.op.toNat = 0 ∨ 11 < q.op.toNat → Responds (.unknownOp q) s q 1 0 s) ∧
  (∀ s q i op, IsRequest q i op → q.op.toNat = op →
    (s.conns.find? (·.1 == q.conn) = none → exec i s = .next s) ∧
    ∀ cert, Open s q cert → (¬ MayAsk s cert op → Responds i s q 3 0 s) ∧
      (MayAsk s cert op → q.zero ≠ 0 → Responds i s q 4 0 s)) ∧
  (∀ s q, Serves s q 1 → (∀ v, ManagedReads s q.p0.toNat v → Responds (.readRegister q) s q 0 v { s with free := s.free + 1 }) ∧
    (q.p0.toNat < 0x100 ∨ 0xAFF < q.p0.toNat → Responds (.readRegister q) s q 1 0 s)) ∧
  (∀ s q, Serves s q 2 →
    let n := q.p0.toNat
    let v := q.p1
    let W := Written (.writeRegister q) s q
    (n = 0x100 → 10 ≤ bits v 4 0 → bits v 4 0 ≤ 30 → W { s with prioShift := bits v 4 0 }) ∧
    (n = 0x101 → bits v 12 8 ≤ 20 → W { s with dlscr := bits v 12 8, dlres := bits v 1 0 }) ∧
    (n = 0x812 → W { s with fabpfx := v }) ∧
    (n = 0x813 → s.hops = [] → W { s with fabcfg := BitVec.ofNat 64 (bits v 31 0) }) ∧
    (0x820 ≤ n → n ≤ 0x82F → ∃ t, W t ∧ t = { s with nbarb := t.nbarb } ∧
      tabGet 256 t.nbarb (n - 0x820) = BitVec.ofNat 13 (max 16 (min 4096 (bits v 12 0)))) ∧
    (0x900 ≤ n → n ≤ 0x9FF → ∃ t, W t ∧ t = { s with peers := t.peers, silent := t.silent } ∧
      tabGet 0 t.peers (n - 0x900) = v &&& 0x8000FFFFFFFF0000) ∧
    (n < 0x100 ∨ 0xAFF < n → Responds (.writeRegister q) s q 1 0 s) ∧
    (n = 0x810 → Written (.lgrpstatWrite q) s q { s with mderr := s.mderr && !bit v 16 }) ∧
    (n = 0x811 → (bits v 2 0 ≤ 3 → Written (.profileWrite q) s q { s with profile := bits v 2 0 }) ∧
      (3 < bits v 2 0 → Responds (.profileWrite q) s q 2 0 s)) ∧
    (0x800 ≤ n → n ≤ 0x80F →
      let old := tabGet 0 s.lgrp (n - 0x800)
      let field := fun (w : W64) i => bits w (2 * i + 1) (2 * i)
      (s.fillQueue ≠ [] → Responds (.lgrpWrite q) s q 2 0 s) ∧
      (s.fillQueue = [] → (∀ i < 32, field v i ≠ 3 ∧ field old i ≠ 3) → (∀ g ∈ s.granules, groupOf g / 32 ≠ n - 0x800) → ∃ t, Written (.lgrpWrite q) s q t ∧
        t = { s with lgrp := t.lgrp, fillQueue := t.fillQueue } ∧ (∀ m, tabGet 0 t.lgrp m = if m = n - 0x800 then v else tabGet 0 s.lgrp m) ∧
        t.fillQueue = ((List.range 32).filter fun i => field v i != field old i).map fun i => 32 * (n - 0x800) + i) ∧
      (s.fillQueue = [] → ∀ i < 32, field v i = 3 → (∀ j < 32, j ≠ i → field v j = field old j) → field old i ≠ 3 →
        (∃ g < 512, layoutOf s g = 3) → ∃ t, Written (.lgrpWrite q) s q t ∧ t = { s with lgrp := t.lgrp, mderr := true } ∧
          ∀ m, tabGet 0 t.lgrp m = tabGet 0 s.lgrp m)) ∧
    (0xA00 ≤ n → n ≤ 0xAFF →
      (256 < bits v 45 37 → Responds (.treeWrite q) s q 4 0 s) ∧
      (bits v 45 37 ≤ 256 → (∀ r ∈ s.rounds, r.tree ≠ n - 0xA00) → ∃ t, Written (.treeWrite q) s q t ∧ t = { s with trees := t.trees } ∧
        ∀ m, getTree t m = if m = n - 0xA00 then { word := v &&& 0xC03FFFE1FFFFFFFF } else getTree s m))) ∧
  (∀ s q, Serves s q 3 →
    let first := bits q.p5 5 0
    let n := bits q.p5 12 6
    let sound := q.p0.toNat < 16 ∧ bits q.p5 63 13 = 0 ∧ 1 ≤ n ∧ n ≤ 64 ∧ ctxReserved q = false
    let room := findCtx s q.p0.toNat = none ∧ first + n ≤ 64 ∧
      (∀ c ∈ s.ctxs, first + n ≤ c.cgFirst ∨ c.cgFirst + c.cgCount ≤ first) ∧ bits q.p4 63 60 ≤ 10 ∧
      (bit q.p1 1 = true → ∃ g < 512, layoutOf s g = 3)
    (¬ sound → Responds (.createContext q) s q 4 0 s) ∧ (sound → ¬ room → Responds (.createContext q) s q 2 0 s) ∧
    (sound → room → ∃ t, Responds (.createContext q) s q 0 0 t ∧ t.mem = s.mem ∧
      t = { onlyHome s t with ctxs := t.ctxs, counters := t.counters } ∧
      t.ctxs = s.ctxs ++ [{ slot := q.p0.toNat, cfg := q.p1, root := q.p2, rng := q.p3, fltq := q.p4
                            ranges := readRanges s q.p3, cgFirst := first, cgCount := n }] ∧
      ∀ k, tabGet 0 t.counters k = if 64 * first ≤ k ∧ k < 64 * (first + n) then 0 else tabGet 0 s.counters k)) ∧
  (∀ s q, Serves s q 4 →
    let slot := q.p0.toNat
    (16 ≤ slot → Responds (.destroyContext q) s q 4 0 s) ∧
    (slot < 16 → findCtx s slot = none → Responds (.destroyContext q) s q 2 0 s) ∧
    (slot < 16 → ∀ c, findCtx s slot = some c → ∃ t, Responds (.destroyContext q) s q 0 0 t ∧
      (∀ d ∈ t.ctxs, d.slot ≠ slot) ∧ (∀ b ∈ t.blocks, b.ctx ≠ slot) ∧ (∀ l ∈ t.launches, l.ctx ≠ slot) ∧
      (∀ h ∈ t.queues, h.ctx ≠ slot) ∧ (∀ k ∈ t.keys, k.slot ≠ some slot) ∧ ∀ x ∈ t.queries, x.ctx ≠ slot)) ∧
  (∀ s q, Serves s q 5 → bits q.p0 63 16 = 0 → s.keys.length < 4096 →
    let kind := bits q.p0 7 0
    let slot := bits q.p0 15 8
    let R := fun (k : W32 → MemKey) => ∃ key t, Responds (.registerMemoryKey q) s q 0 (key.setWidth 64) t ∧
      (∀ x ∈ s.keys, x.key ≠ key) ∧ t = { s with keys := s.keys ++ [k key], free := s.free + 1 }
    (kind = 1 → R fun key => { key, slot := none, va := 0, len := 0 }) ∧
    (kind = 0 → slot < 16 → q.p1.toNat % 4096 = 0 → q.p2.toNat % 4096 = 0 →
      (findCtx s slot = none → Responds (.registerMemoryKey q) s q 2 0 s) ∧
      (findCtx s slot ≠ none → R fun key => { key, slot := some slot, va := q.p1.toNat, len := q.p2.toNat })) ∧
    (1 < kind → Responds (.registerMemoryKey q) s q 4 0 s)) ∧
  (∀ s q, Serves s q 6 → bits q.p0 63 32 = 0 →
    ((∀ k ∈ s.keys, k.key ≠ q.p0.setWidth 32) → Responds (.revokeMemoryKey q) s q 2 0 s) ∧
    (∀ k ∈ s.keys, k.key = q.p0.setWidth 32 →
      Responds (.revokeMemoryKey q) s q 0 0 { s with keys := s.keys.filter (·.key != q.p0.setWidth 32) })) ∧
  (∀ s q, Serves s q 7 →
    let pa := q.p0.toNat
    let sound := pa < 2 ^ 40 ∧ pa % 65536 = 0 ∧ layoutOf s (groupOf pa) = 1 ∧ pa ∉ s.granules ∧
      (s.granules.filter fun g => homeOf s g == homeOf s pa).length < 1024
    (¬ sound → Responds (.registerCellGranule q) s q 2 0 s) ∧
    (sound → ∃ t, Responds (.registerCellGranule q) s q 0 0 t ∧ t = { s with granules := pa :: s.granules, cells := t.cells } ∧
      ∀ a, cellAt t a = if pa ≤ a ∧ a < pa + 65536 then {} else cellAt s a)) ∧
  (∀ s q, Serves s q 8 →
    let pa := q.p0.toNat
    (pa ∉ s.granules → Responds (.unregisterCellGranule q) s q 2 0 s) ∧
    (pa ∈ s.granules → Calm s → ∃ t, Responds (.unregisterCellGranule q) s q 0 0 t ∧ t.granules = s.granules.filter (· != pa) ∧
      (∀ i < 4096, homeBytes t (pa + 16 * i) 16 = toBytes 16 (cellAt s (pa + 16 * i)).value.toNat) ∧
      ∀ a, a < pa ∨ pa + 65536 ≤ a → homeByte t a = homeByte s a)) ∧
  (∀ s q, Serves s q 9 → exec (.measurementReport q) s = .next { s with
      reports := s.reports + 1
      out := s.out ++ [.mgmt q.conn 0 q.seq 0, .report q.conn (reportBytes s (nonceOf q))] }) ∧
  (∀ s nonce, nonce.length = 32 → (reportBytes s nonce).length = 1104 ∧
    (reportBytes s nonce).take 8 = toBytes 8 (1 + 20 * 2 ^ 16 + s.boots.toNat * 2 ^ 32) ∧
    ((reportBytes s nonce).drop 16).take 992
      = nonce ++ (List.range 20).flatMap fun i => digestBytes (tabGet 0 s.mr i)) ∧
  (∀ s q, Serves s q 10 →
    let bytes := wordsToBytes [q.p0, q.p1, q.p2, q.p3, q.p4, q.p5]
    (s.opKey ≠ none → Responds (.setOperatorKey q) s q 2 0 s) ∧
    (s.opKey = none → Responds (.setOperatorKey q) s q 0 0 { s with
      opKey := some (digestOf bytes)
      mr := tabSet 0 s.mr 19 (sha384 (digestBytes (tabGet 0 s.mr 19) ++ (toBytes 8 0xFFF ++ bytes))) })) ∧
  (∀ s q, Serves s q 11 →
    let pair := q.p0.toNat / 2
    (q.p0.toNat % 2 ≠ 0 ∨ 382 < q.p0.toNat → Responds (.resetMatrixEngine q) s q 4 0 s) ∧
    (q.p0.toNat % 2 = 0 → q.p0.toNat ≤ 382 →
      (resetRoom s pair = false → exec (.resetMatrixEngine q) s = .next { s with deferred := true }) ∧
      (s.blocks = [] → s.ops = [] → (pairAt s pair).ring = [] → ∃ t, Responds (.resetMatrixEngine q) s q 0 0 t ∧
        t = { s with z := t.z, pairs := t.pairs, scale := t.scale } ∧ pairAt t pair = {} ∧ (∀ x ∈ t.z, x.1 / 8 ≠ pair) ∧
        ∀ x ∈ s.z, x.1 / 8 ≠ pair → x ∈ t.z)))

/-! ### The platform and memory at the homes -/

/-- R447-R451, R456-R458: reset, measured boot, clocks, profiles and temperatures. R396, R30, R38: machine checks, what they log and what they leave. R39: a
compatibility-mode write-back is committed as one unit. R19: a changed group is zero-filled, and BUSY falls with the last. -/
def Obligations.Platform : Prop :=
  (∀ s, exec .overtempReset s = .next { State.reset with
      boots := s.boots, opKey := s.opKey, inputs := s.inputs, out := s.out, nextId := s.nextId, free := s.free, choice := s.choice }) ∧
  (∀ s images, Becomes (exec (.deviceBoot images) s) fun t =>
    t.boots = s.boots + 1 ∧ t.opKey = s.opKey ∧ t.mem = [] ∧ t.ctxs = [] ∧
    (t.recovery = false ↔ 19 ≤ images.length ∧ ∀ x ∈ images.take 19, x.sigOk = true) ∧
    ∀ i < 20, tabGet 0 t.mr i = match images[i]? with
      | some x => if i < 19 ∧ ∀ y ∈ images.take i, y.sigOk = true then sha384 (digestBytes 0 ++ digestBytes x.digest) else 0
      | none => 0) ∧
  (∀ s die mhz, die < 4 →
    let d := getDie s die
    let sound := d.profile ≤ 2 ∧ 1200 ≤ mhz ∧ mhz ≤ 1900 ∧ mhz % 50 = 0
    (sound → Becomes (exec (.governorRedistribute die mhz) s) fun t => t = { s with dies := t.dies } ∧
      ∀ k, getDie t k = if k = die then { d with clkMhz := mhz } else getDie s k) ∧
    (¬ sound → exec (.governorRedistribute die mhz) s = .next s) ∧
    (d.profile ≠ s.profile → Becomes (exec (.profileChangeEffect die) s) fun t => t = { s with dies := t.dies } ∧
      ∀ k, getDie t k = if k = die then { d with
          profile := s.profile, clkMhz := if s.profile = 3 then 1700 else d.clkMhz, above := decide (permax s.profile < d.out)
          waiting := d.waiting.map fun r => match r.owner with
            | .warp _ _ => { r with n := min r.n (permax s.profile) }
            | _ => r }
        else getDie s k) ∧
    Becomes (exec (.dieTemperatureThreshold die mhz) s) fun t => t = { s with dies := t.dies } ∧
      (∀ k, k ≠ die → getDie t k = getDie s k) ∧
      (100 ≤ mhz → (getDie t die).hot = true) ∧ (mhz < 95 → (getDie t die).hot = false) ∧
      (95 ≤ mhz → mhz < 100 → (getDie t die).hot = d.hot) ∧
      (100 ≤ mhz → d.profile ≠ 3 → (getDie t die).clkMhz = max 1200 (d.clkMhz - 50)) ∧
      (mhz < 97 → d.profile ≠ 3 → (getDie t die).clkMhz = d.clkMhz)) ∧
  (∀ s src pa va,
    let marked := fun (x : State) => if pa / 128 * 128 ∈ s.poison then x else { x with poison := pa / 128 * 128 :: s.poison }
    (src ≠ .compressionCount → exec (.machineCheck src pa va .nothing) s
      = .next (marked { s with out := s.out ++ [.machineCheckLog (pa / 128 * 128)] })) ∧
    (src = .compressionCount → hasCount s pa = true → Becomes (exec (.machineCheck src pa va .nothing) s) fun t =>
      t = { s with counts := t.counts, free := s.free + 1, out := s.out ++ [.machineCheckLog (pa / 256 * 256)] } ∧
      8 ≤ (tabGet 0 t.counts (pa / 256)).toNat ∧ ∀ k, k ≠ pa / 256 → tabGet 0 t.counts k = tabGet 0 s.counts k) ∧
    (∀ b c, findBlock s b.id = some b → b.ended = false → findCtx s b.ctx = some c → ctxRuns s b.ctx = true →
      (fltFull s c = true → exec (.machineCheck src pa va (.block b.id)) s = .next { s with deferred := true }) ∧
      (fltFull s c = false → Becomes (exec (.machineCheck src pa va (.block b.id)) s) fun t =>
        (∀ v ∈ t.warps, v.block ≠ b.id) ∧ t.out.getLast? = some (.machineCheckLog (logged src pa)))) ∧
    ∀ w q, findWalker s w.id = some w → findQuery s w.query = some q → src ≠ .uncorrectable →
      Becomes (exec (.machineCheck src pa va (.walker w.id)) s) fun t => t.walkers = s.walkers.filter (·.id != w.id) ∧
        findQuery t q.id = some { q with status := q.status ||| 32 }) ∧
  (∀ s, s.commits = [] → exec .compatWritebackCommit s = .next s) ∧
  (∀ s c r, s.commits = c :: r → s.fillQueue = [] → c.pa % 256 = 0 → Becomes (exec .compatWritebackCommit s) fun t => t.commits = r ∧
    (∀ a, homeByte t a = homeByte s a) ∧ ∀ k, k ≠ c.pa / 256 → tabGet 0 t.counts k = tabGet 0 s.counts k) ∧
  (∀ s, s.fillQueue = [] → exec .layoutFillDone s = .next s) ∧
  (∀ s g r, s.fillQueue = g :: r → Becomes (exec .layoutFillDone s) fun t => t.fillQueue = r ∧ (r = [] → layoutBusy t = false) ∧
    (∀ a, groupOf a = g → homeByte t a = 0) ∧
    (∀ a, groupOf a ≠ g → r = [] → groupOf a ∉ s.filled → homeByte t a = homeByte s a))

/-! ### Lines, words and steps -/

namespace Sys2Proof.Spec

/-- A fetch leaves its translation in the translation caches and its line in the LLC (03/R51, 02/R27). -/
def Fetched (s b : State) : Prop := b = onlyTlbs (onlyHome s b) b ∧ b.mem = s.mem

end Sys2Proof.Spec

/-- R168-R172: a unit enters a line that it has fetched with sound parity, that is legal for its stream, and whose slot is a
branch target where a transfer led there, and where it is not, the trap of an `eret` is unhandled (R394, example); the execute slice waits until the flags of WAIT are clear. R184-R187: a word that names
no instruction of the stream raises the illegal-instruction trap, ends a walker or stops a bank program. -/
def Obligations.LineEntry : Prop :=
  (∀ s w g c x, issuer s = some (w, g) → findCtx s w.ctx = some c → checkByte s c needFetch (lineVa g.pc) = .ok x →
    badRead s x.pa = none →
    let l := homeFetch s x.pa
    let target := lineBtgt l (g.pc % 5) = true ∧ ∀ i ∈ linePairs l, i + 1 ≠ g.pc % 5
    lineParity l = true →
      (lineLegal .execute l = false → TakesTrap (exec .lineEntry s) s w g 2 0 (lineWord l).toNat (codeAddr g.pc)) ∧
      (∀ src, lineLegal .execute l = true → g.entry = .transfer src → ¬ target →
        TakesTrap (exec .lineEntry s) s w g 3 0 (codeAddr src).toNat (codeAddr g.pc)) ∧
      (∀ src b, lineLegal .execute l = true → g.entry = .returned src → ¬ target → fltFull s c = false →
        findBlock s w.block = some b → b.ended = false →
        Becomes (exec .lineEntry s) fun t => t.last = .trapped ∧ ∀ v ∈ t.warps, v.block ≠ w.block) ∧
      (lineLegal .execute l = true → (∀ src, g.entry = .transfer src ∨ g.entry = .returned src → target) →
        ((∀ n < 12, bit (lineWait l) n = true → w.flag n = 0) → ∃ b, Fetched s b ∧ exec .lineEntry s = .next { setWarp b
          (w.setGroup { g with entry := .inside l, wait := .none }) with last := .retired }) ∧
        ((∃ n < 12, bit (lineWait l) n = true ∧ w.flag n ≠ 0) → ∃ b, Fetched s b ∧ exec .lineEntry s = .next { setWarp b
          (w.setGroup { g with wait := .flags (lineWait l) }) with last := .waited }))) ∧
  (∀ s id w c x, s.cur = .access id → findWarp s id = some w → findCtx s w.ctx = some c →
    checkByte s c needFetch (lineVa w.acc.pc) = .ok x → badRead s x.pa = none →
    let l := homeFetch s x.pa
    lineParity l = true → lineLegal .access l = true →
    (∀ src, w.acc.entry = .transfer src → lineBtgt l (w.acc.pc % 5) = true) →
    ∃ b, Fetched s b ∧ AccRuns (exec .lineEntry s) b { w with acc := { w.acc with entry := .inside l, wait := .none } }) ∧
  (∀ s w q l, WalkIssues s w q →
    let n := w.pc / 5 - q.prog / 5
    (q.lines[n]? = none → WalkEnds (exec .lineEntry s) s w q (some 2) false) ∧
    (q.lines[n]? = some l → q.prog / 5 ≤ w.pc / 5 → q.bad.contains n = false → lineParity l = true →
      (lineLegal .walker l = false → WalkEnds (exec .lineEntry s) s w q (some 2) false) ∧
      (lineLegal .walker l = true → (∀ src, w.entry = .transfer src → lineBtgt l (w.pc % 5) = true) →
        Walks (exec .lineEntry s) s { w with entry := .inside l }))) ∧
  (∀ s i c l, BankIssues s i c →
    let n := i.pc / 5 - c.prog / 5
    i.lines[n]? = some l → c.prog / 5 ≤ i.pc / 5 → (∀ b ∈ i.bad, b.1 ≠ n) → lineParity l = true → lineLegal .bank l = true →
    (∀ src, i.entry = .transfer src → lineBtgt l (i.pc % 5) = true) → Steps (exec .lineEntry s) s { i with entry := .inside l }) ∧
  (∀ s word,
    (∀ w g, issuer s = some (w, g) →
      TakesTrap (exec (.illegalInstruction word) s) s w g 1 0 (word.extractLsb' 0 64).toNat (codeAddr g.pc)) ∧
    (∀ id w, s.cur = .access id → findWarp s id = some w → AccTraps (exec (.illegalInstruction word) s) s w 1) ∧
    (∀ w q, WalkIssues s w q → WalkEnds (exec (.illegalInstruction word) s) s w q (some 2) false) ∧
    (∀ i c x b, BankIssues s i c → findCtx s c.ctx = some x → fltFull s x = false → findBlock s c.block = some b → b.ended = false →
      Becomes (exec (.illegalInstruction word) s) fun t => ∀ v ∈ t.warps, v.block ≠ b.id))

namespace Sys2Proof.Spec

/-- What a step adds after a PC group of a warp has issued: the warp notes it, no unit issues any more, and time passes. -/
def afterIssue (s : State) (id : Nat) (slices : BitVec 8) (t : State) : State := tick (quiet (afterGroup s t id slices))

/-- The unit whose turn it is issues in the state `r`, inside line `l`, at linear slot `pc`. -/
def Inside (r : State) (k : StreamKind) (l : FetchLine) (pc : Nat) : Prop := unitPlace r = some (k, .inside l, pc)

/-- The slot is not the first of a pair. -/
def Single (k : StreamKind) (l : FetchLine) (pc : Nat) : Prop := k ≠ .execute ∨ pc % 5 ∉ linePairs l

/-- The word of the slot decodes to a well-formed instruction of the stream. -/
def Reads (k : StreamKind) (l : FetchLine) (slot : Nat) (i : Instr) : Prop :=
  decode (slotWord l slot) = .ok i ∧ i.wellFormed = true ∧ accepts k i = true

end Sys2Proof.Spec

/-- A step runs what moves: nothing but time passes when nothing can move; an input is performed, and goes back to its place if
it could not complete; and a unit issues the instruction to which the word of its slot decodes, entering the line first if it is
not inside it. Around `exec` a step notes the issue, leaves no unit issuing and lets time pass. A word above the warp's register
limit, a pair and a word that decodes to nothing are told apart (R126, R180-R181, R187). -/
def Obligations.StepRunsDecodedInstruction : Prop :=
  (∀ s, chosen s = none → step s = .next (tick s)) ∧
  (∀ s n i, chosen s = some (.input n) → s.inputs[n]? = some i →
    step s = onNext (fun t => tick (if t.deferred then { t with inputs := t.inputs.take n ++ i :: t.inputs.drop n, deferred := false } else t))
      (exec i { s with inputs := s.inputs.eraseIdx n, deferred := false })) ∧
  (∀ s i, chosen s = some (.event i) → step s = onNext (fun t => tick { t with deferred := false }) (exec i s)) ∧
  (∀ s a k l pc i, chosen s = some (.unit a) →
    let r := { s with cur := a }
    Inside r k l pc → Single k l pc → Reads k l (pc % 5) i → rangeTrap r i = none →
    step s = onNext (fun t => tick (accessTurn (quiet t) a)) (exec i (unwait { r with last := .retired }))) ∧
  (∀ s id slices, chosen s = some (.group id slices) →
    let r := { runGroup s id slices with last := .retired }
    (∀ l pc i, Inside r .execute l pc → Single .execute l pc → Reads .execute l (pc % 5) i →
      (rangeTrap r i = none → step s = onNext (afterIssue s id slices) (exec i (unwait r))) ∧
      ∀ t, rangeTrap r i = some t → step s = .next (afterIssue s id slices t)) ∧
    (∀ l pc, Inside r .execute l pc → Single .execute l pc → (∀ i, ¬ Reads .execute l (pc % 5) i) →
      step s = onNext (afterIssue s id slices) (exec (.illegalInstruction (slotWord l (pc % 5))) r)) ∧
    (∀ l pc x y t u, Inside r .execute l pc → pc % 5 ∈ linePairs l → Reads .execute l (pc % 5) x → Reads .execute l (pc % 5 + 1) y →
      pairLegal x y = true → rangeTrap r x = none → rangeTrap r y = none →
      exec x { unwait r with view := (issuer r).map (·.1), popped := [] } = .next t → t.last = .retired →
      exec y t = .next u → u.last = .retired → step s = .next (afterIssue s id slices u)) ∧
    (∀ w g c x i, issuer r = some (w, g) → (∀ l, g.entry ≠ .inside l) → findCtx s w.ctx = some c →
      checkByte s c needFetch (lineVa g.pc) = .ok x → badRead s x.pa = none →
      let l := homeFetch s x.pa
      let g' := { g with entry := .inside l, wait := .none }
      let r' := fun b => { setWarp b (w.setGroup g') with last := .retired }
      lineParity l = true → lineLegal .execute l = true →
      (∀ src, g.entry = .transfer src ∨ g.entry = .returned src → lineBtgt l (g.pc % 5) = true ∧ ∀ n ∈ linePairs l, n + 1 ≠ g.pc % 5) →
      (∀ n < 12, bit (lineWait l) n = true → w.flag n = 0) →
      Single .execute l g.pc → Reads .execute l (g.pc % 5) i → ∃ b, Fetched r b ∧
        (rangeTrap (r' b) i = none → step s = onNext (afterIssue s id slices) (exec i (unwait (r' b))))))

/-- Words written out from the encodings of 08/R173-R185 and the chapters decode to the instructions that they stand for. -/
def Obligations.DecodeWords : Prop :=
  (∃ f, decode 0x0040401030A20060 = .ok (.ld f) ∧ f.d = 10 ∧ f.a = 3 ∧ f.c = 4 ∧ f.b = 1 ∧ f.km = 2 ∧ f.kn = false ∧ f.ty = .f32) ∧
  (∃ f, decode 0x00040003_0000000010000302 = .ok (.brc f) ∧ f.sub = 3 ∧ f.a = 1 ∧ f.imm = 0x00040003) ∧
  (∃ f, decode 0x00020400_04B0000030700053 = .ok (.cvt f) ∧ f.d = 7 ∧ f.a = 3 ∧ f.md = 4 ∧ f.imm = 0x00020400) ∧
  (∃ f, decode 0x00000006_40000000007084A0 = .ok (.fence f) ∧ f.d = 7 ∧ f.sub = 4 ∧ f.sc = true ∧ f.bk = .imm ∧ f.imm = 6) ∧
  (∃ f, decode 0x00000001_0040000010000087 = .ok (.strm f) ∧ f.d = 0 ∧ f.a = 1) ∧
  (∃ f, decode 0x00040000_0000806400100190 = .ok (.mma f) ∧ f.sub = 1) ∧
  (∃ f, decode 0x001000C0 = .ok (.wnode f) ∧ f.d = 1 ∧ f.a = 0) ∧
  (∃ f, decode 0x00010004_00000000001000E0 = .ok (.nbrow f) ∧ f.d = 1) ∧
  decode 0x00000000000000FF = .error .unassigned ∧ decode 0x00E0000000000000 = .error .reservedType ∧
  decode 0x3000000000000000 = .error .reservedKind ∧ decode 0x0000000000003000 = .error .illegalTie

/-- Decoding and encoding agree: every well-formed instruction that has a word is read back from it, with every field. -/
def Obligations.DecodeEncode : Prop :=
  ∀ i w, i.wellFormed = true → encode i = some w → decode w = .ok i

/-- Memory stays in its canonical form through every step, whatever moves. -/
def Obligations.StepKeepsMemory : Prop :=
  ∀ s t, Memory.wf s.mem = true → step s = .next t → Memory.wf t.mem = true

/-- What reset leaves, as the rules give it: memory lists nothing and is in its canonical form, the groups have layout code 0, no
context, launch or warp exists, permits and profile are those of R448, PRIOAGE holds 20, and the caches are empty. A byte that
nothing has written reads as zero, which is the model's choice (log 2). -/
def Obligations.Reset : Prop :=
  Memory.wf State.reset.mem = true ∧ (∀ a, homeByte State.reset a = 0) ∧ (∀ g, layoutOf State.reset g = 0) ∧
  State.reset.ctxs = [] ∧ State.reset.warps = [] ∧ State.reset.blocks = [] ∧ State.reset.launches = [] ∧
  (∀ core pa, l1Line State.reset core pa = none ∧ l2Line State.reset core pa = none) ∧
  State.reset.prioShift = 20 ∧ State.reset.profile = 0 ∧ (∀ i, tabGet 0 State.reset.mr i = 0) ∧ State.reset.opKey = none ∧
  (∀ d, (getDie State.reset d).out = 0) ∧ ∀ n, tabGet 256 State.reset.nbarb n = 256
end

