-- ==== Sys2Proof/Laws/Tab.lean ====
section
/-! SUPPORT. Sparse tables: reading back what was written, and the canonical form, which every write keeps. -/

namespace Sys2Proof.Laws

open Machine

variable {α : Type}

@[simp] theorem tabGet_nil (d : α) (n : Nat) : tabGet d [] n = d := rfl

theorem tabGet_tabPut (d x : α) (n m : Nat) (t : Tab α) (h : ∀ p ∈ t, p.1 ≠ n) :
    tabGet d (tabPut n x t) m = if m = n then x else tabGet d t m := by
  induction t with
  | nil => simp [tabPut, tabGet]
  | cons p t ih =>
    obtain ⟨k, v⟩ := p
    have hk : k ≠ n := h (k, v) (by simp)
    have ih := ih fun p hp => h p (List.mem_cons_of_mem _ hp)
    simp only [tabPut]
    split
    · simp [tabGet]
    · simp only [tabGet, ih]
      by_cases hm : m = k
      · subst hm; simp [hk]
      · simp [hm]

theorem tabGet_filter_ne (d : α) (n m : Nat) (t : Tab α) :
    tabGet d (t.filter fun p => p.1 != n) m = if m = n then d else tabGet d t m := by
  induction t with
  | nil => simp
  | cons p t ih =>
    obtain ⟨k, v⟩ := p
    by_cases hk : k = n
    · subst hk
      simp only [List.filter_cons, bne_self_eq_false, Bool.false_eq_true, if_false, ih, tabGet]
      by_cases hm : m = k <;> simp [hm]
    · have : (k != n) = true := by simp [hk]
      simp only [List.filter_cons, this, if_true, tabGet, ih]
      by_cases hm : m = k
      · subst hm; simp [hk]
      · simp [hm]

/-- Reading after a write: the value written at its key, what stood there elsewhere. -/
@[simp] theorem tabGet_tabSet [DecidableEq α] (d x : α) (n m : Nat) (t : Tab α) :
    tabGet d (tabSet d t n x) m = if m = n then x else tabGet d t m := by
  unfold tabSet
  split
  · next h => subst h; exact tabGet_filter_ne x n m t
  · rw [tabGet_tabPut _ _ _ _ _ (by simp), tabGet_filter_ne]
    by_cases hm : m = n <;> simp [hm]

/-- The keys of a canonical table are above its lower bound. -/
theorem tabWfFrom_iff [DecidableEq α] (d : α) (lo : Option Nat) (t : Tab α) :
    tabWfFrom d lo t = true ↔
      (t.map (·.1)).Pairwise (· < ·) ∧ (∀ l ∈ lo, ∀ p ∈ t, l < p.1) ∧ ∀ p ∈ t, p.2 ≠ d := by
  induction t generalizing lo with
  | nil => simp [tabWfFrom]
  | cons p t ih =>
    obtain ⟨k, v⟩ := p
    simp only [tabWfFrom, Bool.and_eq_true, decide_eq_true_eq, ih, List.map_cons, List.pairwise_cons, List.mem_map,
      Option.mem_def, List.mem_cons, forall_eq_or_imp]
    constructor
    · rintro ⟨⟨h1, h2⟩, h3, h4, h5⟩
      refine ⟨⟨?_, h3⟩, ?_, h2, h5⟩
      · rintro _ ⟨q, hq, rfl⟩; exact h4 k rfl q hq
      · rintro l rfl
        have h1 : l < k := by simpa using h1
        exact ⟨h1, fun q hq => lt_trans h1 (h4 k rfl q hq)⟩
    · rintro ⟨⟨h1, h2⟩, h3, h4, h5⟩
      refine ⟨⟨?_, h4⟩, h2, ?_, h5⟩
      · cases lo with
        | none => rfl
        | some l => simpa using (h3 l rfl).1
      · intro l hl q hq
        cases hl
        exact h1 _ ⟨q, hq, rfl⟩

theorem tabWf_iff [DecidableEq α] (d : α) (t : Tab α) :
    tabWf d t = true ↔ (t.map (·.1)).Pairwise (· < ·) ∧ ∀ p ∈ t, p.2 ≠ d := by
  simp [tabWf, tabWfFrom_iff]

theorem mem_tabPut (n : Nat) (x : α) (t : Tab α) (p : Nat × α) : p ∈ tabPut n x t ↔ p = (n, x) ∨ p ∈ t := by
  induction t with
  | nil => simp [tabPut]
  | cons q t ih =>
    obtain ⟨k, v⟩ := q
    simp only [tabPut]
    split
    · simp
    · simp only [List.mem_cons, ih]; tauto

/-- Entries taken out keep the canonical form. -/
theorem tabWf_filter [DecidableEq α] (d : α) (t : Tab α) (p : Nat × α → Bool) (h : tabWf d t = true) :
    tabWf d (t.filter p) = true := by
  rw [tabWf_iff] at *
  exact ⟨h.1.sublist (List.filter_sublist.map _), fun q hq => h.2 q (List.mem_of_mem_filter hq)⟩

theorem tabPut_sorted (n : Nat) (x : α) (t : Tab α) (hs : (t.map (·.1)).Pairwise (· < ·)) (hn : ∀ p ∈ t, p.1 ≠ n) :
    ((tabPut n x t).map (·.1)).Pairwise (· < ·) := by
  induction t with
  | nil => simp [tabPut]
  | cons q t ih =>
    obtain ⟨k, v⟩ := q
    simp only [List.map_cons, List.pairwise_cons, List.mem_map] at hs
    have hk : k ≠ n := hn (k, v) (by simp)
    have ih := ih hs.2 fun p hp => hn p (List.mem_cons_of_mem _ hp)
    simp only [tabPut]
    split
    · next hlt =>
      simp only [List.map_cons, List.pairwise_cons, List.mem_cons, List.mem_map]
      refine ⟨?_, hs⟩
      rintro a (rfl | h)
      · exact hlt
      · exact lt_trans hlt (hs.1 a h)
    · next hlt =>
      simp only [List.map_cons, List.pairwise_cons, List.mem_map]
      refine ⟨?_, ih⟩
      rintro _ ⟨p, hp, rfl⟩
      rcases (mem_tabPut n x t p).1 hp with rfl | h
      · exact lt_of_le_of_ne (not_lt.1 hlt) hk
      · exact hs.1 _ ⟨p, h, rfl⟩

/-- Every write keeps the canonical form. -/
theorem tabWf_tabSet [DecidableEq α] (d : α) (t : Tab α) (n : Nat) (x : α) (h : tabWf d t = true) :
    tabWf d (tabSet d t n x) = true := by
  unfold tabSet
  have hf := tabWf_filter d t (fun p => p.1 != n) h
  split
  · exact hf
  · next hx =>
    rw [tabWf_iff] at *
    refine ⟨tabPut_sorted _ _ _ hf.1 (by simp), fun p hp => ?_⟩
    rcases (mem_tabPut n x _ p).1 hp with rfl | h
    · exact hx
    · exact hf.2 p h

@[simp] theorem tabWf_nil [DecidableEq α] (d : α) : tabWf d ([] : Tab α) = true := rfl

end Sys2Proof.Laws
end

