-- ==== Sys2Proof/Laws/Memory.lean ====
section
/-! SUPPORT. Memory at the homes: the LLC and the banks below it leave what the home answers, every write keeps the canonical
form, and a byte reads as it was last written. -/

namespace Sys2Proof.Laws

open Machine

/-! ### What leaves the home's bytes -/

/-- Steps that each leave the home's bytes leave them together. -/
theorem foldl_mem {α : Type} (f : State → α → State) (h : ∀ s a, (f s a).mem = s.mem) (l : List α) (s : State) :
    (l.foldl f s).mem = s.mem := by
  induction l generalizing s with
  | nil => rfl
  | cons a l ih => rw [List.foldl_cons, ih, h]

@[simp] theorem clearPoison_mem (s : State) (l : List (Nat × Byte)) : (clearPoison s l).mem = s.mem := rfl
@[simp] theorem setBankByte_mem (s : State) (pa : Nat) (b : Byte) : (setBankByte s pa b).mem = s.mem := rfl
@[simp] theorem putLlcSet_mem (s : State) (pa : Nat) (ls : List LlcLine) : (putLlcSet s pa ls).mem = s.mem := rfl

@[simp] theorem mdTouch_mem (s : State) (pa : Nat) : (mdTouch s pa).mem = s.mem := by
  unfold mdTouch; split <;> rfl

@[simp] theorem spoilBlock_mem (s : State) (pa : Nat) (m : BitVec 256) : (spoilBlock s pa m).mem = s.mem := by
  unfold spoilBlock
  split
  · rfl
  · dsimp only; split <;> rfl

/-- A commit reaches the bank only. -/
@[simp] theorem commitOne_mem (s : State) : (commitOne s).mem = s.mem := by
  unfold commitOne
  split
  · rfl
  · exact (foldl_mem _ (fun s a => setBankByte_mem s a _) _ _).trans (by simp)

@[simp] theorem commitAll_mem (n : Nat) (s : State) : (commitAll n s).mem = s.mem := by
  induction n generalizing s with
  | zero => rfl
  | succ n ih => rw [commitAll, ih, commitOne_mem]

/-- So does an LLC line written back. -/
@[simp] theorem llcWriteBack_mem (s : State) (l : LlcLine) : (llcWriteBack s l).mem = s.mem := by
  unfold llcWriteBack
  split
  · rfl
  · dsimp only
    split
    · rfl
    · exact (foldl_mem _ (fun s a => setBankByte_mem s a _) _ _).trans (by simp)

@[simp] theorem llcEvict_mem (ways : Nat) (ls : List LlcLine) (s : State) : (llcEvict ways ls s).1.mem = s.mem := by
  induction ls generalizing s with
  | nil => rfl
  | cons l r ih =>
    unfold llcEvict
    split
    · rfl
    · rw [ih, llcWriteBack_mem]

@[simp] theorem llcTouch_mem (s : State) (pa : Nat) (m : BitVec 128) (compat : Bool) : (llcTouch s pa m compat).mem = s.mem := by
  unfold llcTouch
  split
  · rfl
  · dsimp only
    split
    · rfl
    · rw [putLlcSet_mem, llcEvict_mem]; split <;> simp

/-- A read at the home changes the LLC and the bank, not what the home answers. -/
@[simp] theorem llcRead_mem (s : State) (pas : List Nat) : (llcRead s pas).mem = s.mem :=
  foldl_mem _ (fun s a => llcTouch_mem s a 0 false) _ _

@[simp] theorem cleanRow_mem (s : State) (row : Nat) : (cleanRow s row).mem = s.mem :=
  foldl_mem _ (fun s i => by split <;> simp) _ _

@[simp] theorem dropRow_mem (s : State) (row : Nat) : (dropRow s row).mem = s.mem :=
  foldl_mem _ (fun s i => by simp) _ _

/-! ### The canonical form -/

theorem wf_setHomeByte (s : State) (pa : Nat) (b : Byte) (h : Memory.wf s.mem = true) : Memory.wf (setHomeByte s pa b).mem = true := by
  unfold setHomeByte
  split
  · exact h
  · exact tabWf_tabSet _ _ _ _ h

theorem wf_homeWrite (l : List (Nat × Byte)) (s : State) (h : Memory.wf s.mem = true) : Memory.wf (homeWrite s l).mem = true := by
  induction l generalizing s with
  | nil => exact h
  | cons p l ih => exact ih _ (wf_setHomeByte s p.1 p.2 h)

/-- A store at the home writes its bytes; the LLC and the bank below follow. -/
@[simp] theorem homeStoreAs_mem (s : State) (compat : Bool) (l : List (Nat × Byte)) :
    (homeStoreAs s compat l).mem = (homeWrite s l).mem :=
  foldl_mem _ (fun s a => llcTouch_mem s a _ compat) _ _

theorem wf_homeStoreAs (s : State) (compat : Bool) (l : List (Nat × Byte)) (h : Memory.wf s.mem = true) :
    Memory.wf (homeStoreAs s compat l).mem = true :=
  homeStoreAs_mem s compat l ▸ wf_homeWrite l s h

/-- A store at the home keeps the canonical form. -/
theorem wf_homeStore (s : State) (l : List (Nat × Byte)) (h : Memory.wf s.mem = true) : Memory.wf (homeStore s l).mem = true :=
  wf_homeStoreAs s false l h

theorem wf_homePut (s : State) (pa : Nat) (l : List Byte) (h : Memory.wf s.mem = true) : Memory.wf (homePut s pa l).mem = true :=
  wf_homeStore s _ h

/-- A row written to the bank keeps it. -/
theorem wf_rowWrite (s : State) (row : Nat) (l : List Byte) (h : Memory.wf s.mem = true) : Memory.wf (rowWrite s row l).mem = true := by
  unfold rowWrite
  split
  · exact h
  · have : ∀ (ps : List (Nat × Byte)) (s : State), Memory.wf s.mem = true → Memory.wf (ps.foldl (fun s p =>
        { s with mem := tabSet unwritten s.mem p.1 p.2, stale := tabSet none s.stale p.1 none }) s).mem = true := by
      intro ps
      induction ps with
      | nil => exact fun _ h => h
      | cons p r ih => exact fun s h => ih _ (tabWf_tabSet _ _ _ _ h)
    exact this _ _ (by simpa using h)

/-- A group zero-filled at the end of a layout change keeps it. -/
theorem wf_filter (m : Tab Byte) (p : Nat × Byte → Bool) (h : Memory.wf m = true) : Memory.wf (m.filter p) = true :=
  tabWf_filter _ m p h

theorem wf_reset : Memory.wf State.reset.mem = true := rfl

/-! ### Reading back -/

/-- No layout changes: the home answers from the table. -/
theorem homeByte_calm (s : State) (pa : Nat) (hf : s.fillQueue = []) : homeByte s pa = tabGet unwritten s.mem pa := by
  simp [homeByte, busyGroup, layoutBusy, hf]

/-- A write of one byte changes nothing but memory and the bank. -/
theorem setHomeByte_frame (s : State) (pa : Nat) (b : Byte) : ∃ m st, setHomeByte s pa b = { s with mem := m, stale := st } := by
  unfold setHomeByte
  split
  · exact ⟨s.mem, s.stale, rfl⟩
  · exact ⟨_, _, rfl⟩

/-- So do writes of bytes. -/
theorem homeWrite_frame (l : List (Nat × Byte)) (s : State) : ∃ m st, homeWrite s l = { s with mem := m, stale := st } := by
  induction l generalizing s with
  | nil => exact ⟨s.mem, s.stale, rfl⟩
  | cons p l ih =>
    obtain ⟨m, st, hm⟩ := setHomeByte_frame s p.1 p.2
    obtain ⟨n, sn, hn⟩ := ih { s with mem := m, stale := st }
    exact ⟨n, sn, by rw [homeWrite, hm, hn]⟩

theorem homeByte_setHomeByte (s : State) (pa a : Nat) (b : Byte) (hf : s.fillQueue = []) :
    homeByte (setHomeByte s pa b) a = if a = pa then b else homeByte s a := by
  obtain ⟨m, st, hm⟩ := setHomeByte_frame s pa b
  rw [homeByte_calm _ a (by rw [hm]; exact hf), homeByte_calm s a hf]
  simp [setHomeByte, busyGroup, layoutBusy, hf, tabGet_tabSet]

/-- Writes one after another: a byte reads as the last entry for its address says, and as before without one. -/
theorem homeByte_homeWrite (l : List (Nat × Byte)) (s : State) (a : Nat) (hf : s.fillQueue = []) :
    homeByte (homeWrite s l) a = ((l.reverse.find? (·.1 == a)).map (·.2)).getD (homeByte s a) := by
  induction l generalizing s with
  | nil => rfl
  | cons p l ih =>
    obtain ⟨m, st, hm⟩ := setHomeByte_frame s p.1 p.2
    rw [homeWrite, ih _ (by rw [hm]; exact hf), homeByte_setHomeByte s p.1 a p.2 hf, List.reverse_cons, List.find?_append]
    cases List.find? (fun x => x.1 == a) l.reverse with
    | some q => rfl
    | none =>
      by_cases hp : p.1 = a
      · simp [List.find?, hp]
      · have e : (p.1 == a) = false := by simpa using hp
        simp [List.find?, e, Ne.symm hp]

/-- A reader of the home sees only the memory table and the groups under a layout change. -/
theorem homeByte_of_mem (s t : State) (a : Nat) (hm : s.mem = t.mem) (hf : s.fillQueue = []) (ht : t.fillQueue = []) :
    homeByte s a = homeByte t a := by
  rw [homeByte_calm s a hf, homeByte_calm t a ht, hm]

end Sys2Proof.Laws
end

