-- ==== Sys2Proof/Laws/Cache.lean ====
section
/-! SUPPORT. Eviction: what making room for the ways of a retention register leaves in a set, and what a line written back
changes. -/

namespace Sys2Proof.Laws

open Machine

/-- What stays is the most recently used part. -/
theorem trimLines_split (cap : Nat) (ls : List CacheLine) : (trimLines cap ls).1 ++ (trimLines cap ls).2 = ls := by
  induction ls with
  | nil => rfl
  | cons l r ih => unfold trimLines; split <;> simp_all

/-- What stays fits. -/
theorem trimLines_fits (cap : Nat) (ls : List CacheLine) :
    (trimLines cap ls).2.length ≤ cap ∧ halvesOf (trimLines cap ls).2 ≤ cap := by
  induction ls with
  | nil => exact ⟨Nat.zero_le _, Nat.zero_le _⟩
  | cons l r ih =>
    unfold trimLines
    split
    · exact ‹_›
    · exact ih

theorem stays_free (cap : Nat) (ls : List CacheLine) :
    ∀ l ∈ (trimLines cap (ls.filter (·.rtn.isNone))).2, l.rtn.isNone = true := by
  intro l hl
  have : l ∈ ls.filter (·.rtn.isNone) := trimLines_split cap (ls.filter (·.rtn.isNone)) ▸ List.mem_append_right _ hl
  simpa using (List.mem_filter.mp this).2

/-- The unreserved lines of a trimmed set are those that stay. -/
theorem trimSet_free (cap : Nat) (ls : List CacheLine) :
    (trimSet cap ls).filter (·.rtn.isNone) = (trimLines cap (ls.filter (·.rtn.isNone))).2 := by
  have h := trimLines_split cap (ls.filter (·.rtn.isNone))
  have sub : ∀ l ∈ (trimLines cap (ls.filter (·.rtn.isNone))).2, l.rtn.isNone = true := stays_free cap ls
  simp only [trimSet]
  split
  · rename_i he
    rw [List.isEmpty_iff] at he
    rw [he, List.nil_append] at h
    exact h.symm
  · rw [List.filter_append, List.filter_filter, List.filter_eq_self.mpr sub]
    simp

/-- The reserved lines of a set stay. -/
theorem trimSet_reserved (cap : Nat) (ls : List CacheLine) :
    (trimSet cap ls).filter (·.rtn.isSome) = ls.filter (·.rtn.isSome) := by
  have sub : ∀ l ∈ (trimLines cap (ls.filter (·.rtn.isNone))).2, ¬ l.rtn.isSome = true := fun l hl => by
    have := stays_free cap ls l hl
    cases hr : l.rtn <;> simp_all
  simp only [trimSet]
  split
  · rfl
  · rw [List.filter_append, List.filter_filter, List.filter_eq_nil_iff.mpr sub]
    simp

/-- A line written back leaves the canonical form of memory. -/
theorem wf_writeHome (s : State) (l : CacheLine) (h : Memory.wf s.mem = true) : Memory.wf (writeHome s l).mem = true := by
  unfold writeHome
  split
  · exact h
  · exact wf_homeStoreAs _ _ _ h

theorem wf_freeReserved (s : State) (die : Nat) (h : Memory.wf s.mem = true) : Memory.wf (freeReserved s die).mem = true := by
  have : ∀ (ls : List CacheLine) (s : State), Memory.wf s.mem = true → Memory.wf (ls.foldl writeHome s).mem = true := by
    intro ls
    induction ls with
    | nil => exact fun _ h => h
    | cons l r ih => exact fun s h => ih _ (wf_writeHome s l h)
  exact this _ _ h

end Sys2Proof.Laws
end

