-- ==== Sys2Proof/Laws/Ops.lean ====
section
/-! SUPPORT. What the shared operations do, each said once: lookups after updates, registers, the frames that run a meaning, and
the inversion of a step. -/

namespace Sys2Proof.Laws

open Machine

/-! ### Lookups after updates -/

theorem find_updWhere {α : Type} (p q : α → Bool) (y : α) (l : List α) (hq : q y = true) (hpq : ∀ x, p x = true → q x = true)
    (hqp : ∀ x, q x = true → p x = true) : (updWhere p (fun _ => y) l).find? q = (l.find? q).map fun _ => y := by
  induction l with
  | nil => rfl
  | cons x l ih =>
    by_cases h : p x = true
    · simp [updWhere, h, hq, hpq x h]
    · have hx : q x = false := by
        cases e : q x
        · rfl
        · exact absurd (hqp x e) h
      simpa [updWhere, h, hx] using ih

theorem find_updWhere_ne {α : Type} (p q : α → Bool) (y : α) (l : List α) (hq : q y = false) (hpq : ∀ x, p x = true → q x = false) :
    (updWhere p (fun _ => y) l).find? q = l.find? q := by
  induction l with
  | nil => rfl
  | cons x l ih =>
    by_cases h : p x = true
    · simpa [updWhere, h, hq, hpq x h] using ih
    · cases e : q x
      · simpa [updWhere, h, e] using ih
      · simp [updWhere, h, e]

/-- The warp of a number after `setWarp`. -/
theorem findWarp_setWarp (s : State) (w : Warp) (id : Nat) :
    findWarp (setWarp s w) id = if id = w.id then (findWarp s id).map fun _ => w else findWarp s id := by
  split
  · next h => subst h; exact find_updWhere _ _ _ _ (by simp) (fun _ h => h) (fun _ h => h)
  · next h =>
    refine find_updWhere_ne _ _ _ _ (by simpa using Ne.symm h) fun x hx => ?_
    simp only [beq_iff_eq] at hx
    simpa [hx] using Ne.symm h

theorem findBlock_setBlock (s : State) (b : Block) (id : Nat) :
    findBlock (setBlock s b) id = if id = b.id then (findBlock s id).map fun _ => b else findBlock s id := by
  split
  · next h => subst h; exact find_updWhere _ _ _ _ (by simp) (fun _ h => h) (fun _ h => h)
  · next h =>
    refine find_updWhere_ne _ _ _ _ (by simpa using Ne.symm h) fun x hx => ?_
    simp only [beq_iff_eq] at hx
    simpa [hx] using Ne.symm h

theorem findCtx_setCtx (s : State) (c : Ctx) (slot : Nat) :
    findCtx (setCtx s c) slot = if slot = c.slot then (findCtx s slot).map fun _ => c else findCtx s slot := by
  split
  · next h => subst h; exact find_updWhere _ _ _ _ (by simp) (fun _ h => h) (fun _ h => h)
  · next h =>
    refine find_updWhere_ne _ _ _ _ (by simpa using Ne.symm h) fun x hx => ?_
    simp only [beq_iff_eq] at hx
    simpa [hx] using Ne.symm h

theorem findQuery_setQuery (s : State) (q : Query) (id : Nat) :
    findQuery (setQuery s q) id = if id = q.id then (findQuery s id).map fun _ => q else findQuery s id := by
  split
  · next h => subst h; exact find_updWhere _ _ _ _ (by simp) (fun _ h => h) (fun _ h => h)
  · next h =>
    refine find_updWhere_ne _ _ _ _ (by simpa using Ne.symm h) fun x hx => ?_
    simp only [beq_iff_eq] at hx
    simpa [hx] using Ne.symm h

theorem findWalker_setWalker (s : State) (w : Walker) (id : Nat) :
    findWalker (setWalker s w) id = if id = w.id then (findWalker s id).map fun _ => w else findWalker s id := by
  split
  · next h => subst h; exact find_updWhere _ _ _ _ (by simp) (fun _ h => h) (fun _ h => h)
  · next h =>
    refine find_updWhere_ne _ _ _ _ (by simpa using Ne.symm h) fun x hx => ?_
    simp only [beq_iff_eq] at hx
    simpa [hx] using Ne.symm h

theorem findInst_setInst (s : State) (i : NbInst) (id : Nat) :
    findInst (setInst s i) id = if id = i.id then (findInst s id).map fun _ => i else findInst s id := by
  split
  · next h => subst h; exact find_updWhere _ _ _ _ (by simp) (fun _ h => h) (fun _ h => h)
  · next h =>
    refine find_updWhere_ne _ _ _ _ (by simpa using Ne.symm h) fun x hx => ?_
    simp only [beq_iff_eq] at hx
    simpa [hx] using Ne.symm h

theorem getDie_putDie (s : State) (d k : Nat) (x : Die) (h : d < 4) : getDie (putDie s d x) k = if k = d then x else getDie s k := by
  simp [getDie, putDie, h]

theorem cellAt_setCell (s : State) (pa a : Nat) (c : Cell) :
    cellAt (setCell s pa c) a = if a / 16 * 16 = pa / 16 * 16 then c else cellAt s a := by
  simp [cellAt, setCell]

/-! ### Registers of a warp (06/R108) -/

@[simp] theorem readV_writeV (w : Warp) (n m : Nat) (e : W32) (x : VReg) :
    (w.writeV n e x).readV m = if m = n then x else w.readV m := by
  simp [Warp.writeV, Warp.readV]

/-- A write leaves the write marks of the other registers. -/
theorem lanesSince_writeV (w : Warp) (n m k : Nat) (e : W32) (x : VReg) (h : m ≠ n) :
    (w.writeV n e x).lanesSince m k = w.lanesSince m k := by
  simp [Warp.writeV, Warp.lanesSince, h]

@[simp] theorem readK_zero (w : Warp) : w.readK 0 = w.activeLanes := rfl

@[simp] theorem slice_setSlice (w : Warp) (i j : Nat) (x : Slice) : (w.setSlice i x).slice j = if j = i then x else w.slice j := by
  simp [Warp.setSlice, Warp.slice]

theorem readK_writeK (w : Warp) (n m : Nat) (x : W32) (hn : n ≠ 0) :
    (w.writeK n x).readK m = if m = n then x else w.readK m := by
  by_cases hm : m = 0
  · subst hm
    simp only [if_neg (Ne.symm hn), readK_zero, Warp.writeK, if_neg hn]
    rfl
  · simp [Warp.writeK, Warp.readK, hn, hm]

@[simp] theorem readS_zero (x : Slice) : x.readS 0 = 0 := rfl

theorem readS_writeS (x : Slice) (n m : Nat) (y : W64) (hn : n ≠ 0) : (x.writeS n y).readS m = if m = n then y else x.readS m := by
  by_cases hm : m = 0
  · subst hm; simp [Ne.symm hn]
  · simp [Slice.writeS, Slice.readS, hn, hm]

/-- s0 discards writes. -/
@[simp] theorem writeS_zero (x : Slice) (y : W64) : x.writeS 0 y = x := rfl

@[simp] theorem readC_writeC (x : Slice) (n m : Nat) (y : Cond) : (x.writeC n y).readC m = if m = n then y else x.readC m := by
  simp [Slice.writeC, Slice.readC]

@[simp] theorem flag_setFlag (w : Warp) (n m x : Nat) : (w.setFlag n x).flag m = if m = n then x else w.flag m := by
  simp [Warp.setFlag, Warp.flag]

/-! ### Bytes (00/R1) -/

@[simp] theorem toBytes_length (n x : Nat) : (toBytes n x).length = n := by
  induction n generalizing x with
  | zero => rfl
  | succ n ih => simp [toBytes, ih]

theorem ofBytes_toBytes (n x : Nat) : ofBytes (toBytes n x) = x % 256 ^ n := by
  induction n generalizing x with
  | zero => simp [toBytes, ofBytes, Nat.mod_one]
  | succ n ih =>
    simp only [toBytes, ofBytes, ih, BitVec.toNat_ofNat]
    rw [show 256 ^ (n + 1) = 256 * 256 ^ n by ring, Nat.mod_mul]

theorem toBytes_ofBytes (l : List Byte) : toBytes l.length (ofBytes l) = l := by
  induction l with
  | nil => rfl
  | cons b l ih =>
    have hb := b.isLt
    have h1 : (b.toNat + 256 * ofBytes l) / 256 = ofBytes l := by omega
    have h2 : BitVec.ofNat 8 (b.toNat + 256 * ofBytes l) = b := by
      apply BitVec.eq_of_toNat_eq; simp only [BitVec.toNat_ofNat]; omega
    simp only [List.length_cons, toBytes, ofBytes, h1, h2, ih]

/-! ### Traps (17/R391-R392) -/

/-- A trap with a handler, outside handler mode: the trap registers are written and the group goes on at the handler. -/
theorem takeTrap_handled (s : State) (w : Warp) (g : Group) (cause info code t : Nat) (tepc : W64)
    (hh : w.hm = false) (hv : w.tvec ≠ 0) (ht : slotIndex w.tvec = some t) :
    takeTrap s w g cause info code tepc = { setWarp s ({ w with
      tepc, tcause := causeWord cause code, tinfo := BitVec.ofNat 64 info
      handler := g.slices, runs := g.slices }.setGroup (g.goto t)) with last := .trapped } := by
  unfold takeTrap
  rw [hh, beq_false_of_ne hv]
  simp only [Bool.or_false, Bool.false_eq_true, if_false, ht]

/-- One without is unhandled, but for a breakpoint outside handler mode. -/
theorem takeTrap_unhandled (s : State) (w : Warp) (g : Group) (cause info code : Nat) (tepc : W64)
    (h : w.hm = true ∨ w.tvec = 0) (hc : cause ≠ 11 ∨ w.hm = true) :
    takeTrap s w g cause info code tepc = unhandled s w g cause (codeAddr g.pc) := by
  have e : (w.hm || w.tvec == 0) = true := by rcases h with h | h <;> simp [h]
  have n : ¬ (cause = 11 ∧ w.hm = false) := by rintro ⟨rfl, h⟩; rcases hc with hc | hc <;> simp_all
  unfold takeTrap
  rw [if_pos e, if_neg n]

@[simp] theorem stopped_wait (s : State) (w : Warp) (g : Group) (word : W64) (x : Wait) :
    stopped s w g word (.wait x) = { setWarp s (w.setGroup { g with wait := x }) with last := .waited } := rfl

@[simp] theorem stopped_fault (s : State) (w : Warp) (g : Group) (word : W64) (f : Flt) :
    stopped s w g word (.fault f) = takeFault s w g f := rfl

/-- A word that names no queue pops nothing. -/
theorem popAll_nil (s : State) (w : Warp) : popAll s w [] = (s, w) := by simp [popAll]

/-! ### The frames that run a meaning -/

/-- An execute-slice meaning that takes effect. -/
theorem execute_ok (s t : State) (f : Fields) (body : State → Exe → Except Stop State) (w : Warp) (g : Group)
    (hi : issuer s = some (w, g)) (hp : popCheck (sourceOf s w) w g (queuesOf f) = .ok ())
    (hb : body (popAll s w (queuesOf f)).1 { w := (popAll s w (queuesOf f)).2, src := sourceOf s w, g, act := groupLanes w g
                                             en := groupLanes w g &&& predicate (sourceOf s w) f } = .ok t) :
    execute s f body = .next { t with last := .retired } := by
  simp only [execute, hi, hp, hb]

/-- One that stops acts on the state as it stood before the instruction. -/
theorem execute_stop (s : State) (f : Fields) (body : State → Exe → Except Stop State) (w : Warp) (g : Group) (e : Stop)
    (hi : issuer s = some (w, g)) (hp : popCheck (sourceOf s w) w g (queuesOf f) = .ok ())
    (hb : body (popAll s w (queuesOf f)).1 { w := (popAll s w (queuesOf f)).2, src := sourceOf s w, g, act := groupLanes w g
                                             en := groupLanes w g &&& predicate (sourceOf s w) f } = .error e) :
    execute s f body = .next (stopped s w g g.word e) := by
  simp only [execute, hi, hp, hb]

/-- A queue that cannot be popped stops it before its body. -/
theorem execute_pop_stop (s : State) (f : Fields) (body : State → Exe → Except Stop State) (w : Warp) (g : Group) (e : Stop)
    (hi : issuer s = some (w, g)) (hp : popCheck (sourceOf s w) w g (queuesOf f) = .error e) :
    execute s f body = .next (stopped s w g g.word e) := by
  simp only [execute, hi, hp]

/-- With an issuing group, an execute-slice meaning always gives a next state. -/
theorem execute_next (s : State) (f : Fields) (body : State → Exe → Except Stop State) (h : (issuer s).isSome = true) :
    ∃ t, execute s f body = .next t := by
  unfold execute
  split
  · next e => rw [e] at h; cases h
  · next w g e =>
    dsimp only
    split
    · exact ⟨_, rfl⟩
    · split
      · exact ⟨_, rfl⟩
      · exact ⟨_, rfl⟩

@[simp] theorem event_next (s : State) (body : State → State) : event s body = .next (body s) := rfl

theorem walkDo_ok (s t : State) (w w' : Walker) (q : Query) (body : State → Walker → Query → Except WalkEnd (State × Walker))
    (hc : s.cur = .walker w.id) (hw : findWalker s w.id = some w) (hq : findQuery s w.query = some q) (he : q.ended = false)
    (hb : body s w q = .ok (t, w')) : walkDo s body = .next { setWalker t w' with last := .retired } := by
  simp [walkDo, hc, hw, hq, he, hb]

theorem walkDo_error (s : State) (w : Walker) (q : Query) (e : WalkEnd)
    (body : State → Walker → Query → Except WalkEnd (State × Walker))
    (hc : s.cur = .walker w.id) (hw : findWalker s w.id = some w) (hq : findQuery s w.query = some q) (he : q.ended = false)
    (hb : body s w q = .error e) : walkDo s body = .next { endWalker s w e with last := .trapped } := by
  simp [walkDo, hc, hw, hq, he, hb]

theorem bankDo_ok (s t : State) (i : NbInst) (c : NbCmd) (body : State → NbCmd → NbInst → Except BankStop State)
    (hc : s.cur = .bank i.id) (hi : findInst s i.id = some i) (hn : findNb s i.cmd = some c) (hb : body s c i = .ok t) :
    bankDo s body = .next { t with last := .retired } := by
  simp [bankDo, hc, hi, hn, hb]

/-! ### Context commands and requests -/

theorem command_unfit (s : State) (slot : Nat) (c : Ctx) (fits : Ctx → Bool) (body : State → Ctx → State × Bool)
    (hc : findCtx s slot = some c) (hf : fits c = false) : command s slot fits body = countCmd s slot := by
  simp [command, hc, hf]

theorem command_done (s t : State) (slot : Nat) (c : Ctx) (fits : Ctx → Bool) (body : State → Ctx → State × Bool)
    (hc : findCtx s slot = some c) (hf : fits c = true) (hb : body s c = (t, true)) : command s slot fits body = countCmd t slot := by
  simp [command, hc, hf, hb]

theorem command_later (s t : State) (slot : Nat) (c : Ctx) (fits : Ctx → Bool) (body : State → Ctx → State × Bool)
    (hc : findCtx s slot = some c) (hf : fits c = true) (hb : body s c = (t, false)) :
    command s slot fits body = { t with deferred := true } := by
  simp [command, hc, hf, hb]

/-- A request that is served: its status is 0 and its body's state stands. -/
theorem request_served (s t : State) (q : MgmtReq) (is : Nat → Bool) (body : State → Except Nat (State × W64)) (cert : Option Digest)
    (v : W64) (hc : s.conns.find? (·.1 == q.conn) = some (q.conn, cert)) (hi : is q.op.toNat = true)
    (h0 : q.op.toNat ≠ 0) (h11 : q.op.toNat ≤ 11) (ha : authorised s cert q.op.toNat = true) (hz : q.zero = 0)
    (hb : body s = .ok (t, v)) : request s q is body = respondMgmt t q 0 v := by
  have e : ¬ 11 < q.op.toNat := by omega
  simp [request, hc, hi, h0, e, ha, hz, hb]

theorem request_refused (s : State) (q : MgmtReq) (is : Nat → Bool) (body : State → Except Nat (State × W64)) (cert : Option Digest)
    (n : Nat) (hc : s.conns.find? (·.1 == q.conn) = some (q.conn, cert)) (hi : is q.op.toNat = true)
    (h0 : q.op.toNat ≠ 0) (h11 : q.op.toNat ≤ 11) (ha : authorised s cert q.op.toNat = true) (hz : q.zero = 0)
    (hb : body s = .error n) : request s q is body = respondMgmt s q n 0 := by
  have e : ¬ 11 < q.op.toNat := by omega
  simp [request, hc, hi, h0, e, ha, hz, hb]

/-! ### A step -/

/-- Everything that a step which goes on can be: time passes alone, or one mover moves and time passes. -/
theorem step_cases (s t : State) (h : step s = .next t) :
    (chosen s = none ∧ t = tick s) ∨ ∃ m u, chosen s = some m ∧ move s m = .next u ∧ t = tick u := by
  unfold step advance at h
  split at h
  · next e => exact .inl ⟨e, by injection h with h; exact h.symm⟩
  · next m e =>
    refine .inr ⟨m, ?_⟩
    cases hm : move s m with
    | next u =>
      rw [hm] at h
      exact ⟨u, e, rfl, by injection h with h; exact h.symm⟩
    | fault r => rw [hm] at h; cases h
    | refused r => rw [hm] at h; cases h

/-- What follows a next state holds of its image. -/
theorem onNext_next (f : State → State) (o : Host.Outcome State Fault Refusal) (t : State) (h : onNext f o = .next t) :
    ∃ u, o = .next u ∧ t = f u := by
  cases o with
  | next u => exact ⟨u, rfl, by injection h with h; exact h.symm⟩
  | fault r => cases h
  | refused r => cases h

/-- A warp or fragment put back at its place changes the warps only. -/
theorem put_frame (o : Occupant) (s : State) (f : Place → Place) : ∃ ws, o.put s f = { s with warps := ws } := by
  unfold Occupant.put
  split
  · exact ⟨s.warps, rfl⟩
  · exact ⟨_, rfl⟩
  · exact ⟨_, rfl⟩

/-- Active and pending occupants change places: the warps change, and nothing else. -/
theorem pendingWarpSwap_frame (core quad : Nat) (s t : State) (h : execPendingWarpSwap core quad s = .next t) :
    ∃ ws, t = { s with warps := ws } := by
  unfold execPendingWarpSwap event at h
  injection h with h
  subst h
  have two : ∀ (p o : Occupant) (f g : Place → Place), ∃ ws, p.put (o.put s g) f = { s with warps := ws } := fun p o f g => by
    obtain ⟨a, ha⟩ := put_frame o s g
    obtain ⟨b, hb⟩ := put_frame p { s with warps := a } f
    exact ⟨b, by rw [ha, hb]⟩
  dsimp only
  repeat' split
  all_goals first | exact ⟨s.warps, rfl⟩ | exact put_frame .. | exact two ..

/-- Time passing presses the swaps that are due: the warps change, and nothing else. -/
theorem pressSwaps_frame (s : State) : ∃ ws, pressSwaps s = { s with warps := ws } := by
  have : ∀ (l : List (Nat × Nat)) (f : State → Nat × Nat → State), (∀ s q, ∃ ws, f s q = { s with warps := ws }) →
      ∀ s, ∃ ws, l.foldl f s = { s with warps := ws } := by
    intro l f hf
    induction l with
    | nil => exact fun s => ⟨s.warps, rfl⟩
    | cons q l ih => intro s; obtain ⟨a, ha⟩ := hf s q; obtain ⟨b, hb⟩ := ih { s with warps := a }
                     exact ⟨b, by rw [List.foldl_cons, ha, hb]⟩
  refine this _ _ (fun s q => ?_) s
  dsimp only
  split
  · split
    · next t h => exact pendingWarpSwap_frame _ _ s t h
    · exact ⟨s.warps, rfl⟩
  · exact ⟨s.warps, rfl⟩

/-- The passage of time: the counts advance, and warps look again, age and change places. -/
theorem tick_frame (s : State) : ∃ ws, tick s = { count s with warps := ws } := by
  obtain ⟨ws, h⟩ := pressSwaps_frame { lookAgain (count s) with warps := (lookAgain (count s)).warps.map (ageWarp (lookAgain (count s))) }
  exact ⟨ws, by rw [tick]; exact h⟩

/-- The passage of time leaves memory. -/
@[simp] theorem tick_mem (s : State) : (tick s).mem = s.mem := by
  obtain ⟨ws, h⟩ := tick_frame s
  rw [h]
  rfl

end Sys2Proof.Laws
end

