-- ==== Sys2Proof/Laws/PerInstr.lean ====
section
/-! SUPPORT. What holds of every constructor of `Instr` as syntax: an instruction with a word has a legal form over the same
fields, and an event has neither. -/

namespace Sys2Proof.Laws

/-- A word and a form over the same fields, or neither. -/
def Coded.Statement (i : Instr) : Prop :=
  match parts i, Machine.form i with
  | some p, some q => p.2 = q.1 ∧ p.1 < 256
  | none, none => True
  | _, _ => False

theorem Coded.nop (f : Fields) : Coded.Statement (.nop f) := ⟨rfl, Nat.le_of_ble_eq_true rfl⟩
theorem Coded.bra (f : Fields) : Coded.Statement (.bra f) := ⟨rfl, Nat.le_of_ble_eq_true rfl⟩
theorem Coded.brc (f : Fields) : Coded.Statement (.brc f) := ⟨rfl, Nat.le_of_ble_eq_true rfl⟩
theorem Coded.brz (f : Fields) : Coded.Statement (.brz f) := ⟨rfl, Nat.le_of_ble_eq_true rfl⟩
theorem Coded.brnz (f : Fields) : Coded.Statement (.brnz f) := ⟨rfl, Nat.le_of_ble_eq_true rfl⟩
theorem Coded.call (f : Fields) : Coded.Statement (.call f) := ⟨rfl, Nat.le_of_ble_eq_true rfl⟩
theorem Coded.ret (f : Fields) : Coded.Statement (.ret f) := ⟨rfl, Nat.le_of_ble_eq_true rfl⟩
theorem Coded.jmpi (f : Fields) : Coded.Statement (.jmpi f) := ⟨rfl, Nat.le_of_ble_eq_true rfl⟩
theorem Coded.regang (f : Fields) : Coded.Statement (.regang f) := ⟨rfl, Nat.le_of_ble_eq_true rfl⟩
theorem Coded.exit (f : Fields) : Coded.Statement (.exit f) := ⟨rfl, Nat.le_of_ble_eq_true rfl⟩
theorem Coded.yield (f : Fields) : Coded.Statement (.yield f) := ⟨rfl, Nat.le_of_ble_eq_true rfl⟩
theorem Coded.trap (f : Fields) : Coded.Statement (.trap f) := ⟨rfl, Nat.le_of_ble_eq_true rfl⟩
theorem Coded.brk (f : Fields) : Coded.Statement (.brk f) := ⟨rfl, Nat.le_of_ble_eq_true rfl⟩
theorem Coded.waitf (f : Fields) : Coded.Statement (.waitf f) := ⟨rfl, Nat.le_of_ble_eq_true rfl⟩
theorem Coded.iadd (f : Fields) : Coded.Statement (.iadd f) := ⟨rfl, Nat.le_of_ble_eq_true rfl⟩
theorem Coded.isub (f : Fields) : Coded.Statement (.isub f) := ⟨rfl, Nat.le_of_ble_eq_true rfl⟩
theorem Coded.imul (f : Fields) : Coded.Statement (.imul f) := ⟨rfl, Nat.le_of_ble_eq_true rfl⟩
theorem Coded.imulh (f : Fields) : Coded.Statement (.imulh f) := ⟨rfl, Nat.le_of_ble_eq_true rfl⟩
theorem Coded.imad (f : Fields) : Coded.Statement (.imad f) := ⟨rfl, Nat.le_of_ble_eq_true rfl⟩
theorem Coded.imin (f : Fields) : Coded.Statement (.imin f) := ⟨rfl, Nat.le_of_ble_eq_true rfl⟩
theorem Coded.imax (f : Fields) : Coded.Statement (.imax f) := ⟨rfl, Nat.le_of_ble_eq_true rfl⟩
theorem Coded.iabs (f : Fields) : Coded.Statement (.iabs f) := ⟨rfl, Nat.le_of_ble_eq_true rfl⟩
theorem Coded.ineg (f : Fields) : Coded.Statement (.ineg f) := ⟨rfl, Nat.le_of_ble_eq_true rfl⟩
theorem Coded.and (f : Fields) : Coded.Statement (.and f) := ⟨rfl, Nat.le_of_ble_eq_true rfl⟩
theorem Coded.or (f : Fields) : Coded.Statement (.or f) := ⟨rfl, Nat.le_of_ble_eq_true rfl⟩
theorem Coded.xor (f : Fields) : Coded.Statement (.xor f) := ⟨rfl, Nat.le_of_ble_eq_true rfl⟩
theorem Coded.andn (f : Fields) : Coded.Statement (.andn f) := ⟨rfl, Nat.le_of_ble_eq_true rfl⟩
theorem Coded.shl (f : Fields) : Coded.Statement (.shl f) := ⟨rfl, Nat.le_of_ble_eq_true rfl⟩
theorem Coded.shr (f : Fields) : Coded.Statement (.shr f) := ⟨rfl, Nat.le_of_ble_eq_true rfl⟩
theorem Coded.sar (f : Fields) : Coded.Statement (.sar f) := ⟨rfl, Nat.le_of_ble_eq_true rfl⟩
theorem Coded.rot (f : Fields) : Coded.Statement (.rot f) := ⟨rfl, Nat.le_of_ble_eq_true rfl⟩
theorem Coded.rotR (f : Fields) : Coded.Statement (.rotR f) := ⟨rfl, Nat.le_of_ble_eq_true rfl⟩
theorem Coded.bfx (f : Fields) : Coded.Statement (.bfx f) := ⟨rfl, Nat.le_of_ble_eq_true rfl⟩
theorem Coded.bfxs (f : Fields) : Coded.Statement (.bfxs f) := ⟨rfl, Nat.le_of_ble_eq_true rfl⟩
theorem Coded.bfi (f : Fields) : Coded.Statement (.bfi f) := ⟨rfl, Nat.le_of_ble_eq_true rfl⟩
theorem Coded.popc (f : Fields) : Coded.Statement (.popc f) := ⟨rfl, Nat.le_of_ble_eq_true rfl⟩
theorem Coded.clz (f : Fields) : Coded.Statement (.clz f) := ⟨rfl, Nat.le_of_ble_eq_true rfl⟩
theorem Coded.brev (f : Fields) : Coded.Statement (.brev f) := ⟨rfl, Nat.le_of_ble_eq_true rfl⟩
theorem Coded.sel (f : Fields) : Coded.Statement (.sel f) := ⟨rfl, Nat.le_of_ble_eq_true rfl⟩
theorem Coded.icmp (f : Fields) : Coded.Statement (.icmp f) := ⟨rfl, Nat.le_of_ble_eq_true rfl⟩
theorem Coded.mov (f : Fields) : Coded.Statement (.mov f) := ⟨rfl, Nat.le_of_ble_eq_true rfl⟩
theorem Coded.movS (f : Fields) : Coded.Statement (.movS f) := ⟨rfl, Nat.le_of_ble_eq_true rfl⟩
theorem Coded.movi (f : Fields) : Coded.Statement (.movi f) := ⟨rfl, Nat.le_of_ble_eq_true rfl⟩
theorem Coded.moviHi (f : Fields) : Coded.Statement (.moviHi f) := ⟨rfl, Nat.le_of_ble_eq_true rfl⟩
theorem Coded.lea (f : Fields) : Coded.Statement (.lea f) := ⟨rfl, Nat.le_of_ble_eq_true rfl⟩
theorem Coded.kand (f : Fields) : Coded.Statement (.kand f) := ⟨rfl, Nat.le_of_ble_eq_true rfl⟩
theorem Coded.kor (f : Fields) : Coded.Statement (.kor f) := ⟨rfl, Nat.le_of_ble_eq_true rfl⟩
theorem Coded.kxor (f : Fields) : Coded.Statement (.kxor f) := ⟨rfl, Nat.le_of_ble_eq_true rfl⟩
theorem Coded.knot (f : Fields) : Coded.Statement (.knot f) := ⟨rfl, Nat.le_of_ble_eq_true rfl⟩
theorem Coded.kmov (f : Fields) : Coded.Statement (.kmov f) := ⟨rfl, Nat.le_of_ble_eq_true rfl⟩
theorem Coded.kmovVk (f : Fields) : Coded.Statement (.kmovVk f) := ⟨rfl, Nat.le_of_ble_eq_true rfl⟩
theorem Coded.kmovKv (f : Fields) : Coded.Statement (.kmovKv f) := ⟨rfl, Nat.le_of_ble_eq_true rfl⟩
theorem Coded.kpop (f : Fields) : Coded.Statement (.kpop f) := ⟨rfl, Nat.le_of_ble_eq_true rfl⟩
theorem Coded.kfirst (f : Fields) : Coded.Statement (.kfirst f) := ⟨rfl, Nat.le_of_ble_eq_true rfl⟩
theorem Coded.shflIdx (f : Fields) : Coded.Statement (.shflIdx f) := ⟨rfl, Nat.le_of_ble_eq_true rfl⟩
theorem Coded.shflUp (f : Fields) : Coded.Statement (.shflUp f) := ⟨rfl, Nat.le_of_ble_eq_true rfl⟩
theorem Coded.shflDown (f : Fields) : Coded.Statement (.shflDown f) := ⟨rfl, Nat.le_of_ble_eq_true rfl⟩
theorem Coded.shflXor (f : Fields) : Coded.Statement (.shflXor f) := ⟨rfl, Nat.le_of_ble_eq_true rfl⟩
theorem Coded.voteAny (f : Fields) : Coded.Statement (.voteAny f) := ⟨rfl, Nat.le_of_ble_eq_true rfl⟩
theorem Coded.voteAll (f : Fields) : Coded.Statement (.voteAll f) := ⟨rfl, Nat.le_of_ble_eq_true rfl⟩
theorem Coded.voteBallot (f : Fields) : Coded.Statement (.voteBallot f) := ⟨rfl, Nat.le_of_ble_eq_true rfl⟩
theorem Coded.redux (f : Fields) : Coded.Statement (.redux f) := ⟨rfl, Nat.le_of_ble_eq_true rfl⟩
theorem Coded.scan (f : Fields) : Coded.Statement (.scan f) := ⟨rfl, Nat.le_of_ble_eq_true rfl⟩
theorem Coded.bcast (f : Fields) : Coded.Statement (.bcast f) := ⟨rfl, Nat.le_of_ble_eq_true rfl⟩
theorem Coded.bcastS (f : Fields) : Coded.Statement (.bcastS f) := ⟨rfl, Nat.le_of_ble_eq_true rfl⟩
theorem Coded.fadd (f : Fields) : Coded.Statement (.fadd f) := ⟨rfl, Nat.le_of_ble_eq_true rfl⟩
theorem Coded.fsub (f : Fields) : Coded.Statement (.fsub f) := ⟨rfl, Nat.le_of_ble_eq_true rfl⟩
theorem Coded.fmul (f : Fields) : Coded.Statement (.fmul f) := ⟨rfl, Nat.le_of_ble_eq_true rfl⟩
theorem Coded.ffma (f : Fields) : Coded.Statement (.ffma f) := ⟨rfl, Nat.le_of_ble_eq_true rfl⟩
theorem Coded.fmin (f : Fields) : Coded.Statement (.fmin f) := ⟨rfl, Nat.le_of_ble_eq_true rfl⟩
theorem Coded.fmax (f : Fields) : Coded.Statement (.fmax f) := ⟨rfl, Nat.le_of_ble_eq_true rfl⟩
theorem Coded.fcmp (f : Fields) : Coded.Statement (.fcmp f) := ⟨rfl, Nat.le_of_ble_eq_true rfl⟩
theorem Coded.frcp (f : Fields) : Coded.Statement (.frcp f) := ⟨rfl, Nat.le_of_ble_eq_true rfl⟩
theorem Coded.frsq (f : Fields) : Coded.Statement (.frsq f) := ⟨rfl, Nat.le_of_ble_eq_true rfl⟩
theorem Coded.fsqrt (f : Fields) : Coded.Statement (.fsqrt f) := ⟨rfl, Nat.le_of_ble_eq_true rfl⟩
theorem Coded.fex2 (f : Fields) : Coded.Statement (.fex2 f) := ⟨rfl, Nat.le_of_ble_eq_true rfl⟩
theorem Coded.flg2 (f : Fields) : Coded.Statement (.flg2 f) := ⟨rfl, Nat.le_of_ble_eq_true rfl⟩
theorem Coded.fsin (f : Fields) : Coded.Statement (.fsin f) := ⟨rfl, Nat.le_of_ble_eq_true rfl⟩
theorem Coded.fcos (f : Fields) : Coded.Statement (.fcos f) := ⟨rfl, Nat.le_of_ble_eq_true rfl⟩
theorem Coded.ftanh (f : Fields) : Coded.Statement (.ftanh f) := ⟨rfl, Nat.le_of_ble_eq_true rfl⟩
theorem Coded.fsig (f : Fields) : Coded.Statement (.fsig f) := ⟨rfl, Nat.le_of_ble_eq_true rfl⟩
theorem Coded.hadd2 (f : Fields) : Coded.Statement (.hadd2 f) := ⟨rfl, Nat.le_of_ble_eq_true rfl⟩
theorem Coded.hmul2 (f : Fields) : Coded.Statement (.hmul2 f) := ⟨rfl, Nat.le_of_ble_eq_true rfl⟩
theorem Coded.hfma2 (f : Fields) : Coded.Statement (.hfma2 f) := ⟨rfl, Nat.le_of_ble_eq_true rfl⟩
theorem Coded.cvt (f : Fields) : Coded.Statement (.cvt f) := ⟨rfl, Nat.le_of_ble_eq_true rfl⟩
theorem Coded.frnd (f : Fields) : Coded.Statement (.frnd f) := ⟨rfl, Nat.le_of_ble_eq_true rfl⟩
theorem Coded.fclass (f : Fields) : Coded.Statement (.fclass f) := ⟨rfl, Nat.le_of_ble_eq_true rfl⟩
theorem Coded.fscale (f : Fields) : Coded.Statement (.fscale f) := ⟨rfl, Nat.le_of_ble_eq_true rfl⟩
theorem Coded.ld (f : Fields) : Coded.Statement (.ld f) := ⟨rfl, Nat.le_of_ble_eq_true rfl⟩
theorem Coded.st (f : Fields) : Coded.Statement (.st f) := ⟨rfl, Nat.le_of_ble_eq_true rfl⟩
theorem Coded.lds (f : Fields) : Coded.Statement (.lds f) := ⟨rfl, Nat.le_of_ble_eq_true rfl⟩
theorem Coded.sts (f : Fields) : Coded.Statement (.sts f) := ⟨rfl, Nat.le_of_ble_eq_true rfl⟩
theorem Coded.atom (f : Fields) : Coded.Statement (.atom f) := ⟨rfl, Nat.le_of_ble_eq_true rfl⟩
theorem Coded.red (f : Fields) : Coded.Statement (.red f) := ⟨rfl, Nat.le_of_ble_eq_true rfl⟩
theorem Coded.cellp (f : Fields) : Coded.Statement (.cellp f) := ⟨rfl, Nat.le_of_ble_eq_true rfl⟩
theorem Coded.cellr (f : Fields) : Coded.Statement (.cellr f) := ⟨rfl, Nat.le_of_ble_eq_true rfl⟩
theorem Coded.cellc (f : Fields) : Coded.Statement (.cellc f) := ⟨rfl, Nat.le_of_ble_eq_true rfl⟩
theorem Coded.pref (f : Fields) : Coded.Statement (.pref f) := ⟨rfl, Nat.le_of_ble_eq_true rfl⟩
theorem Coded.cclean (f : Fields) : Coded.Statement (.cclean f) := ⟨rfl, Nat.le_of_ble_eq_true rfl⟩
theorem Coded.cinv (f : Fields) : Coded.Statement (.cinv f) := ⟨rfl, Nat.le_of_ble_eq_true rfl⟩
theorem Coded.cdisc (f : Fields) : Coded.Statement (.cdisc f) := ⟨rfl, Nat.le_of_ble_eq_true rfl⟩
theorem Coded.sealRange (f : Fields) : Coded.Statement (.sealRange f) := ⟨rfl, Nat.le_of_ble_eq_true rfl⟩
theorem Coded.unsealRange (f : Fields) : Coded.Statement (.unsealRange f) := ⟨rfl, Nat.le_of_ble_eq_true rfl⟩
theorem Coded.pin (f : Fields) : Coded.Statement (.pin f) := ⟨rfl, Nat.le_of_ble_eq_true rfl⟩
theorem Coded.unpin (f : Fields) : Coded.Statement (.unpin f) := ⟨rfl, Nat.le_of_ble_eq_true rfl⟩
theorem Coded.cpy (f : Fields) : Coded.Statement (.cpy f) := ⟨rfl, Nat.le_of_ble_eq_true rfl⟩
theorem Coded.cpyq (f : Fields) : Coded.Statement (.cpyq f) := ⟨rfl, Nat.le_of_ble_eq_true rfl⟩
theorem Coded.chko (f : Fields) : Coded.Statement (.chko f) := ⟨rfl, Nat.le_of_ble_eq_true rfl⟩
theorem Coded.chki (f : Fields) : Coded.Statement (.chki f) := ⟨rfl, Nat.le_of_ble_eq_true rfl⟩
theorem Coded.chkiDrop (f : Fields) : Coded.Statement (.chkiDrop f) := ⟨rfl, Nat.le_of_ble_eq_true rfl⟩
theorem Coded.bclose (f : Fields) : Coded.Statement (.bclose f) := ⟨rfl, Nat.le_of_ble_eq_true rfl⟩
theorem Coded.bwait (f : Fields) : Coded.Statement (.bwait f) := ⟨rfl, Nat.le_of_ble_eq_true rfl⟩
theorem Coded.decLut (f : Fields) : Coded.Statement (.decLut f) := ⟨rfl, Nat.le_of_ble_eq_true rfl⟩
theorem Coded.decRle0 (f : Fields) : Coded.Statement (.decRle0 f) := ⟨rfl, Nat.le_of_ble_eq_true rfl⟩
theorem Coded.decSp24 (f : Fields) : Coded.Statement (.decSp24 f) := ⟨rfl, Nat.le_of_ble_eq_true rfl⟩
theorem Coded.strm (f : Fields) : Coded.Statement (.strm f) := ⟨rfl, Nat.le_of_ble_eq_true rfl⟩
theorem Coded.srun (f : Fields) : Coded.Statement (.srun f) := ⟨rfl, Nat.le_of_ble_eq_true rfl⟩
theorem Coded.astop (f : Fields) : Coded.Statement (.astop f) := ⟨rfl, Nat.le_of_ble_eq_true rfl⟩
theorem Coded.astopAll (f : Fields) : Coded.Statement (.astopAll f) := ⟨rfl, Nat.le_of_ble_eq_true rfl⟩
theorem Coded.amovi (f : Fields) : Coded.Statement (.amovi f) := ⟨rfl, Nat.le_of_ble_eq_true rfl⟩
theorem Coded.amoviHi (f : Fields) : Coded.Statement (.amoviHi f) := ⟨rfl, Nat.le_of_ble_eq_true rfl⟩
theorem Coded.aadd (f : Fields) : Coded.Statement (.aadd f) := ⟨rfl, Nat.le_of_ble_eq_true rfl⟩
theorem Coded.aloop (f : Fields) : Coded.Statement (.aloop f) := ⟨rfl, Nat.le_of_ble_eq_true rfl⟩
theorem Coded.abr (f : Fields) : Coded.Statement (.abr f) := ⟨rfl, Nat.le_of_ble_eq_true rfl⟩
theorem Coded.mma (f : Fields) : Coded.Statement (.mma f) := ⟨rfl, Nat.le_of_ble_eq_true rfl⟩
theorem Coded.zclr (f : Fields) : Coded.Statement (.zclr f) := ⟨rfl, Nat.le_of_ble_eq_true rfl⟩
theorem Coded.drain (f : Fields) : Coded.Statement (.drain f) := ⟨rfl, Nat.le_of_ble_eq_true rfl⟩
theorem Coded.atbl (f : Fields) : Coded.Statement (.atbl f) := ⟨rfl, Nat.le_of_ble_eq_true rfl⟩
theorem Coded.fmtset (f : Fields) : Coded.Statement (.fmtset f) := ⟨rfl, Nat.le_of_ble_eq_true rfl⟩
theorem Coded.scpreLd (f : Fields) : Coded.Statement (.scpreLd f) := ⟨rfl, Nat.le_of_ble_eq_true rfl⟩
theorem Coded.scpreInv (f : Fields) : Coded.Statement (.scpreInv f) := ⟨rfl, Nat.le_of_ble_eq_true rfl⟩
theorem Coded.scpreAll (f : Fields) : Coded.Statement (.scpreAll f) := ⟨rfl, Nat.le_of_ble_eq_true rfl⟩
theorem Coded.opfence (f : Fields) : Coded.Statement (.opfence f) := ⟨rfl, Nat.le_of_ble_eq_true rfl⟩
theorem Coded.batonJoin (f : Fields) : Coded.Statement (.batonJoin f) := ⟨rfl, Nat.le_of_ble_eq_true rfl⟩
theorem Coded.batonTake (f : Fields) : Coded.Statement (.batonTake f) := ⟨rfl, Nat.le_of_ble_eq_true rfl⟩
theorem Coded.batonPass (f : Fields) : Coded.Statement (.batonPass f) := ⟨rfl, Nat.le_of_ble_eq_true rfl⟩
theorem Coded.fence (f : Fields) : Coded.Statement (.fence f) := ⟨rfl, Nat.le_of_ble_eq_true rfl⟩
theorem Coded.fwait (f : Fields) : Coded.Statement (.fwait f) := ⟨rfl, Nat.le_of_ble_eq_true rfl⟩
theorem Coded.barArv (f : Fields) : Coded.Statement (.barArv f) := ⟨rfl, Nat.le_of_ble_eq_true rfl⟩
theorem Coded.barWait (f : Fields) : Coded.Statement (.barWait f) := ⟨rfl, Nat.le_of_ble_eq_true rfl⟩
theorem Coded.barArm (f : Fields) : Coded.Statement (.barArm f) := ⟨rfl, Nat.le_of_ble_eq_true rfl⟩
theorem Coded.barTst (f : Fields) : Coded.Statement (.barTst f) := ⟨rfl, Nat.le_of_ble_eq_true rfl⟩
theorem Coded.grow (f : Fields) : Coded.Statement (.grow f) := ⟨rfl, Nat.le_of_ble_eq_true rfl⟩
theorem Coded.growTry (f : Fields) : Coded.Statement (.growTry f) := ⟨rfl, Nat.le_of_ble_eq_true rfl⟩
theorem Coded.shrink (f : Fields) : Coded.Statement (.shrink f) := ⟨rfl, Nat.le_of_ble_eq_true rfl⟩
theorem Coded.spawn (f : Fields) : Coded.Statement (.spawn f) := ⟨rfl, Nat.le_of_ble_eq_true rfl⟩
theorem Coded.spawnTry (f : Fields) : Coded.Statement (.spawnTry f) := ⟨rfl, Nat.le_of_ble_eq_true rfl⟩
theorem Coded.rsv (f : Fields) : Coded.Statement (.rsv f) := ⟨rfl, Nat.le_of_ble_eq_true rfl⟩
theorem Coded.rsvTry (f : Fields) : Coded.Statement (.rsvTry f) := ⟨rfl, Nat.le_of_ble_eq_true rfl⟩
theorem Coded.enq (f : Fields) : Coded.Statement (.enq f) := ⟨rfl, Nat.le_of_ble_eq_true rfl⟩
theorem Coded.deq (f : Fields) : Coded.Statement (.deq f) := ⟨rfl, Nat.le_of_ble_eq_true rfl⟩
theorem Coded.deqTry (f : Fields) : Coded.Statement (.deqTry f) := ⟨rfl, Nat.le_of_ble_eq_true rfl⟩
theorem Coded.migrate (f : Fields) : Coded.Statement (.migrate f) := ⟨rfl, Nat.le_of_ble_eq_true rfl⟩
theorem Coded.routeSet (f : Fields) : Coded.Statement (.routeSet f) := ⟨rfl, Nat.le_of_ble_eq_true rfl⟩
theorem Coded.routeSetFree (f : Fields) : Coded.Statement (.routeSetFree f) := ⟨rfl, Nat.le_of_ble_eq_true rfl⟩
theorem Coded.routeAdmit (f : Fields) : Coded.Statement (.routeAdmit f) := ⟨rfl, Nat.le_of_ble_eq_true rfl⟩
theorem Coded.routeAdmitClose (f : Fields) : Coded.Statement (.routeAdmitClose f) := ⟨rfl, Nat.le_of_ble_eq_true rfl⟩
theorem Coded.routePop (f : Fields) : Coded.Statement (.routePop f) := ⟨rfl, Nat.le_of_ble_eq_true rfl⟩
theorem Coded.routeVerd (f : Fields) : Coded.Statement (.routeVerd f) := ⟨rfl, Nat.le_of_ble_eq_true rfl⟩
theorem Coded.routeStat (f : Fields) : Coded.Statement (.routeStat f) := ⟨rfl, Nat.le_of_ble_eq_true rfl⟩
theorem Coded.srch (f : Fields) : Coded.Statement (.srch f) := ⟨rfl, Nat.le_of_ble_eq_true rfl⟩
theorem Coded.kmerge (f : Fields) : Coded.Statement (.kmerge f) := ⟨rfl, Nat.le_of_ble_eq_true rfl⟩
theorem Coded.nbcall (f : Fields) : Coded.Statement (.nbcall f) := ⟨rfl, Nat.le_of_ble_eq_true rfl⟩
theorem Coded.csrr (f : Fields) : Coded.Statement (.csrr f) := ⟨rfl, Nat.le_of_ble_eq_true rfl⟩
theorem Coded.csrw (f : Fields) : Coded.Statement (.csrw f) := ⟨rfl, Nat.le_of_ble_eq_true rfl⟩
theorem Coded.syscall (f : Fields) : Coded.Statement (.syscall f) := ⟨rfl, Nat.le_of_ble_eq_true rfl⟩
theorem Coded.eret (f : Fields) : Coded.Statement (.eret f) := ⟨rfl, Nat.le_of_ble_eq_true rfl⟩
theorem Coded.halt (f : Fields) : Coded.Statement (.halt f) := ⟨rfl, Nat.le_of_ble_eq_true rfl⟩
theorem Coded.permit (f : Fields) : Coded.Statement (.permit f) := ⟨rfl, Nat.le_of_ble_eq_true rfl⟩
theorem Coded.clkrd (f : Fields) : Coded.Statement (.clkrd f) := ⟨rfl, Nat.le_of_ble_eq_true rfl⟩
theorem Coded.clkrdCore (f : Fields) : Coded.Statement (.clkrdCore f) := ⟨rfl, Nat.le_of_ble_eq_true rfl⟩
theorem Coded.wnode (f : Fields) : Coded.Statement (.wnode f) := ⟨rfl, Nat.le_of_ble_eq_true rfl⟩
theorem Coded.wdist (f : Fields) : Coded.Statement (.wdist f) := ⟨rfl, Nat.le_of_ble_eq_true rfl⟩
theorem Coded.wpush (f : Fields) : Coded.Statement (.wpush f) := ⟨rfl, Nat.le_of_ble_eq_true rfl⟩
theorem Coded.wbound (f : Fields) : Coded.Statement (.wbound f) := ⟨rfl, Nat.le_of_ble_eq_true rfl⟩
theorem Coded.wnbr (f : Fields) : Coded.Statement (.wnbr f) := ⟨rfl, Nat.le_of_ble_eq_true rfl⟩
theorem Coded.wseen (f : Fields) : Coded.Statement (.wseen f) := ⟨rfl, Nat.le_of_ble_eq_true rfl⟩
theorem Coded.wspawn (f : Fields) : Coded.Statement (.wspawn f) := ⟨rfl, Nat.le_of_ble_eq_true rfl⟩
theorem Coded.whop (f : Fields) : Coded.Statement (.whop f) := ⟨rfl, Nat.le_of_ble_eq_true rfl⟩
theorem Coded.wend (f : Fields) : Coded.Statement (.wend f) := ⟨rfl, Nat.le_of_ble_eq_true rfl⟩
theorem Coded.wmovi (f : Fields) : Coded.Statement (.wmovi f) := ⟨rfl, Nat.le_of_ble_eq_true rfl⟩
theorem Coded.wmoviHi (f : Fields) : Coded.Statement (.wmoviHi f) := ⟨rfl, Nat.le_of_ble_eq_true rfl⟩
theorem Coded.wadd (f : Fields) : Coded.Statement (.wadd f) := ⟨rfl, Nat.le_of_ble_eq_true rfl⟩
theorem Coded.wsub (f : Fields) : Coded.Statement (.wsub f) := ⟨rfl, Nat.le_of_ble_eq_true rfl⟩
theorem Coded.wcmp (f : Fields) : Coded.Statement (.wcmp f) := ⟨rfl, Nat.le_of_ble_eq_true rfl⟩
theorem Coded.wcmpF (f : Fields) : Coded.Statement (.wcmpF f) := ⟨rfl, Nat.le_of_ble_eq_true rfl⟩
theorem Coded.wbr (f : Fields) : Coded.Statement (.wbr f) := ⟨rfl, Nat.le_of_ble_eq_true rfl⟩
theorem Coded.wj (f : Fields) : Coded.Statement (.wj f) := ⟨rfl, Nat.le_of_ble_eq_true rfl⟩
theorem Coded.wshr (f : Fields) : Coded.Statement (.wshr f) := ⟨rfl, Nat.le_of_ble_eq_true rfl⟩
theorem Coded.wand (f : Fields) : Coded.Statement (.wand f) := ⟨rfl, Nat.le_of_ble_eq_true rfl⟩
theorem Coded.wld (f : Fields) : Coded.Statement (.wld f) := ⟨rfl, Nat.le_of_ble_eq_true rfl⟩
theorem Coded.wcnt (f : Fields) : Coded.Statement (.wcnt f) := ⟨rfl, Nat.le_of_ble_eq_true rfl⟩
theorem Coded.nbrow (f : Fields) : Coded.Statement (.nbrow f) := ⟨rfl, Nat.le_of_ble_eq_true rfl⟩
theorem Coded.nbscale (f : Fields) : Coded.Statement (.nbscale f) := ⟨rfl, Nat.le_of_ble_eq_true rfl⟩
theorem Coded.nbadd (f : Fields) : Coded.Statement (.nbadd f) := ⟨rfl, Nat.le_of_ble_eq_true rfl⟩
theorem Coded.nbfma (f : Fields) : Coded.Statement (.nbfma f) := ⟨rfl, Nat.le_of_ble_eq_true rfl⟩
theorem Coded.nbst (f : Fields) : Coded.Statement (.nbst f) := ⟨rfl, Nat.le_of_ble_eq_true rfl⟩
theorem Coded.nbloop (f : Fields) : Coded.Statement (.nbloop f) := ⟨rfl, Nat.le_of_ble_eq_true rfl⟩
theorem Coded.nbend (f : Fields) : Coded.Statement (.nbend f) := ⟨rfl, Nat.le_of_ble_eq_true rfl⟩
theorem Coded.nbsig (f : Fields) : Coded.Statement (.nbsig f) := ⟨rfl, Nat.le_of_ble_eq_true rfl⟩
theorem Coded.nbfmt (f : Fields) : Coded.Statement (.nbfmt f) := ⟨rfl, Nat.le_of_ble_eq_true rfl⟩
theorem Coded.nbclr (f : Fields) : Coded.Statement (.nbclr f) := ⟨rfl, Nat.le_of_ble_eq_true rfl⟩
theorem Coded.sealComplete (ctx handle : Nat) : Coded.Statement (.sealComplete ctx handle) := trivial
theorem Coded.memoryResponse (id : Nat) : Coded.Statement (.memoryResponse id) := trivial
theorem Coded.copyEngineFault (cmd : Nat) : Coded.Statement (.copyEngineFault cmd) := trivial
theorem Coded.copyCommandComplete (cmd : Nat) : Coded.Statement (.copyCommandComplete cmd) := trivial
theorem Coded.checkoutPieceGrant (piece : Nat) : Coded.Statement (.checkoutPieceGrant piece) := trivial
theorem Coded.checkinComplete (cmd : Nat) : Coded.Statement (.checkinComplete cmd) := trivial
theorem Coded.streamEntryIssue (warp queue : Nat) : Coded.Statement (.streamEntryIssue warp queue) := trivial
theorem Coded.streamEntryPush (warp queue : Nat) : Coded.Statement (.streamEntryPush warp queue) := trivial
theorem Coded.accessTrapDeliver (warp : Nat) : Coded.Statement (.accessTrapDeliver warp) := trivial
theorem Coded.matrixOpStart (op : Nat) : Coded.Statement (.matrixOpStart op) := trivial
theorem Coded.matrixSecondPass (op : Nat) : Coded.Statement (.matrixSecondPass op) := trivial
theorem Coded.matrixOpComplete (op : Nat) : Coded.Statement (.matrixOpComplete op) := trivial
theorem Coded.scaleRecordFetch (req : Nat) : Coded.Statement (.scaleRecordFetch req) := trivial
theorem Coded.drainComplete (op : Nat) : Coded.Statement (.drainComplete op) := trivial
theorem Coded.engineCompletionDelivery (id : Nat) : Coded.Statement (.engineCompletionDelivery id) := trivial
theorem Coded.growGrant (core quad : Nat) : Coded.Statement (.growGrant core quad) := trivial
theorem Coded.rsvGrant (id : Nat) : Coded.Statement (.rsvGrant id) := trivial
theorem Coded.enqDelivery (id : Nat) : Coded.Statement (.enqDelivery id) := trivial
theorem Coded.queryInstall (query : Nat) : Coded.Statement (.queryInstall query) := trivial
theorem Coded.walkerMessageArrive (msg : Nat) : Coded.Statement (.walkerMessageArrive msg) := trivial
theorem Coded.heapPushArrive (push : Nat) : Coded.Statement (.heapPushArrive push) := trivial
theorem Coded.searchEnd (query : Nat) : Coded.Statement (.searchEnd query) := trivial
theorem Coded.nbInstanceStart (inst : Nat) : Coded.Statement (.nbInstanceStart inst) := trivial
theorem Coded.cellOpAtHome (id : Nat) : Coded.Statement (.cellOpAtHome id) := trivial
theorem Coded.warpEnd (warp : Nat) : Coded.Statement (.warpEnd warp) := trivial
theorem Coded.launchComplete (launch : Nat) : Coded.Statement (.launchComplete launch) := trivial
theorem Coded.recordAccept (queue : Nat) : Coded.Statement (.recordAccept queue) := trivial
theorem Coded.blockDispatch (launch : Nat) : Coded.Statement (.blockDispatch launch) := trivial
theorem Coded.permitGrant (die : Nat) : Coded.Statement (.permitGrant die) := trivial
theorem Coded.doorbellWrite (queue : Nat) (wrc : W64) : Coded.Statement (.doorbellWrite queue wrc) := trivial
theorem Coded.invalidate (ctx : Nat) (arg : BitVec 56) (arg2 : W64) : Coded.Statement (.invalidate ctx arg arg2) := trivial
theorem Coded.faultDone (ctx : Nat) (arg : BitVec 56) (arg2 : W64) : Coded.Statement (.faultDone ctx arg arg2) := trivial
theorem Coded.counterSet (ctx : Nat) (arg : BitVec 56) (arg2 : W64) : Coded.Statement (.counterSet ctx arg arg2) := trivial
theorem Coded.preemptBlock (ctx : Nat) (arg : BitVec 56) (arg2 : W64) : Coded.Statement (.preemptBlock ctx arg arg2) := trivial
theorem Coded.switchOut (ctx : Nat) (arg : BitVec 56) (arg2 : W64) : Coded.Statement (.switchOut ctx arg arg2) := trivial
theorem Coded.switchIn (ctx : Nat) (arg : BitVec 56) (arg2 : W64) : Coded.Statement (.switchIn ctx arg arg2) := trivial
theorem Coded.restartAfterHalt (ctx : Nat) (arg : BitVec 56) (arg2 : W64) : Coded.Statement (.restartAfterHalt ctx arg arg2) := trivial
theorem Coded.bindQueue (ctx : Nat) (arg : BitVec 56) (arg2 : W64) : Coded.Statement (.bindQueue ctx arg arg2) := trivial
theorem Coded.unbindQueue (ctx : Nat) (arg : BitVec 56) (arg2 : W64) : Coded.Statement (.unbindQueue ctx arg arg2) := trivial
theorem Coded.contextMeasurementReport (ctx : Nat) (arg : BitVec 56) (arg2 : W64) : Coded.Statement (.contextMeasurementReport ctx arg arg2) := trivial
theorem Coded.illegalInstruction (word : W96) : Coded.Statement (.illegalInstruction word) := trivial
theorem Coded.lineEntry : Coded.Statement (.lineEntry) := trivial
theorem Coded.compatWritebackCommit : Coded.Statement (.compatWritebackCommit) := trivial
theorem Coded.layoutFillDone : Coded.Statement (.layoutFillDone) := trivial
theorem Coded.fragmentDetach (warp slice : Nat) : Coded.Statement (.fragmentDetach warp slice) := trivial
theorem Coded.agingReserve (launch : Nat) : Coded.Statement (.agingReserve launch) := trivial
theorem Coded.pendingWarpSwap (core quad : Nat) : Coded.Statement (.pendingWarpSwap core quad) := trivial
theorem Coded.growDeadlockDetect (core : Nat) : Coded.Statement (.growDeadlockDetect core) := trivial
theorem Coded.arbitrationWindowExpiry (chan : Nat) : Coded.Statement (.arbitrationWindowExpiry chan) := trivial
theorem Coded.sohornReplayTimeout (port vc : Nat) (seq : Nat) : Coded.Statement (.sohornReplayTimeout port vc seq) := trivial
theorem Coded.kmergeResendTimer (id : Nat) : Coded.Statement (.kmergeResendTimer id) := trivial
theorem Coded.boundBroadcast (query : Nat) : Coded.Statement (.boundBroadcast query) := trivial
theorem Coded.profileChangeEffect (die : Nat) : Coded.Statement (.profileChangeEffect die) := trivial
theorem Coded.matrixResetComplete (pair : Nat) : Coded.Statement (.matrixResetComplete pair) := trivial
theorem Coded.holdingStoreRetry (die set : Nat) : Coded.Statement (.holdingStoreRetry die set) := trivial
theorem Coded.channelAccessServed (chan : Nat) : Coded.Statement (.channelAccessServed chan) := trivial
theorem Coded.rowStepEnd (chan : Nat) : Coded.Statement (.rowStepEnd chan) := trivial
theorem Coded.machineCheck (src : McSource) (pa va : Nat) (who : McConsumer) : Coded.Statement (.machineCheck src pa va who) := trivial
theorem Coded.governorRedistribute (die mhz : Nat) : Coded.Statement (.governorRedistribute die mhz) := trivial
theorem Coded.dieTemperatureThreshold (die celsius : Nat) : Coded.Statement (.dieTemperatureThreshold die celsius) := trivial
theorem Coded.overtempReset : Coded.Statement (.overtempReset) := trivial
theorem Coded.watchdogReset (pair : Nat) : Coded.Statement (.watchdogReset pair) := trivial
theorem Coded.hostRdmaWrite (qp : Nat) (key : W32) (va : W64) (bytes : List Byte) : Coded.Statement (.hostRdmaWrite qp key va bytes) := trivial
theorem Coded.hostRdmaRead (qp : Nat) (key : W32) (va : W64) (len : Nat) : Coded.Statement (.hostRdmaRead qp key va len) := trivial
theorem Coded.hostRdmaAtomic (qp : Nat) (key : W32) (va : W64) : Coded.Statement (.hostRdmaAtomic qp key va) := trivial
theorem Coded.congestionNotification (qp : Nat) : Coded.Statement (.congestionNotification qp) := trivial
theorem Coded.readRegister (q : MgmtReq) : Coded.Statement (.readRegister q) := trivial
theorem Coded.writeRegister (q : MgmtReq) : Coded.Statement (.writeRegister q) := trivial
theorem Coded.lgrpWrite (q : MgmtReq) : Coded.Statement (.lgrpWrite q) := trivial
theorem Coded.lgrpstatWrite (q : MgmtReq) : Coded.Statement (.lgrpstatWrite q) := trivial
theorem Coded.profileWrite (q : MgmtReq) : Coded.Statement (.profileWrite q) := trivial
theorem Coded.treeWrite (q : MgmtReq) : Coded.Statement (.treeWrite q) := trivial
theorem Coded.createContext (q : MgmtReq) : Coded.Statement (.createContext q) := trivial
theorem Coded.destroyContext (q : MgmtReq) : Coded.Statement (.destroyContext q) := trivial
theorem Coded.registerMemoryKey (q : MgmtReq) : Coded.Statement (.registerMemoryKey q) := trivial
theorem Coded.revokeMemoryKey (q : MgmtReq) : Coded.Statement (.revokeMemoryKey q) := trivial
theorem Coded.registerCellGranule (q : MgmtReq) : Coded.Statement (.registerCellGranule q) := trivial
theorem Coded.unregisterCellGranule (q : MgmtReq) : Coded.Statement (.unregisterCellGranule q) := trivial
theorem Coded.measurementReport (q : MgmtReq) : Coded.Statement (.measurementReport q) := trivial
theorem Coded.setOperatorKey (q : MgmtReq) : Coded.Statement (.setOperatorKey q) := trivial
theorem Coded.resetMatrixEngine (q : MgmtReq) : Coded.Statement (.resetMatrixEngine q) := trivial
theorem Coded.managementConnect (conn : Nat) (certDigest : Option Digest) : Coded.Statement (.managementConnect conn certDigest) := trivial
theorem Coded.deviceBoot (images : List BootImage) : Coded.Statement (.deviceBoot images) := trivial
theorem Coded.peerRequestArrive (q : PeerReq) : Coded.Statement (.peerRequestArrive q) := trivial
theorem Coded.peerResponseArrive (id : Nat) (ok : Bool) (data : List Byte) : Coded.Statement (.peerResponseArrive id ok data) := trivial
theorem Coded.remoteEnqueueArrive (peer id desc : Nat) (ack : Bool) (msg : List Byte) : Coded.Statement (.remoteEnqueueArrive peer id desc ack msg) := trivial
theorem Coded.remoteReservationArrive (peer id desc n : Nat) (nowait : PeerReserve) : Coded.Statement (.remoteReservationArrive peer id desc n nowait) := trivial
theorem Coded.kmergeContributionArrive (k : Contribution) : Coded.Statement (.kmergeContributionArrive k) := trivial
theorem Coded.sohornAck (port vc : Nat) (upTo : Nat) : Coded.Statement (.sohornAck port vc upTo) := trivial
theorem Coded.sohornNak (port vc : Nat) (first : Nat) : Coded.Statement (.sohornNak port vc first) := trivial
theorem Coded.peerAckTimeout (peer : Nat) : Coded.Statement (.peerAckTimeout peer) := trivial
theorem Coded.unknownOp (q : MgmtReq) : Coded.Statement (.unknownOp q) := trivial
theorem Coded.priorityFlowControlPause (port prio : Nat) (pause : Bool) : Coded.Statement (.priorityFlowControlPause port prio pause) := trivial
theorem Coded.creditReturn (port vc n : Nat) : Coded.Statement (.creditReturn port vc n) := trivial
theorem Coded.channelAccessArrive (chan pa : Nat) : Coded.Statement (.channelAccessArrive chan pa) := trivial

end Sys2Proof.Laws
end

