-- ==== Sys2Proof/Laws/State.lean ====
section
/-! SUPPORT. What each update of the state leaves: one equation for each field. -/

namespace Sys2Proof.Laws

open Machine

/-! ### setWarp -/

variable (s : State) (w : Warp)

@[simp] theorem setWarp_mem : (setWarp s w).mem = s.mem := rfl
@[simp] theorem setWarp_stale : (setWarp s w).stale = s.stale := rfl
@[simp] theorem setWarp_llc : (setWarp s w).llc = s.llc := rfl
@[simp] theorem setWarp_mdc : (setWarp s w).mdc = s.mdc := rfl
@[simp] theorem setWarp_poison : (setWarp s w).poison = s.poison := rfl
@[simp] theorem setWarp_lgrp : (setWarp s w).lgrp = s.lgrp := rfl
@[simp] theorem setWarp_fillQueue : (setWarp s w).fillQueue = s.fillQueue := rfl
@[simp] theorem setWarp_filled : (setWarp s w).filled = s.filled := rfl
@[simp] theorem setWarp_mderr : (setWarp s w).mderr = s.mderr := rfl
@[simp] theorem setWarp_busygOpen : (setWarp s w).busygOpen = s.busygOpen := rfl
@[simp] theorem setWarp_counts : (setWarp s w).counts = s.counts := rfl
@[simp] theorem setWarp_commits : (setWarp s w).commits = s.commits := rfl
@[simp] theorem setWarp_granules : (setWarp s w).granules = s.granules := rfl
@[simp] theorem setWarp_cells : (setWarp s w).cells = s.cells := rfl
@[simp] theorem setWarp_pieces : (setWarp s w).pieces = s.pieces := rfl
@[simp] theorem setWarp_nbarb : (setWarp s w).nbarb = s.nbarb := rfl
@[simp] theorem setWarp_chans : (setWarp s w).chans = s.chans := rfl
@[simp] theorem setWarp_l1 : (setWarp s w).l1 = s.l1 := rfl
@[simp] theorem setWarp_l2 : (setWarp s w).l2 = s.l2 := rfl
@[simp] theorem setWarp_fillNo : (setWarp s w).fillNo = s.fillNo := rfl
@[simp] theorem setWarp_acq : (setWarp s w).acq = s.acq := rfl
@[simp] theorem setWarp_hb : (setWarp s w).hb = s.hb := rfl
@[simp] theorem setWarp_rels : (setWarp s w).rels = s.rels := rfl
@[simp] theorem setWarp_owed : (setWarp s w).owed = s.owed := rfl
@[simp] theorem setWarp_spadRel : (setWarp s w).spadRel = s.spadRel := rfl
@[simp] theorem setWarp_spadSeen : (setWarp s w).spadSeen = s.spadSeen := rfl
@[simp] theorem setWarp_cellCopies : (setWarp s w).cellCopies = s.cellCopies := rfl
@[simp] theorem setWarp_rtn : (setWarp s w).rtn = s.rtn := rfl
@[simp] theorem setWarp_l2cnt : (setWarp s w).l2cnt = s.l2cnt := rfl
@[simp] theorem setWarp_quadTlb : (setWarp s w).quadTlb = s.quadTlb := rfl
@[simp] theorem setWarp_coreTlb : (setWarp s w).coreTlb = s.coreTlb := rfl
@[simp] theorem setWarp_walkCache : (setWarp s w).walkCache = s.walkCache := rfl
@[simp] theorem setWarp_fused : (setWarp s w).fused = s.fused := rfl
@[simp] theorem setWarp_fbuf : (setWarp s w).fbuf = s.fbuf := rfl
@[simp] theorem setWarp_ctxs : (setWarp s w).ctxs = s.ctxs := rfl
@[simp] theorem setWarp_counters : (setWarp s w).counters = s.counters := rfl
@[simp] theorem setWarp_keys : (setWarp s w).keys = s.keys := rfl
@[simp] theorem setWarp_queues : (setWarp s w).queues = s.queues := rfl
@[simp] theorem setWarp_launches : (setWarp s w).launches = s.launches := rfl
@[simp] theorem setWarp_blocks : (setWarp s w).blocks = s.blocks := rfl
@[simp] theorem setWarp_bars : (setWarp s w).bars = s.bars := rfl
@[simp] theorem setWarp_deliveries : (setWarp s w).deliveries = s.deliveries := rfl
@[simp] theorem setWarp_prevPlace : (setWarp s w).prevPlace = s.prevPlace := rfl
@[simp] theorem setWarp_prioShift : (setWarp s w).prioShift = s.prioShift := rfl
@[simp] theorem setWarp_dlres : (setWarp s w).dlres = s.dlres := rfl
@[simp] theorem setWarp_dlscr : (setWarp s w).dlscr = s.dlscr := rfl
@[simp] theorem setWarp_warps : (setWarp s w).warps = updWhere (·.id == w.id) (fun _ => w) s.warps := rfl
@[simp] theorem setWarp_growWait : (setWarp s w).growWait = s.growWait := rfl
@[simp] theorem setWarp_growClk : (setWarp s w).growClk = s.growClk := rfl
@[simp] theorem setWarp_accTurn : (setWarp s w).accTurn = s.accTurn := rfl
@[simp] theorem setWarp_strTurn : (setWarp s w).strTurn = s.strTurn := rfl
@[simp] theorem setWarp_outs : (setWarp s w).outs = s.outs := rfl
@[simp] theorem setWarp_cellOps : (setWarp s w).cellOps = s.cellOps := rfl
@[simp] theorem setWarp_lfsr : (setWarp s w).lfsr = s.lfsr := rfl
@[simp] theorem setWarp_scale : (setWarp s w).scale = s.scale := rfl
@[simp] theorem setWarp_scaleReqs : (setWarp s w).scaleReqs = s.scaleReqs := rfl
@[simp] theorem setWarp_z : (setWarp s w).z = s.z := rfl
@[simp] theorem setWarp_pairs : (setWarp s w).pairs = s.pairs := rfl
@[simp] theorem setWarp_savedPairs : (setWarp s w).savedPairs = s.savedPairs := rfl
@[simp] theorem setWarp_ops : (setWarp s w).ops = s.ops := rfl
@[simp] theorem setWarp_cmds : (setWarp s w).cmds = s.cmds := rfl
@[simp] theorem setWarp_nbcmds : (setWarp s w).nbcmds = s.nbcmds := rfl
@[simp] theorem setWarp_insts : (setWarp s w).insts = s.insts := rfl
@[simp] theorem setWarp_queries : (setWarp s w).queries = s.queries := rfl
@[simp] theorem setWarp_walkers : (setWarp s w).walkers = s.walkers := rfl
@[simp] theorem setWarp_msgs : (setWarp s w).msgs = s.msgs := rfl
@[simp] theorem setWarp_pushes : (setWarp s w).pushes = s.pushes := rfl
@[simp] theorem setWarp_sets : (setWarp s w).sets = s.sets := rfl
@[simp] theorem setWarp_held : (setWarp s w).held = s.held := rfl
@[simp] theorem setWarp_retries : (setWarp s w).retries = s.retries := rfl
@[simp] theorem setWarp_mqStopped : (setWarp s w).mqStopped = s.mqStopped := rfl
@[simp] theorem setWarp_queueLeft : (setWarp s w).queueLeft = s.queueLeft := rfl
@[simp] theorem setWarp_rsvWaits : (setWarp s w).rsvWaits = s.rsvWaits := rfl
@[simp] theorem setWarp_packets : (setWarp s w).packets = s.packets := rfl
@[simp] theorem setWarp_kmcmds : (setWarp s w).kmcmds = s.kmcmds := rfl
@[simp] theorem setWarp_kmflight : (setWarp s w).kmflight = s.kmflight := rfl
@[simp] theorem setWarp_trees : (setWarp s w).trees = s.trees := rfl
@[simp] theorem setWarp_rounds : (setWarp s w).rounds = s.rounds := rfl
@[simp] theorem setWarp_resends : (setWarp s w).resends = s.resends := rfl
@[simp] theorem setWarp_peers : (setWarp s w).peers = s.peers := rfl
@[simp] theorem setWarp_silent : (setWarp s w).silent = s.silent := rfl
@[simp] theorem setWarp_peerOuts : (setWarp s w).peerOuts = s.peerOuts := rfl
@[simp] theorem setWarp_unitGot : (setWarp s w).unitGot = s.unitGot := rfl
@[simp] theorem setWarp_hops : (setWarp s w).hops = s.hops := rfl
@[simp] theorem setWarp_fabpfx : (setWarp s w).fabpfx = s.fabpfx := rfl
@[simp] theorem setWarp_fabcfg : (setWarp s w).fabcfg = s.fabcfg := rfl
@[simp] theorem setWarp_dies : (setWarp s w).dies = s.dies := rfl
@[simp] theorem setWarp_profile : (setWarp s w).profile = s.profile := rfl
@[simp] theorem setWarp_mr : (setWarp s w).mr = s.mr := rfl
@[simp] theorem setWarp_recovery : (setWarp s w).recovery = s.recovery := rfl
@[simp] theorem setWarp_boots : (setWarp s w).boots = s.boots := rfl
@[simp] theorem setWarp_reports : (setWarp s w).reports = s.reports := rfl
@[simp] theorem setWarp_opKey : (setWarp s w).opKey = s.opKey := rfl
@[simp] theorem setWarp_conns : (setWarp s w).conns = s.conns := rfl
@[simp] theorem setWarp_paused : (setWarp s w).paused = s.paused := rfl
@[simp] theorem setWarp_rates : (setWarp s w).rates = s.rates := rfl
@[simp] theorem setWarp_now : (setWarp s w).now = s.now := rfl
@[simp] theorem setWarp_clk : (setWarp s w).clk = s.clk := rfl
@[simp] theorem setWarp_coreClk : (setWarp s w).coreClk = s.coreClk := rfl
@[simp] theorem setWarp_inputs : (setWarp s w).inputs = s.inputs := rfl
@[simp] theorem setWarp_out : (setWarp s w).out = s.out := rfl
@[simp] theorem setWarp_deferred : (setWarp s w).deferred = s.deferred := rfl
@[simp] theorem setWarp_cur : (setWarp s w).cur = s.cur := rfl
@[simp] theorem setWarp_last : (setWarp s w).last = s.last := rfl
@[simp] theorem setWarp_view : (setWarp s w).view = s.view := rfl
@[simp] theorem setWarp_popped : (setWarp s w).popped = s.popped := rfl
@[simp] theorem setWarp_nextId : (setWarp s w).nextId = s.nextId := rfl
@[simp] theorem setWarp_free : (setWarp s w).free = s.free := rfl
@[simp] theorem setWarp_choice : (setWarp s w).choice = s.choice := rfl

/-! ### setBlock -/

variable (b : Block)

@[simp] theorem setBlock_mem : (setBlock s b).mem = s.mem := rfl
@[simp] theorem setBlock_stale : (setBlock s b).stale = s.stale := rfl
@[simp] theorem setBlock_llc : (setBlock s b).llc = s.llc := rfl
@[simp] theorem setBlock_mdc : (setBlock s b).mdc = s.mdc := rfl
@[simp] theorem setBlock_poison : (setBlock s b).poison = s.poison := rfl
@[simp] theorem setBlock_lgrp : (setBlock s b).lgrp = s.lgrp := rfl
@[simp] theorem setBlock_fillQueue : (setBlock s b).fillQueue = s.fillQueue := rfl
@[simp] theorem setBlock_filled : (setBlock s b).filled = s.filled := rfl
@[simp] theorem setBlock_mderr : (setBlock s b).mderr = s.mderr := rfl
@[simp] theorem setBlock_busygOpen : (setBlock s b).busygOpen = s.busygOpen := rfl
@[simp] theorem setBlock_counts : (setBlock s b).counts = s.counts := rfl
@[simp] theorem setBlock_commits : (setBlock s b).commits = s.commits := rfl
@[simp] theorem setBlock_granules : (setBlock s b).granules = s.granules := rfl
@[simp] theorem setBlock_cells : (setBlock s b).cells = s.cells := rfl
@[simp] theorem setBlock_pieces : (setBlock s b).pieces = s.pieces := rfl
@[simp] theorem setBlock_nbarb : (setBlock s b).nbarb = s.nbarb := rfl
@[simp] theorem setBlock_chans : (setBlock s b).chans = s.chans := rfl
@[simp] theorem setBlock_l1 : (setBlock s b).l1 = s.l1 := rfl
@[simp] theorem setBlock_l2 : (setBlock s b).l2 = s.l2 := rfl
@[simp] theorem setBlock_fillNo : (setBlock s b).fillNo = s.fillNo := rfl
@[simp] theorem setBlock_acq : (setBlock s b).acq = s.acq := rfl
@[simp] theorem setBlock_hb : (setBlock s b).hb = s.hb := rfl
@[simp] theorem setBlock_rels : (setBlock s b).rels = s.rels := rfl
@[simp] theorem setBlock_owed : (setBlock s b).owed = s.owed := rfl
@[simp] theorem setBlock_spadRel : (setBlock s b).spadRel = s.spadRel := rfl
@[simp] theorem setBlock_spadSeen : (setBlock s b).spadSeen = s.spadSeen := rfl
@[simp] theorem setBlock_cellCopies : (setBlock s b).cellCopies = s.cellCopies := rfl
@[simp] theorem setBlock_rtn : (setBlock s b).rtn = s.rtn := rfl
@[simp] theorem setBlock_l2cnt : (setBlock s b).l2cnt = s.l2cnt := rfl
@[simp] theorem setBlock_quadTlb : (setBlock s b).quadTlb = s.quadTlb := rfl
@[simp] theorem setBlock_coreTlb : (setBlock s b).coreTlb = s.coreTlb := rfl
@[simp] theorem setBlock_walkCache : (setBlock s b).walkCache = s.walkCache := rfl
@[simp] theorem setBlock_fused : (setBlock s b).fused = s.fused := rfl
@[simp] theorem setBlock_fbuf : (setBlock s b).fbuf = s.fbuf := rfl
@[simp] theorem setBlock_ctxs : (setBlock s b).ctxs = s.ctxs := rfl
@[simp] theorem setBlock_counters : (setBlock s b).counters = s.counters := rfl
@[simp] theorem setBlock_keys : (setBlock s b).keys = s.keys := rfl
@[simp] theorem setBlock_queues : (setBlock s b).queues = s.queues := rfl
@[simp] theorem setBlock_launches : (setBlock s b).launches = s.launches := rfl
@[simp] theorem setBlock_blocks : (setBlock s b).blocks = updWhere (·.id == b.id) (fun _ => b) s.blocks := rfl
@[simp] theorem setBlock_bars : (setBlock s b).bars = s.bars := rfl
@[simp] theorem setBlock_deliveries : (setBlock s b).deliveries = s.deliveries := rfl
@[simp] theorem setBlock_prevPlace : (setBlock s b).prevPlace = s.prevPlace := rfl
@[simp] theorem setBlock_prioShift : (setBlock s b).prioShift = s.prioShift := rfl
@[simp] theorem setBlock_dlres : (setBlock s b).dlres = s.dlres := rfl
@[simp] theorem setBlock_dlscr : (setBlock s b).dlscr = s.dlscr := rfl
@[simp] theorem setBlock_warps : (setBlock s b).warps = s.warps := rfl
@[simp] theorem setBlock_growWait : (setBlock s b).growWait = s.growWait := rfl
@[simp] theorem setBlock_growClk : (setBlock s b).growClk = s.growClk := rfl
@[simp] theorem setBlock_accTurn : (setBlock s b).accTurn = s.accTurn := rfl
@[simp] theorem setBlock_strTurn : (setBlock s b).strTurn = s.strTurn := rfl
@[simp] theorem setBlock_outs : (setBlock s b).outs = s.outs := rfl
@[simp] theorem setBlock_cellOps : (setBlock s b).cellOps = s.cellOps := rfl
@[simp] theorem setBlock_lfsr : (setBlock s b).lfsr = s.lfsr := rfl
@[simp] theorem setBlock_scale : (setBlock s b).scale = s.scale := rfl
@[simp] theorem setBlock_scaleReqs : (setBlock s b).scaleReqs = s.scaleReqs := rfl
@[simp] theorem setBlock_z : (setBlock s b).z = s.z := rfl
@[simp] theorem setBlock_pairs : (setBlock s b).pairs = s.pairs := rfl
@[simp] theorem setBlock_savedPairs : (setBlock s b).savedPairs = s.savedPairs := rfl
@[simp] theorem setBlock_ops : (setBlock s b).ops = s.ops := rfl
@[simp] theorem setBlock_cmds : (setBlock s b).cmds = s.cmds := rfl
@[simp] theorem setBlock_nbcmds : (setBlock s b).nbcmds = s.nbcmds := rfl
@[simp] theorem setBlock_insts : (setBlock s b).insts = s.insts := rfl
@[simp] theorem setBlock_queries : (setBlock s b).queries = s.queries := rfl
@[simp] theorem setBlock_walkers : (setBlock s b).walkers = s.walkers := rfl
@[simp] theorem setBlock_msgs : (setBlock s b).msgs = s.msgs := rfl
@[simp] theorem setBlock_pushes : (setBlock s b).pushes = s.pushes := rfl
@[simp] theorem setBlock_sets : (setBlock s b).sets = s.sets := rfl
@[simp] theorem setBlock_held : (setBlock s b).held = s.held := rfl
@[simp] theorem setBlock_retries : (setBlock s b).retries = s.retries := rfl
@[simp] theorem setBlock_mqStopped : (setBlock s b).mqStopped = s.mqStopped := rfl
@[simp] theorem setBlock_queueLeft : (setBlock s b).queueLeft = s.queueLeft := rfl
@[simp] theorem setBlock_rsvWaits : (setBlock s b).rsvWaits = s.rsvWaits := rfl
@[simp] theorem setBlock_packets : (setBlock s b).packets = s.packets := rfl
@[simp] theorem setBlock_kmcmds : (setBlock s b).kmcmds = s.kmcmds := rfl
@[simp] theorem setBlock_kmflight : (setBlock s b).kmflight = s.kmflight := rfl
@[simp] theorem setBlock_trees : (setBlock s b).trees = s.trees := rfl
@[simp] theorem setBlock_rounds : (setBlock s b).rounds = s.rounds := rfl
@[simp] theorem setBlock_resends : (setBlock s b).resends = s.resends := rfl
@[simp] theorem setBlock_peers : (setBlock s b).peers = s.peers := rfl
@[simp] theorem setBlock_silent : (setBlock s b).silent = s.silent := rfl
@[simp] theorem setBlock_peerOuts : (setBlock s b).peerOuts = s.peerOuts := rfl
@[simp] theorem setBlock_unitGot : (setBlock s b).unitGot = s.unitGot := rfl
@[simp] theorem setBlock_hops : (setBlock s b).hops = s.hops := rfl
@[simp] theorem setBlock_fabpfx : (setBlock s b).fabpfx = s.fabpfx := rfl
@[simp] theorem setBlock_fabcfg : (setBlock s b).fabcfg = s.fabcfg := rfl
@[simp] theorem setBlock_dies : (setBlock s b).dies = s.dies := rfl
@[simp] theorem setBlock_profile : (setBlock s b).profile = s.profile := rfl
@[simp] theorem setBlock_mr : (setBlock s b).mr = s.mr := rfl
@[simp] theorem setBlock_recovery : (setBlock s b).recovery = s.recovery := rfl
@[simp] theorem setBlock_boots : (setBlock s b).boots = s.boots := rfl
@[simp] theorem setBlock_reports : (setBlock s b).reports = s.reports := rfl
@[simp] theorem setBlock_opKey : (setBlock s b).opKey = s.opKey := rfl
@[simp] theorem setBlock_conns : (setBlock s b).conns = s.conns := rfl
@[simp] theorem setBlock_paused : (setBlock s b).paused = s.paused := rfl
@[simp] theorem setBlock_rates : (setBlock s b).rates = s.rates := rfl
@[simp] theorem setBlock_now : (setBlock s b).now = s.now := rfl
@[simp] theorem setBlock_clk : (setBlock s b).clk = s.clk := rfl
@[simp] theorem setBlock_coreClk : (setBlock s b).coreClk = s.coreClk := rfl
@[simp] theorem setBlock_inputs : (setBlock s b).inputs = s.inputs := rfl
@[simp] theorem setBlock_out : (setBlock s b).out = s.out := rfl
@[simp] theorem setBlock_deferred : (setBlock s b).deferred = s.deferred := rfl
@[simp] theorem setBlock_cur : (setBlock s b).cur = s.cur := rfl
@[simp] theorem setBlock_last : (setBlock s b).last = s.last := rfl
@[simp] theorem setBlock_view : (setBlock s b).view = s.view := rfl
@[simp] theorem setBlock_popped : (setBlock s b).popped = s.popped := rfl
@[simp] theorem setBlock_nextId : (setBlock s b).nextId = s.nextId := rfl
@[simp] theorem setBlock_free : (setBlock s b).free = s.free := rfl
@[simp] theorem setBlock_choice : (setBlock s b).choice = s.choice := rfl

/-! ### setLaunch -/

variable (l : Launch)

@[simp] theorem setLaunch_mem : (setLaunch s l).mem = s.mem := rfl
@[simp] theorem setLaunch_stale : (setLaunch s l).stale = s.stale := rfl
@[simp] theorem setLaunch_llc : (setLaunch s l).llc = s.llc := rfl
@[simp] theorem setLaunch_mdc : (setLaunch s l).mdc = s.mdc := rfl
@[simp] theorem setLaunch_poison : (setLaunch s l).poison = s.poison := rfl
@[simp] theorem setLaunch_lgrp : (setLaunch s l).lgrp = s.lgrp := rfl
@[simp] theorem setLaunch_fillQueue : (setLaunch s l).fillQueue = s.fillQueue := rfl
@[simp] theorem setLaunch_filled : (setLaunch s l).filled = s.filled := rfl
@[simp] theorem setLaunch_mderr : (setLaunch s l).mderr = s.mderr := rfl
@[simp] theorem setLaunch_busygOpen : (setLaunch s l).busygOpen = s.busygOpen := rfl
@[simp] theorem setLaunch_counts : (setLaunch s l).counts = s.counts := rfl
@[simp] theorem setLaunch_commits : (setLaunch s l).commits = s.commits := rfl
@[simp] theorem setLaunch_granules : (setLaunch s l).granules = s.granules := rfl
@[simp] theorem setLaunch_cells : (setLaunch s l).cells = s.cells := rfl
@[simp] theorem setLaunch_pieces : (setLaunch s l).pieces = s.pieces := rfl
@[simp] theorem setLaunch_nbarb : (setLaunch s l).nbarb = s.nbarb := rfl
@[simp] theorem setLaunch_chans : (setLaunch s l).chans = s.chans := rfl
@[simp] theorem setLaunch_l1 : (setLaunch s l).l1 = s.l1 := rfl
@[simp] theorem setLaunch_l2 : (setLaunch s l).l2 = s.l2 := rfl
@[simp] theorem setLaunch_fillNo : (setLaunch s l).fillNo = s.fillNo := rfl
@[simp] theorem setLaunch_acq : (setLaunch s l).acq = s.acq := rfl
@[simp] theorem setLaunch_hb : (setLaunch s l).hb = s.hb := rfl
@[simp] theorem setLaunch_rels : (setLaunch s l).rels = s.rels := rfl
@[simp] theorem setLaunch_owed : (setLaunch s l).owed = s.owed := rfl
@[simp] theorem setLaunch_spadRel : (setLaunch s l).spadRel = s.spadRel := rfl
@[simp] theorem setLaunch_spadSeen : (setLaunch s l).spadSeen = s.spadSeen := rfl
@[simp] theorem setLaunch_cellCopies : (setLaunch s l).cellCopies = s.cellCopies := rfl
@[simp] theorem setLaunch_rtn : (setLaunch s l).rtn = s.rtn := rfl
@[simp] theorem setLaunch_l2cnt : (setLaunch s l).l2cnt = s.l2cnt := rfl
@[simp] theorem setLaunch_quadTlb : (setLaunch s l).quadTlb = s.quadTlb := rfl
@[simp] theorem setLaunch_coreTlb : (setLaunch s l).coreTlb = s.coreTlb := rfl
@[simp] theorem setLaunch_walkCache : (setLaunch s l).walkCache = s.walkCache := rfl
@[simp] theorem setLaunch_fused : (setLaunch s l).fused = s.fused := rfl
@[simp] theorem setLaunch_fbuf : (setLaunch s l).fbuf = s.fbuf := rfl
@[simp] theorem setLaunch_ctxs : (setLaunch s l).ctxs = s.ctxs := rfl
@[simp] theorem setLaunch_counters : (setLaunch s l).counters = s.counters := rfl
@[simp] theorem setLaunch_keys : (setLaunch s l).keys = s.keys := rfl
@[simp] theorem setLaunch_queues : (setLaunch s l).queues = s.queues := rfl
@[simp] theorem setLaunch_launches : (setLaunch s l).launches = updWhere (·.id == l.id) (fun _ => l) s.launches := rfl
@[simp] theorem setLaunch_blocks : (setLaunch s l).blocks = s.blocks := rfl
@[simp] theorem setLaunch_bars : (setLaunch s l).bars = s.bars := rfl
@[simp] theorem setLaunch_deliveries : (setLaunch s l).deliveries = s.deliveries := rfl
@[simp] theorem setLaunch_prevPlace : (setLaunch s l).prevPlace = s.prevPlace := rfl
@[simp] theorem setLaunch_prioShift : (setLaunch s l).prioShift = s.prioShift := rfl
@[simp] theorem setLaunch_dlres : (setLaunch s l).dlres = s.dlres := rfl
@[simp] theorem setLaunch_dlscr : (setLaunch s l).dlscr = s.dlscr := rfl
@[simp] theorem setLaunch_warps : (setLaunch s l).warps = s.warps := rfl
@[simp] theorem setLaunch_growWait : (setLaunch s l).growWait = s.growWait := rfl
@[simp] theorem setLaunch_growClk : (setLaunch s l).growClk = s.growClk := rfl
@[simp] theorem setLaunch_accTurn : (setLaunch s l).accTurn = s.accTurn := rfl
@[simp] theorem setLaunch_strTurn : (setLaunch s l).strTurn = s.strTurn := rfl
@[simp] theorem setLaunch_outs : (setLaunch s l).outs = s.outs := rfl
@[simp] theorem setLaunch_cellOps : (setLaunch s l).cellOps = s.cellOps := rfl
@[simp] theorem setLaunch_lfsr : (setLaunch s l).lfsr = s.lfsr := rfl
@[simp] theorem setLaunch_scale : (setLaunch s l).scale = s.scale := rfl
@[simp] theorem setLaunch_scaleReqs : (setLaunch s l).scaleReqs = s.scaleReqs := rfl
@[simp] theorem setLaunch_z : (setLaunch s l).z = s.z := rfl
@[simp] theorem setLaunch_pairs : (setLaunch s l).pairs = s.pairs := rfl
@[simp] theorem setLaunch_savedPairs : (setLaunch s l).savedPairs = s.savedPairs := rfl
@[simp] theorem setLaunch_ops : (setLaunch s l).ops = s.ops := rfl
@[simp] theorem setLaunch_cmds : (setLaunch s l).cmds = s.cmds := rfl
@[simp] theorem setLaunch_nbcmds : (setLaunch s l).nbcmds = s.nbcmds := rfl
@[simp] theorem setLaunch_insts : (setLaunch s l).insts = s.insts := rfl
@[simp] theorem setLaunch_queries : (setLaunch s l).queries = s.queries := rfl
@[simp] theorem setLaunch_walkers : (setLaunch s l).walkers = s.walkers := rfl
@[simp] theorem setLaunch_msgs : (setLaunch s l).msgs = s.msgs := rfl
@[simp] theorem setLaunch_pushes : (setLaunch s l).pushes = s.pushes := rfl
@[simp] theorem setLaunch_sets : (setLaunch s l).sets = s.sets := rfl
@[simp] theorem setLaunch_held : (setLaunch s l).held = s.held := rfl
@[simp] theorem setLaunch_retries : (setLaunch s l).retries = s.retries := rfl
@[simp] theorem setLaunch_mqStopped : (setLaunch s l).mqStopped = s.mqStopped := rfl
@[simp] theorem setLaunch_queueLeft : (setLaunch s l).queueLeft = s.queueLeft := rfl
@[simp] theorem setLaunch_rsvWaits : (setLaunch s l).rsvWaits = s.rsvWaits := rfl
@[simp] theorem setLaunch_packets : (setLaunch s l).packets = s.packets := rfl
@[simp] theorem setLaunch_kmcmds : (setLaunch s l).kmcmds = s.kmcmds := rfl
@[simp] theorem setLaunch_kmflight : (setLaunch s l).kmflight = s.kmflight := rfl
@[simp] theorem setLaunch_trees : (setLaunch s l).trees = s.trees := rfl
@[simp] theorem setLaunch_rounds : (setLaunch s l).rounds = s.rounds := rfl
@[simp] theorem setLaunch_resends : (setLaunch s l).resends = s.resends := rfl
@[simp] theorem setLaunch_peers : (setLaunch s l).peers = s.peers := rfl
@[simp] theorem setLaunch_silent : (setLaunch s l).silent = s.silent := rfl
@[simp] theorem setLaunch_peerOuts : (setLaunch s l).peerOuts = s.peerOuts := rfl
@[simp] theorem setLaunch_unitGot : (setLaunch s l).unitGot = s.unitGot := rfl
@[simp] theorem setLaunch_hops : (setLaunch s l).hops = s.hops := rfl
@[simp] theorem setLaunch_fabpfx : (setLaunch s l).fabpfx = s.fabpfx := rfl
@[simp] theorem setLaunch_fabcfg : (setLaunch s l).fabcfg = s.fabcfg := rfl
@[simp] theorem setLaunch_dies : (setLaunch s l).dies = s.dies := rfl
@[simp] theorem setLaunch_profile : (setLaunch s l).profile = s.profile := rfl
@[simp] theorem setLaunch_mr : (setLaunch s l).mr = s.mr := rfl
@[simp] theorem setLaunch_recovery : (setLaunch s l).recovery = s.recovery := rfl
@[simp] theorem setLaunch_boots : (setLaunch s l).boots = s.boots := rfl
@[simp] theorem setLaunch_reports : (setLaunch s l).reports = s.reports := rfl
@[simp] theorem setLaunch_opKey : (setLaunch s l).opKey = s.opKey := rfl
@[simp] theorem setLaunch_conns : (setLaunch s l).conns = s.conns := rfl
@[simp] theorem setLaunch_paused : (setLaunch s l).paused = s.paused := rfl
@[simp] theorem setLaunch_rates : (setLaunch s l).rates = s.rates := rfl
@[simp] theorem setLaunch_now : (setLaunch s l).now = s.now := rfl
@[simp] theorem setLaunch_clk : (setLaunch s l).clk = s.clk := rfl
@[simp] theorem setLaunch_coreClk : (setLaunch s l).coreClk = s.coreClk := rfl
@[simp] theorem setLaunch_inputs : (setLaunch s l).inputs = s.inputs := rfl
@[simp] theorem setLaunch_out : (setLaunch s l).out = s.out := rfl
@[simp] theorem setLaunch_deferred : (setLaunch s l).deferred = s.deferred := rfl
@[simp] theorem setLaunch_cur : (setLaunch s l).cur = s.cur := rfl
@[simp] theorem setLaunch_last : (setLaunch s l).last = s.last := rfl
@[simp] theorem setLaunch_view : (setLaunch s l).view = s.view := rfl
@[simp] theorem setLaunch_popped : (setLaunch s l).popped = s.popped := rfl
@[simp] theorem setLaunch_nextId : (setLaunch s l).nextId = s.nextId := rfl
@[simp] theorem setLaunch_free : (setLaunch s l).free = s.free := rfl
@[simp] theorem setLaunch_choice : (setLaunch s l).choice = s.choice := rfl

/-! ### setCtx -/

variable (c : Ctx)

@[simp] theorem setCtx_mem : (setCtx s c).mem = s.mem := rfl
@[simp] theorem setCtx_stale : (setCtx s c).stale = s.stale := rfl
@[simp] theorem setCtx_llc : (setCtx s c).llc = s.llc := rfl
@[simp] theorem setCtx_mdc : (setCtx s c).mdc = s.mdc := rfl
@[simp] theorem setCtx_poison : (setCtx s c).poison = s.poison := rfl
@[simp] theorem setCtx_lgrp : (setCtx s c).lgrp = s.lgrp := rfl
@[simp] theorem setCtx_fillQueue : (setCtx s c).fillQueue = s.fillQueue := rfl
@[simp] theorem setCtx_filled : (setCtx s c).filled = s.filled := rfl
@[simp] theorem setCtx_mderr : (setCtx s c).mderr = s.mderr := rfl
@[simp] theorem setCtx_busygOpen : (setCtx s c).busygOpen = s.busygOpen := rfl
@[simp] theorem setCtx_counts : (setCtx s c).counts = s.counts := rfl
@[simp] theorem setCtx_commits : (setCtx s c).commits = s.commits := rfl
@[simp] theorem setCtx_granules : (setCtx s c).granules = s.granules := rfl
@[simp] theorem setCtx_cells : (setCtx s c).cells = s.cells := rfl
@[simp] theorem setCtx_pieces : (setCtx s c).pieces = s.pieces := rfl
@[simp] theorem setCtx_nbarb : (setCtx s c).nbarb = s.nbarb := rfl
@[simp] theorem setCtx_chans : (setCtx s c).chans = s.chans := rfl
@[simp] theorem setCtx_l1 : (setCtx s c).l1 = s.l1 := rfl
@[simp] theorem setCtx_l2 : (setCtx s c).l2 = s.l2 := rfl
@[simp] theorem setCtx_fillNo : (setCtx s c).fillNo = s.fillNo := rfl
@[simp] theorem setCtx_acq : (setCtx s c).acq = s.acq := rfl
@[simp] theorem setCtx_hb : (setCtx s c).hb = s.hb := rfl
@[simp] theorem setCtx_rels : (setCtx s c).rels = s.rels := rfl
@[simp] theorem setCtx_owed : (setCtx s c).owed = s.owed := rfl
@[simp] theorem setCtx_spadRel : (setCtx s c).spadRel = s.spadRel := rfl
@[simp] theorem setCtx_spadSeen : (setCtx s c).spadSeen = s.spadSeen := rfl
@[simp] theorem setCtx_cellCopies : (setCtx s c).cellCopies = s.cellCopies := rfl
@[simp] theorem setCtx_rtn : (setCtx s c).rtn = s.rtn := rfl
@[simp] theorem setCtx_l2cnt : (setCtx s c).l2cnt = s.l2cnt := rfl
@[simp] theorem setCtx_quadTlb : (setCtx s c).quadTlb = s.quadTlb := rfl
@[simp] theorem setCtx_coreTlb : (setCtx s c).coreTlb = s.coreTlb := rfl
@[simp] theorem setCtx_walkCache : (setCtx s c).walkCache = s.walkCache := rfl
@[simp] theorem setCtx_fused : (setCtx s c).fused = s.fused := rfl
@[simp] theorem setCtx_fbuf : (setCtx s c).fbuf = s.fbuf := rfl
@[simp] theorem setCtx_ctxs : (setCtx s c).ctxs = updWhere (·.slot == c.slot) (fun _ => c) s.ctxs := rfl
@[simp] theorem setCtx_counters : (setCtx s c).counters = s.counters := rfl
@[simp] theorem setCtx_keys : (setCtx s c).keys = s.keys := rfl
@[simp] theorem setCtx_queues : (setCtx s c).queues = s.queues := rfl
@[simp] theorem setCtx_launches : (setCtx s c).launches = s.launches := rfl
@[simp] theorem setCtx_blocks : (setCtx s c).blocks = s.blocks := rfl
@[simp] theorem setCtx_bars : (setCtx s c).bars = s.bars := rfl
@[simp] theorem setCtx_deliveries : (setCtx s c).deliveries = s.deliveries := rfl
@[simp] theorem setCtx_prevPlace : (setCtx s c).prevPlace = s.prevPlace := rfl
@[simp] theorem setCtx_prioShift : (setCtx s c).prioShift = s.prioShift := rfl
@[simp] theorem setCtx_dlres : (setCtx s c).dlres = s.dlres := rfl
@[simp] theorem setCtx_dlscr : (setCtx s c).dlscr = s.dlscr := rfl
@[simp] theorem setCtx_warps : (setCtx s c).warps = s.warps := rfl
@[simp] theorem setCtx_growWait : (setCtx s c).growWait = s.growWait := rfl
@[simp] theorem setCtx_growClk : (setCtx s c).growClk = s.growClk := rfl
@[simp] theorem setCtx_accTurn : (setCtx s c).accTurn = s.accTurn := rfl
@[simp] theorem setCtx_strTurn : (setCtx s c).strTurn = s.strTurn := rfl
@[simp] theorem setCtx_outs : (setCtx s c).outs = s.outs := rfl
@[simp] theorem setCtx_cellOps : (setCtx s c).cellOps = s.cellOps := rfl
@[simp] theorem setCtx_lfsr : (setCtx s c).lfsr = s.lfsr := rfl
@[simp] theorem setCtx_scale : (setCtx s c).scale = s.scale := rfl
@[simp] theorem setCtx_scaleReqs : (setCtx s c).scaleReqs = s.scaleReqs := rfl
@[simp] theorem setCtx_z : (setCtx s c).z = s.z := rfl
@[simp] theorem setCtx_pairs : (setCtx s c).pairs = s.pairs := rfl
@[simp] theorem setCtx_savedPairs : (setCtx s c).savedPairs = s.savedPairs := rfl
@[simp] theorem setCtx_ops : (setCtx s c).ops = s.ops := rfl
@[simp] theorem setCtx_cmds : (setCtx s c).cmds = s.cmds := rfl
@[simp] theorem setCtx_nbcmds : (setCtx s c).nbcmds = s.nbcmds := rfl
@[simp] theorem setCtx_insts : (setCtx s c).insts = s.insts := rfl
@[simp] theorem setCtx_queries : (setCtx s c).queries = s.queries := rfl
@[simp] theorem setCtx_walkers : (setCtx s c).walkers = s.walkers := rfl
@[simp] theorem setCtx_msgs : (setCtx s c).msgs = s.msgs := rfl
@[simp] theorem setCtx_pushes : (setCtx s c).pushes = s.pushes := rfl
@[simp] theorem setCtx_sets : (setCtx s c).sets = s.sets := rfl
@[simp] theorem setCtx_held : (setCtx s c).held = s.held := rfl
@[simp] theorem setCtx_retries : (setCtx s c).retries = s.retries := rfl
@[simp] theorem setCtx_mqStopped : (setCtx s c).mqStopped = s.mqStopped := rfl
@[simp] theorem setCtx_queueLeft : (setCtx s c).queueLeft = s.queueLeft := rfl
@[simp] theorem setCtx_rsvWaits : (setCtx s c).rsvWaits = s.rsvWaits := rfl
@[simp] theorem setCtx_packets : (setCtx s c).packets = s.packets := rfl
@[simp] theorem setCtx_kmcmds : (setCtx s c).kmcmds = s.kmcmds := rfl
@[simp] theorem setCtx_kmflight : (setCtx s c).kmflight = s.kmflight := rfl
@[simp] theorem setCtx_trees : (setCtx s c).trees = s.trees := rfl
@[simp] theorem setCtx_rounds : (setCtx s c).rounds = s.rounds := rfl
@[simp] theorem setCtx_resends : (setCtx s c).resends = s.resends := rfl
@[simp] theorem setCtx_peers : (setCtx s c).peers = s.peers := rfl
@[simp] theorem setCtx_silent : (setCtx s c).silent = s.silent := rfl
@[simp] theorem setCtx_peerOuts : (setCtx s c).peerOuts = s.peerOuts := rfl
@[simp] theorem setCtx_unitGot : (setCtx s c).unitGot = s.unitGot := rfl
@[simp] theorem setCtx_hops : (setCtx s c).hops = s.hops := rfl
@[simp] theorem setCtx_fabpfx : (setCtx s c).fabpfx = s.fabpfx := rfl
@[simp] theorem setCtx_fabcfg : (setCtx s c).fabcfg = s.fabcfg := rfl
@[simp] theorem setCtx_dies : (setCtx s c).dies = s.dies := rfl
@[simp] theorem setCtx_profile : (setCtx s c).profile = s.profile := rfl
@[simp] theorem setCtx_mr : (setCtx s c).mr = s.mr := rfl
@[simp] theorem setCtx_recovery : (setCtx s c).recovery = s.recovery := rfl
@[simp] theorem setCtx_boots : (setCtx s c).boots = s.boots := rfl
@[simp] theorem setCtx_reports : (setCtx s c).reports = s.reports := rfl
@[simp] theorem setCtx_opKey : (setCtx s c).opKey = s.opKey := rfl
@[simp] theorem setCtx_conns : (setCtx s c).conns = s.conns := rfl
@[simp] theorem setCtx_paused : (setCtx s c).paused = s.paused := rfl
@[simp] theorem setCtx_rates : (setCtx s c).rates = s.rates := rfl
@[simp] theorem setCtx_now : (setCtx s c).now = s.now := rfl
@[simp] theorem setCtx_clk : (setCtx s c).clk = s.clk := rfl
@[simp] theorem setCtx_coreClk : (setCtx s c).coreClk = s.coreClk := rfl
@[simp] theorem setCtx_inputs : (setCtx s c).inputs = s.inputs := rfl
@[simp] theorem setCtx_out : (setCtx s c).out = s.out := rfl
@[simp] theorem setCtx_deferred : (setCtx s c).deferred = s.deferred := rfl
@[simp] theorem setCtx_cur : (setCtx s c).cur = s.cur := rfl
@[simp] theorem setCtx_last : (setCtx s c).last = s.last := rfl
@[simp] theorem setCtx_view : (setCtx s c).view = s.view := rfl
@[simp] theorem setCtx_popped : (setCtx s c).popped = s.popped := rfl
@[simp] theorem setCtx_nextId : (setCtx s c).nextId = s.nextId := rfl
@[simp] theorem setCtx_free : (setCtx s c).free = s.free := rfl
@[simp] theorem setCtx_choice : (setCtx s c).choice = s.choice := rfl

end Sys2Proof.Laws
end

