-- ==== Sys2Proof/Tests/Slice0.lean ====
section
/-! SUPPORT. Tests: ill-formed terms that the checks refuse, words of the manual decoded, single steps with results taken from
the manual, and for every statement with hypotheses a state and operands that meet them. -/

namespace Sys2Proof.Tests

-- one theorem after another: each waits for the kernel
set_option Elab.async false

open Sys2Proof Sys2Proof.Machine Sys2Proof.Spec

/-! ### Ill-formed terms (08/R174-R187) -/

/-- SUB of an instruction that has none. -/
theorem test_wellFormed_sub : (Instr.iadd { sub := 1 }).wellFormed = false := by decide
/-- A type that the instruction does not have: `fadd` of u32. -/
theorem test_wellFormed_type : (Instr.fadd { ty := .u32 }).wellFormed = false := by decide
/-- `.ftz` on an integer addition. -/
theorem test_wellFormed_md : (Instr.iadd { md := 8 }).wellFormed = false := by decide
/-- A queue as operand A of a branch's condition. -/
theorem test_wellFormed_akind : (Instr.brc { ak := .queue }).wellFormed = false := by decide
/-- A register as operand B of `movi`. -/
theorem test_wellFormed_bkind : (Instr.movi { bk := .reg }).wellFormed = false := by decide
/-- An immediate without BK = 1. -/
theorem test_wellFormed_imm : (Instr.iadd { imm := 5 }).wellFormed = false := by decide
/-- A tie on an instruction that is not tied. -/
theorem test_wellFormed_tie : (Instr.iadd { cf := .a }).wellFormed = false := by decide
/-- RU outside `mma`. -/
theorem test_wellFormed_ru : (Instr.iadd { ru := true }).wellFormed = false := by decide
/-- A predicate on `nop`. -/
theorem test_wellFormed_predicate : (Instr.nop { km := 1 }).wellFormed = false := by decide
/-- k0 as a mask destination. -/
theorem test_wellFormed_d : (Instr.kand { ty := .mask, d := 0 }).wellFormed = false := by decide
/-- s64 as operand A of a scalar addition. -/
theorem test_wellFormed_a : (Instr.iadd { sc := true, a := 64 }).wellFormed = false := by decide
/-- Special operand 9, which is reserved. -/
theorem test_wellFormed_b : (Instr.iadd { bk := .special, b := 9 }).wellFormed = false := by decide
/-- C of an instruction that does not read it. -/
theorem test_wellFormed_c : (Instr.iadd { c := 1 }).wellFormed = false := by decide
/-- A compare and swap whose D is odd. -/
theorem test_wellFormed_more : (Instr.atom { ty := .b32, sub := 7, d := 1 }).wellFormed = false := by decide
/-- A register limit that is no multiple of 32 (14/R321). -/
theorem test_wellFormed_limit : (Instr.grow { sc := true, bk := .imm, imm := 65 }).wellFormed = false := by decide
/-- Context 16, core 384, die 4 and queue 256. -/
theorem test_wellFormed_events :
    (Instr.switchOut 16 0 0).wellFormed = false ∧ (Instr.growGrant 384 0).wellFormed = false ∧
    (Instr.permitGrant 4).wellFormed = false ∧ (Instr.doorbellWrite 256 0).wellFormed = false := by decide

/-! ### Decoding: words of the manual's own examples -/

/-- `ld.f32 v10,rec3,[s4+v1] if k2`. -/
theorem test_decode_ld : decode 0x0040401030A20060#96
    = .ok (.ld { km := 2, d := 10, a := 3, b := 1, c := 4, ty := .f32 }) := by decide +kernel
/-- `brc.lo c1`, to four slots on, join three on. -/
theorem test_decode_brc : decode 0x000400030000000010000302#96
    = .ok (.brc { sub := 3, a := 1, imm := 0x00040003 }) := by decide +kernel
/-- `cvt.e4m3.f32.sat v7,v3,2`. -/
theorem test_decode_cvt : decode 0x0002040004B0000030700053#96
    = .ok (.cvt { d := 7, a := 3, ty := .b32, md := 4, imm := 0x00020400 }) := by decide +kernel
/-- `mma.init`. -/
theorem test_decode_mma : decode 0x000400000000806400100190#96
    = .ok (.mma { sub := 1, d := 1, a := 64, b := 6, c := 8, imm := 0x00040000 }) := by decide +kernel
/-- `fence.se.dev s7`. -/
theorem test_decode_fence : decode 0x00000006400000000070_84A0#96
    = .ok (.fence { sub := 4, sc := true, d := 7, bk := .imm, imm := 6 }) := by decide +kernel
/-- `wnode w1,w0`. -/
theorem test_decode_wnode : decode 0x001000C0#96 = .ok (.wnode { d := 1 }) := by decide +kernel
/-- `nbrow b1,4,1`. -/
theorem test_decode_nbrow : decode 0x0001000400000000001000E0#96 = .ok (.nbrow { d := 1, imm := 0x00010004 }) := by decide +kernel
/-- `pin s3,s4,s5,4`. -/
theorem test_decode_pin : decode 0x00000004002000504030806F#96
    = .ok (.pin { sc := true, d := 3, a := 4, b := 5, ty := .u64, imm := 4 }) := by decide +kernel
/-- `cpy.tsp s5,s4,s20`. -/
theorem test_decode_cpy : decode 0x0001400040508280#96
    = .ok (.cpy { sub := 2, sc := true, d := 5, a := 4, c := 20 }) := by decide +kernel
/-- `kmerge s16`. -/
theorem test_decode_kmerge : decode 0x00000001000080B1#96
    = .ok (.kmerge { sc := true, a := 16 }) := by decide +kernel
/-- `baton.take`. -/
theorem test_decode_baton : decode 0x0197#96 = .ok (.batonTake { sub := 1 }) := by decide +kernel
/-- OPC 0xFF holds no instruction; CF = 3, AK = 3 and TY = 15 are no field values. -/
theorem test_decode_refuses :
    (decode 0xFF#96).toOption = none ∧ (decode 0x3000#96).toOption = none ∧ (decode 0x3000000000000010#96).toOption = none ∧
    (decode 0x00F0000000000010#96).toOption = none := by decide +kernel

/-! ### Small states -/

/-- One context: VAs are the PAs of the same number, with every permission; its fault queue lies at 0x20000. -/
def tc : Ctx :=
  { slot := 0, cfg := 0, root := 0, rng := 0, fltq := 0x20000, ranges := [{ w0 := 1, w1 := 0x3FFFF000, w2 := 0, w3 := 7 }] }

/-- A buffer record of raw bytes, 1 MiB from VA 0x100000. -/
def rawRec : List W64 := [0x100000, 0x00FF000000100000, 0, 0, 0xFF]

/-- A queued-class launch of one block. -/
def tl : Launch :=
  { id := 10, ctx := 0, queue := none, grid := 1, kernel := { entry := 5120, scr := 65536, maxLimit := 256, recs := [[], rawRec] }, cls := 2, nwarp := 1
    nblk := 1, next := 1, ready := true }

def tb : Block := { id := 11, launch := 10, ctx := 0, idx := 0, core := 0, scr := 65536 }

/-- One group of all eight slices, every lane active, at slot 5,120. -/
def tg : Group := { slices := 255, pc := 5120 }

def tw : Warp :=
  { id := 12, block := 11, ctx := 0, idx := 0, core := 0, quad := 0, limit := 96, slices := tabFill { active := 0 } 8 { active := 15 }
    groups := [tg], runs := 255, tvec := 0x10000 }

/-- The package with the units given, of which the execute slice of warp 12 issues. -/
def withWarp (w : Warp) : State := { ctxs := [tc], launches := [tl], blocks := [tb], warps := [w], cur := .execute 12, nextId := 20 }

def ts : State := withWarp tw

/-- A group issues, and its word pops no queue. -/
theorem iss {s : State} {w : Warp} {g : Group} {f : Fields} (hi : issuer s = some (w, g)) (hq : queuesOf f = []) : Issues s w g f :=
  ⟨hi, by rw [hq]; rfl⟩

/-- The state that an exec gives, where it gives one. -/
def nextOf (o : Host.Outcome State Fault Refusal) : State := match o with | .next t => t | _ => {}

/-- The state after one step of the word at its place. -/
def stepWord (s : State) (word : Nat) : State := nextOf (step (s.withFetchWord 96 word))

theorem ts_issues (f : Fields) (h : queuesOf f = []) : Issues ts tw tg f := iss rfl h


/-! ### What meets the hypotheses of the statements -/

/-- The handler of the warp above; a trap is taken there. -/
theorem tw_traps : tw.hm = false ∧ tw.tvec ≠ 0 ∧ slotIndex tw.tvec = some 5120 := by decide +kernel

/-- A word that decodes to the instruction, which the checks refuse. -/
def Refused (i : Instr) : Prop := (encode i).map decode = some (.ok i) ∧ i.wellFormed = false

theorem witness_IntegerArithmetic : ∃ s w g f, Issues s w g f ∧ (f.sc = false → tyWidth f.ty = 32) :=
  ⟨ts, tw, tg, { sc := true, ty := .s64 }, ts_issues _ rfl, by decide⟩

theorem witness_ShiftsAndRotates :
    (∃ f, Issues ts tw tg f ∧ f.sc = false ∧ tyWidth f.ty = 32) ∧ (∃ f, Issues ts tw tg f ∧ f.sc = true) :=
  ⟨⟨{ ty := .b32 }, ts_issues _ rfl, by decide⟩, ⟨{ sc := true, ty := .b64 }, ts_issues _ rfl, rfl⟩⟩

theorem witness_BitFields : ∃ s w g f, Issues s w g f := ⟨ts, tw, tg, { ty := .b32 }, ts_issues _ rfl⟩

theorem witness_BitwiseAndCounts : ∃ s w g f, Issues s w g f := ⟨ts, tw, tg, { ty := .b32 }, ts_issues _ rfl⟩

theorem witness_IntegerCompare :
    (∃ f, Issues ts tw tg f ∧ f.sc = false ∧ f.d ≠ 0 ∧ f.ty = .s32) ∧ (∃ f, Issues ts tw tg f ∧ f.sc = true) ∧
    (∃ f, Issues ts tw tg f ∧ f.sc = false ∧ f.sub = 6 ∧ Refused (.icmp f)) ∧
    (∃ f, Issues ts tw tg f ∧ f.sc = false ∧ f.d = 8 ∧ Refused (.icmp f)) ∧
    (∃ f, Issues ts tw tg f ∧ f.sc = true ∧ f.d = 4 ∧ Refused (.icmp f)) :=
  ⟨⟨{ d := 1, ty := .s32 }, ts_issues _ rfl, by decide⟩, ⟨{ sc := true }, ts_issues _ rfl, rfl⟩,
    ⟨{ sub := 6, d := 1 }, ts_issues _ rfl, rfl, rfl, by decide +kernel, by decide⟩,
    ⟨{ d := 8 }, ts_issues _ rfl, rfl, rfl, by decide +kernel, by decide⟩,
    ⟨{ sc := true, d := 4 }, ts_issues _ rfl, rfl, rfl, by decide +kernel, by decide⟩⟩

theorem witness_MovesAndMasks : ∃ f, Issues ts tw tg f ∧ f.d ≠ 0 ∧ f.sc = false := ⟨{ d := 7 }, ts_issues _ rfl, by decide⟩

theorem witness_MovesAndMasks_scalar : ∃ f, Issues ts tw tg f ∧ f.sc = true := ⟨{ sc := true }, ts_issues _ rfl, rfl⟩

theorem witness_CrossLane :
    (∃ f, Issues ts tw tg f ∧ f.d ≠ 0) ∧
    (∃ f, Issues ts tw tg f ∧ f.sc = true ∧ Refused (.shflIdx f)) ∧
    (∃ f, Issues ts tw tg f ∧ bits f.imm 31 5 ≠ 0 ∧ Refused (.bcast f)) ∧
    (∃ f, Issues ts tw tg f ∧ f.c ≠ 0 ∧ Refused (.voteAny f)) ∧
    (∃ f, Issues ts tw tg f ∧ 6 ≤ f.sub.toNat % 8 ∧ Refused (.redux f)) ∧
    (∃ f, Issues ts tw tg f ∧ bit f.sub 3 = true ∧ Refused (.redux f)) :=
  ⟨⟨{ d := 1 }, ts_issues _ rfl, by decide⟩,
    ⟨{ sc := true, ty := .b32 }, ts_issues _ rfl, rfl, by decide +kernel, by decide⟩,
    ⟨{ ty := .b32, bk := .imm, imm := 32 }, ts_issues _ rfl, by decide, by decide +kernel, by decide⟩,
    ⟨{ ty := .b32, d := 1, c := 1 }, ts_issues _ rfl, by decide, by decide +kernel, by decide⟩,
    ⟨{ ty := .b32, sub := 6 }, ts_issues _ rfl, by decide, by decide +kernel, by decide⟩,
    ⟨{ ty := .b32, sub := 8 }, ts_issues _ rfl, by decide, by decide +kernel, by decide⟩⟩

theorem witness_FloatArithmetic :
    (∃ f, Issues ts tw tg f ∧ f.ty = .f32) ∧ (∃ f, Issues ts tw tg f ∧ f.ty = .bf16x2) :=
  ⟨⟨{ ty := .f32 }, ts_issues _ rfl, rfl⟩, ⟨{ ty := .bf16x2 }, ts_issues _ rfl, rfl⟩⟩

theorem witness_FloatCompare :
    (∃ f, Issues ts tw tg f ∧ f.ty = .f32 ∧ f.sc = false ∧ f.d ≠ 0) ∧ (∃ f, Issues ts tw tg f ∧ f.sc = true) ∧
    (∃ f, Issues ts tw tg f ∧ f.ty ∉ [Ty.f32, .f16x2, .bf16x2] ∧ Refused (.fmin f)) ∧
    (∃ f, Issues ts tw tg f ∧ f.sc = false ∧ f.sub = 8 ∧ Refused (.fcmp f)) ∧
    (∃ f, Issues ts tw tg f ∧ f.sc = true ∧ f.sub = 1 ∧ Refused (.fcmp f)) :=
  ⟨⟨{ d := 1, ty := .f32 }, ts_issues _ rfl, by decide⟩, ⟨{ sc := true, ty := .f32 }, ts_issues _ rfl, rfl⟩,
    ⟨{}, ts_issues _ rfl, by decide, by decide +kernel, by decide⟩,
    ⟨{ sub := 8, d := 1, ty := .f32 }, ts_issues _ rfl, rfl, rfl, by decide +kernel, by decide⟩,
    ⟨{ sub := 1, sc := true, ty := .f32 }, ts_issues _ rfl, rfl, rfl, by decide +kernel, by decide⟩⟩

theorem witness_SpecialFunctions : ∃ f, Issues ts tw tg f ∧ f.ty = .f32 := ⟨{ ty := .f32 }, ts_issues _ rfl, rfl⟩

theorem witness_RoundClassifyConvert :
    (∃ f, Issues ts tw tg f ∧ f.ty = .f16x2) ∧ (∃ f, Issues ts tw tg f ∧ f.ty ∉ [Ty.f32, .f16x2, .bf16x2] ∧ Refused (.fclass f)) ∧
    (∃ f, Issues ts tw tg f ∧ bits f.imm 26 24 ≠ 5) :=
  ⟨⟨{ ty := .f16x2 }, ts_issues _ rfl, rfl⟩, ⟨{ ty := .b32 }, ts_issues _ rfl, by decide, by decide +kernel, by decide⟩, ⟨{ imm := 0x00020400 }, ts_issues _ rfl, by decide⟩⟩

/-- At slot 5,120 a target is in range; at the lowest slot the one before it names no code address. -/
def tw0 : Warp := { tw with groups := [{ tg with pc := 0 }] }

theorem witness_Branches :
    (∃ f t, Issues ts tw tg f ∧ slotPlus tg.pc f.imm.toInt = some t) ∧
    (∃ f t, Issues ts tw tg f ∧ slotIndex ((exeOf ts tw tg f).src.readS (firstSlice (exeOf ts tw tg f).w tg) f.a.toNat) = some t ∧
      slotPlus t f.imm.toInt = some (t + 1)) ∧
    (∃ f, Issues (withWarp tw0) tw0 { tg with pc := 0 } f ∧ slotPlus 0 f.imm.toInt = none) :=
  ⟨⟨{ imm := 4 }, 5124, ts_issues _ rfl, by decide⟩, ⟨{ imm := 1 }, 0, ts_issues _ rfl, by decide +kernel⟩,
    ⟨{ imm := 0xFFFFFFFF }, iss rfl rfl, by decide⟩⟩

/-- Slice 7 differs in c0.Z and in k1, and the parting stack is full or has one entry. -/
def twParts (n : Nat) : Warp :=
  { tw with
    slices := tabSet { active := 0 } tw.slices 7 { active := 15, c := [(0, { z := true })] }, k := [(1, 0x0FFFFFFF)]
    stack := List.replicate n { members := 255, arrived := 0, join := 5120, fmts := List.replicate 8 0 } }

theorem witness_ConditionalBranches :
    (∃ f t, Issues ts tw tg f ∧ (List.range 8).all (fun j => condition ((tw.slice j).readC 0) f.sub.toNat) = true ∧
      slotPlus tg.pc (sextNat 16 (bits f.imm 15 0)) = some t) ∧
    (∀ n ∈ [15, 16], ∃ f, Issues (withWarp (twParts n)) (twParts n) tg f ∧
      (List.range 8).all (fun j => condition (((twParts n).slice j).readC 0) f.sub.toNat) = false ∧
      (List.range 8).any (fun j => condition (((twParts n).slice j).readC 0) f.sub.toNat) = true ∧
      (exeOf (withWarp (twParts n)) (twParts n) tg f).w.stack.length = n ∧
      slotPlus tg.pc (sextNat 16 (bits f.imm 15 0)) = some 5124 ∧ slotPlus tg.pc (sextNat 16 (bits f.imm 31 16)) = some 5126) ∧
    (∃ f, Issues ts tw tg f ∧ f.sub = 15 ∧ Refused (.brc f)) :=
  ⟨⟨{ sub := 14, imm := 0x00060004 }, 5124, ts_issues _ rfl, by decide +kernel⟩,
    fun n hn => ⟨{ sub := 0, imm := 0x00060004 }, iss rfl rfl, by revert n; decide +kernel⟩,
    ⟨{ sub := 15, imm := 0x00060004 }, ts_issues _ rfl, rfl, by decide +kernel, by decide⟩⟩

/-- The same, its group without slice 7, at a slot. -/
def twLess (pc : Nat) : Warp := { twParts 1 with groups := [{ slices := 127, pc }], runs := 127 }

/-- Beside it, a group of slice 7 that has arrived at the join point, or not. -/
def twLeft (arrived : BitVec 8) : Warp :=
  { twLess 5121 with stack := [{ members := 255, arrived, join := 5120, fmts := List.replicate 8 0 }] }

/-- The stack has one entry whose join point is the group's slot; all its members are in the group, or slice 7 is missing. -/
theorem witness_RejoinAndExit :
    (∃ f, Issues ts tw tg f ∧ tw.stack = []) ∧
    (∃ f e, Issues (withWarp (twParts 1)) (twParts 1) tg f ∧ (exeOf (withWarp (twParts 1)) (twParts 1) tg f).w.stack = [e] ∧
      tg.pc = e.join ∧ e.arrived ||| tg.slices = e.members) ∧
    (let g : Group := { slices := 127, pc := 5120 };
      ∃ s w f e, Issues s w g f ∧ (exeOf s w g f).w.stack = [e] ∧ g.pc = e.join ∧ e.arrived ||| g.slices ≠ e.members) ∧
    (let g : Group := { slices := 127, pc := 5121 };
      ∃ s w f e, Issues s w g f ∧ (exeOf s w g f).w.stack = [e] ∧ g.pc ≠ e.join) ∧
    (∀ n ∈ [0#8, 128], let g : Group := { slices := 127, pc := 5121 };
      ∃ s w f e, Issues s w g f ∧ (w.stack.map fun e =>
        { e with members := e.members &&& ~~~ g.slices, arrived := e.arrived &&& ~~~ g.slices }).filter (·.members != 0) = [e] ∧
        e.arrived = n ∧ e.members = 128) :=
  ⟨⟨{}, ts_issues _ rfl, rfl⟩, ⟨{}, _, iss rfl rfl, rfl, by decide⟩,
    ⟨withWarp (twLess 5120), twLess 5120, {}, _, iss rfl rfl, rfl, by decide⟩,
    ⟨withWarp (twLess 5121), twLess 5121, {}, _, iss rfl rfl, rfl, by decide⟩,
    fun n _ => ⟨withWarp (twLeft n), twLeft n, {}, ⟨128, n, 5120, List.replicate 8 0, false⟩, iss rfl rfl, by revert n; decide⟩⟩


/-! The state with a walker of a search, and with an instance of a bank command. -/

/-- A descriptor of INT8 vectors of 16 elements: 2^27 nodes to a shard, one neighbour each, shard 1 on base die 1, shard 0 at
VA 0x200000. -/
def tdesc : List W64 := [5, 0, 0x000B001000000000, 0x1B0001, 0x0100, 0, 0, 0, 1, 0, 0, 0, 0, 0, 0, 0]

def tq : Query :=
  { id := 30, ctx := 0, warp := 12, block := 11, core := 0, flag := none, noprune := false, qva := 0x45000, qpas := [0x45000]
    dva := 0x44000, dpas := [0x44000], k := 2, snap := 5, resva := 0x46000, rpas := [0x46000], owner := .block 11, bar := 0, prog := 5120
    budget := 4, word2 := 0x000B001000000000, ids := 0, permit := .held, installed := true, desc := tdesc }

def tk : Walker := { id := 31, query := 30, base := 0, pc := 0 }

def tn : NbCmd :=
  { id := 32, ctx := 0, warp := 12, block := 11, core := 0, flag := none, bar := some (.block 11, 0), prog := 0, loops := 2, va := 0
    frames := 1, ids := 0 }

def ti : NbInst :=
  { id := 33, cmd := 32, ctx := 0, chan := 0, pages := (List.range 512).map (· * 4096), frameIdx := 0, started := true
    lines := [placedLine 0], pc := 0 }

/-- The package with both, and the unit that issues. -/
def withUnits (k : Walker) (i : NbInst) (cur : Agent) : State :=
  { ts with queries := [tq], walkers := [k], nbcmds := [tn], insts := [i], cur }

/-- The access slice of the warp runs, with queue 0's stream as given. -/
def twa (t : Stream) : Warp := { tw with acc := { st := .running, pc := 5120 }, q := [(0, { stream := t })] }

theorem witness_NopYieldWait :
    (∃ f, Issues ts tw tg f ∧ ∀ n < 12, bit f.imm n = true → tw.flag n = 0) ∧
    (∃ w f, Issues (withWarp w) w tg f ∧ ∃ n < 12, bit f.imm n = true ∧ w.flag n ≠ 0) ∧
    (∃ s id w, s.cur = .walker id ∧ findWalker s id = some w) ∧ (∃ s id i, s.cur = .bank id ∧ findInst s id = some i) ∧
    (∃ s id w, s.cur = .access id ∧ findWarp s id = some w) ∧ (∃ s w g f p, Issues s w g f ∧ g.frag = some p) :=
  ⟨⟨{ bk := .imm, imm := 0xFFF }, ts_issues _ rfl, by decide⟩,
    ⟨{ tw with f := [(11, 1)] }, { bk := .imm, imm := 0x800 }, iss rfl rfl, 11, by decide⟩,
    ⟨withUnits tk ti (.walker 31), 31, tk, by decide +kernel⟩, ⟨withUnits tk ti (.bank 33), 33, ti, by decide +kernel⟩,
    ⟨{ withWarp (twa {}) with cur := .access 12 }, 12, twa {}, by decide +kernel⟩,
    ⟨withWarp { tw with groups := [{ tg with frag := some {} }] }, { tw with groups := [{ tg with frag := some {} }] },
      { tg with frag := some {} }, {}, {}, iss rfl rfl, rfl⟩⟩

/-- The warp runs its handler. -/
def twh : Warp := { tw with tcause := 0x10A, tepc := 0x10001, handler := 255 }

theorem witness_TrapsAndReturn :
    (∃ f, Issues ts tw tg f ∧ tw.hm = false) ∧ (∃ f t, Issues (withWarp twh) twh tg f ∧ twh.hm = true ∧ slotIndex twh.tepc = some t) :=
  ⟨⟨{ bk := .imm, imm := 0xFFFF }, ts_issues _ rfl, rfl⟩, ⟨{}, 5121, iss rfl rfl, by decide⟩⟩

theorem witness_UnhandledTrapAndHalt :
    (∃ f, Issues (withWarp twh) twh tg f ∧ twh.hm = true ∧ findCtx (withWarp twh) 0 = some tc ∧ fltFull (withWarp twh) tc = false ∧
      findBlock (withWarp twh) 11 = some tb ∧ tb.ended = false) ∧
    (∃ w f, Issues (withWarp w) w tg f ∧ w.tvec = 0 ∧ findCtx (withWarp w) 0 = some tc ∧ fltFull (withWarp w) tc = false) ∧
    (∃ f, Issues ts tw tg f ∧ findCtx ts tw.ctx = some tc ∧ haltRoom ts tc = true) :=
  ⟨⟨{}, iss rfl rfl, by decide +kernel⟩, ⟨{ tw with tvec := 0 }, {}, iss rfl rfl, by decide +kernel⟩,
    ⟨{}, ts_issues _ rfl, by decide +kernel⟩⟩

theorem witness_ControlRegisters :
    (∃ f, Issues ts tw tg f ∧ findCtx ts tw.ctx = some tc ∧ f.imm.toNat < 4096 ∧ csrKnown f.imm.toNat = true) ∧
    (∀ n ∈ [0x010#32, 0x011, 0x012, 0x0D9, 0x0E0, 0x200], ∃ f, Issues ts tw tg f ∧ f.imm = n) :=
  ⟨⟨{ sc := true, bk := .imm, imm := 0x301 }, ts_issues _ rfl, by decide +kernel⟩,
    fun n _ => ⟨{ sc := true, bk := .imm, imm := n }, ts_issues _ rfl, rfl⟩⟩

theorem witness_ClocksAndPermits :
    (∃ f, Issues ts tw tg f ∧ tw.core < 384 ∧ min f.imm.toNat (permax (getDie ts 0).profile) = 0) ∧
    (∃ f, Issues ts tw tg f ∧ min f.imm.toNat (permax (getDie ts 0).profile) ≠ 0) :=
  ⟨⟨{ bk := .imm }, ts_issues _ rfl, by decide⟩, ⟨{ bk := .imm, imm := 1 }, ts_issues _ rfl, by decide⟩⟩

/-- All slices access the last word of the scratchpad. -/
def fLast : Fields := { sc := true, imm := 65532 }

theorem witness_ScratchpadAccess : ∃ f b, ∃ place : Nat → Bool × Nat, Issues ts tw tg f ∧ findBlock ts tw.block = some b ∧ ts.cmds = [] ∧ bits f.md 1 0 = 0 ∧
    tiedFlag tg f = none ∧ unitsOf (exeOf ts tw tg f) f ≠ [] ∧
    ∀ u ∈ unitsOf (exeOf ts tw tg f) f, spadPlace b tw.core (unitAddr ts (exeOf ts tw tg f) f u) (accessSize f.ty) = some (place u) ∧
      unitAddr ts (exeOf ts tw tg f) f u % (accessSize f.ty : Int) = 0 :=
  ⟨fLast, tb, fun _ => (false, 65532), ts_issues _ rfl, by decide +kernel⟩

/-- The group stands in a line whose slot 0 is tied to flag 0. -/
def tgt : Group := { tg with entry := .inside (placedLine 0x1000) }
def twt : Warp := { tw with groups := [tgt], f := [(0, 14)] }

/-- An access whose answer is there: lane 31 of v5 is to become 7. -/
def tout : Outstanding := { id := 40, warp := 12, flag := some 0, vwrites := [(5, 31, 7)], vmarks := [(5, 31, 9)] }
def twx : Warp := { tw with v := [(5, setLane 0 31 9)], f := [(0, 1)] }

theorem witness_TiedAccess :
    (∃ f b, ∃ place : Nat → Bool × Nat, ∃ n, Issues (withWarp twt) twt tgt f ∧ findBlock (withWarp twt) twt.block = some b ∧ bits f.md 1 0 = 0 ∧
      tiedFlag tgt f = some n ∧ twt.flag n < 15 ∧
      ∀ u ∈ unitsOf (exeOf (withWarp twt) twt tgt f) f,
        spadPlace b twt.core (unitAddr (withWarp twt) (exeOf (withWarp twt) twt tgt f) f u) (accessSize f.ty) = some (place u) ∧
        unitAddr (withWarp twt) (exeOf (withWarp twt) twt tgt f) f u % (accessSize f.ty : Int) = 0) ∧
    (let s := { withWarp twx with outs := [tout] };
      s.outs.find? (·.id == tout.id) = some tout ∧ findWarp s tout.warp = some twx ∧
      (∀ b, findBlock s twx.block = some b → b.saving = false) ∧
      tout.need = 0 ∧ tout.deq = none ∧ tout.inv = none ∧ tout.data = [] ∧ tout.conds = [] ∧ tout.swrites = [] ∧ tout.bytes = [] ∧
      tout.acquire = none ∧ (tout.vwrites.map fun v => (v.1, v.2.1)).Nodup ∧ (∀ v ∈ tout.vwrites, v.2.1 < 32) ∧
      ∀ m ∈ tout.vmarks, lane (twx.readV m.1) m.2.1 = m.2.2) :=
  ⟨⟨{ fLast with cf := .a }, tb, fun _ => (false, 65532), 0, iss rfl rfl, by decide +kernel⟩,
    by decide +kernel, by decide +kernel, fun b h => by
      have : b = tb := by
        have h2 : findBlock { withWarp twx with outs := [tout] } twx.block = some tb := by decide +kernel
        rw [h2] at h; exact (Option.some.inj h).symm
      rw [this]; rfl, by decide +kernel⟩

/-- A translation of the context above. -/
def txl (pa : Nat) : Xlat := { pa, layout := 0, cell := false, xwr := 7, entry := 7, level := 7, va := pa }

/-- All lanes access the last word of the line at 0x100000, through record 1. -/
def fLine : Fields := { a := 1, imm := 124 }

/-- The core's L1 holds that line whole. -/
def tsl : State := { ts with l1 := [(0, [{ pa := 0x100000, valid := BitVec.allOnes 128 }])] }

theorem raw_witness (s : State) (h : s = ts ∨ s = tsl) (need : Need) (hn : need = needLoad ∨ need = needStore) :
    RawAccess s (exeOf s tw tg fLine) fLine tc need 0x100000 fun _ i => txl (0x10007C + i) := by
  unfold RawAccess
  rcases h with rfl | rfl <;> rcases hn with rfl | rfl <;> decide +kernel

theorem witness_Load :
    (Issues ts tw tg fLine ∧ RawAccess ts (exeOf ts tw tg fLine) fLine tc needLoad 0x100000 (fun _ i => txl (0x10007C + i)) ∧
      tg.replay = [] ∧ (recordOf ts tw.block 1).bad fLine.ty false = false ∧ badRead ts 0x100000 = none ∧ l1Line ts 0 0x100000 = none) ∧
    (Issues tsl tw tg fLine ∧ RawAccess tsl (exeOf tsl tw tg fLine) fLine tc needLoad 0x100000 (fun _ i => txl (0x10007C + i)) ∧
      ∀ l, l1Line tsl 0 0x100000 = some l → l.valid = BitVec.allOnes 128) :=
  ⟨⟨ts_issues _ rfl, raw_witness _ (.inl rfl) _ (.inl rfl), by decide +kernel⟩,
    ⟨iss rfl rfl, raw_witness _ (.inr rfl) _ (.inl rfl), fun l h => by
      have h2 : l1Line tsl 0 0x100000 = some { pa := 0x100000, valid := BitVec.allOnes 128 } := by decide +kernel
      rw [h2] at h; rw [← Option.some.inj h]⟩⟩

theorem witness_Store : Issues ts tw tg fLine ∧
    RawAccess ts (exeOf ts tw tg fLine) fLine tc needStore 0x100000 (fun _ i => txl (0x10007C + i)) ∧
    (recordOf ts tw.block 1).bad fLine.ty true = false ∧ (recordOf ts tw.block 1).bypass = false ∧
    unitsOf (exeOf ts tw tg fLine) fLine ≠ [] :=
  ⟨ts_issues _ rfl, raw_witness _ (.inl rfl) _ (.inr rfl), by decide +kernel⟩

/-- Lane 0 alone is enabled; its word is the last of the scratchpad (A bit 3), or the last of the line at 0x100000 at device
scope. -/
def fOne (a : BitVec 8) (imm : W32) : Fields := { km := 1, a, imm }
def tw1 : Warp := { tw with k := [(1, 1)], f := [] }

theorem witness_Atomics :
    (∃ f, ∃ place : Nat → Bool × Nat, Issues (withWarp tw1) tw1 tg f ∧ findBlock (withWarp tw1) tw1.block = some tb ∧ findCtx (withWarp tw1) tw1.ctx = some tc ∧
      tiedFlag tg f = none ∧ (atomTypes f.sc f.sub.toNat).contains f.ty = true ∧ bit f.a 3 = true ∧
      unitsOf (exeOf (withWarp tw1) tw1 tg f) f = [0] ∧
      ∀ u ∈ unitsOf (exeOf (withWarp tw1) tw1 tg f) f,
        spadPlace tb tw1.core (unitAddr (withWarp tw1) (exeOf (withWarp tw1) tw1 tg f) f u) (accessSize f.ty) = some (place u) ∧
        unitAddr (withWarp tw1) (exeOf (withWarp tw1) tw1 tg f) f u % (accessSize f.ty : Int) = 0) ∧
    (∃ f y, Issues (withWarp tw1) tw1 tg f ∧ bit f.a 3 = false ∧ 4 ≤ bits f.a 2 0 ∧ unitsOf (exeOf (withWarp tw1) tw1 tg f) f = [0] ∧
      unitAddr (withWarp tw1) (exeOf (withWarp tw1) tw1 tg f) f 0 % (accessSize f.ty : Int) = 0 ∧
      checkBytes (withWarp tw1) tc { needAtomic with peer := bits f.a 2 0 != 4 }
        (toBits 64 (unitAddr (withWarp tw1) (exeOf (withWarp tw1) tw1 tg f) f 0)).toNat (accessSize f.ty) = .ok y ∧
      (y.head?.map (·.pa)).getD 0 = 0x10007C ∧ (∀ i < 4, busyGroup (withWarp tw1) (0x10007C + i) = false) ∧
      badRead (withWarp tw1) 0x10007C = none ∧ l1Line (withWarp tw1) 0 0x10007C = none ∧
      l2Line (withWarp tw1) 0 0x10007C = none) :=
  ⟨⟨fOne 8 65532, fun _ => (false, 65532), iss rfl rfl, by decide +kernel⟩,
    ⟨fOne 4 0x10007C, [txl 0x10007C, txl 0x10007D, txl 0x10007E, txl 0x10007F], iss rfl rfl, by decide +kernel⟩⟩

/-- The first granule from VA 0x10000 is for cells. -/
def tcc : Ctx := { tc with ranges := [{ w0 := 1, w1 := 0x3FFFF000, w2 := 0, w3 := 0x27 }] }
def tsc : State := { withWarp tw1 with ctxs := [tcc], granules := [0x10000] }
def tcell : CellOp := { id := 41, pa := 0x10000, kind := 0, gen := 1, x := 5, out := 40, lane := 0, d := 4, a := 8, core := 0 }

theorem witness_Cells :
    (∃ f, Issues tsc tw1 tg f ∧ findCtx tsc tw1.ctx = some tcc ∧ tiedFlag tg f = none ∧ tsc.cellCopies = [] ∧
      (∀ o ∈ tsc.outs, o.warp = tw1.id → o.need = 0) ∧ (exeOf tsc tw1 tg f).en ≠ 0 ∧
      ∀ p ∈ [(0, Instr.cellp f), (1, Instr.cellr f), (2, Instr.cellc f)], ∀ L ∈ lanesOf (exeOf tsc tw1 tg f).en,
        (toBits 64 (laneAddr tsc (exeOf tsc tw1 tg f) f L)).toNat = 0x1FFF0 ∧
        isHbm 0x1FFF0 = true ∧ (granuleOf tsc 0x1FFF0).isSome = true ∧
        (checkBytes tsc tcc { perm := if p.1 = 1 then 1 else 2, cell := true, acc := 6, writes := p.1 == 0 } 0x1FFF0 16).map
          (fun xs => (xs.head?.map (·.pa)).getD 0) = .ok 0x1FFF0) ∧
    (let s := { tsc with cellOps := [tcell], outs := [{ tout with need := 1 }] };
      s.cellOps.find? (·.id == tcell.id) = some tcell ∧
      (s.cellOps.filter fun p => p.out == tcell.out && p.pa / 16 == tcell.pa / 16) = [tcell]) :=
  ⟨⟨{ km := 1, d := 4, a := 8, b := 9, ty := .b32, imm := 0x1FFF0 }, iss rfl rfl, by decide +kernel⟩, by decide +kernel⟩


/-- The warp with the same s-registers in every slice. -/
def twr (rs : List (Nat × W64)) : Warp := { tw with slices := tabFill { active := 0 } 8 { active := 15, s := rs } }

/-- Its group's registers: s4 names the line at 0x100000. -/
def tw4 : Warp := twr [(4, 0x100000)]
def fRange (len : W32) : Fields := { sc := true, a := 4, ty := .u64, bk := .imm, imm := len }
def tsd : State := { withWarp tw4 with l2 := [(8192, [{ pa := 0x100000, valid := 1, dirty := 1 }])] }

theorem witness_CacheMaintenance :
    (∃ f, Issues tsd tw4 tg f ∧ findCtx tsd tw4.ctx = some tc ∧ (exeOf tsd tw4 tg f).slices ≠ [] ∧
      ((exeOf tsd tw4 tg f).s f.a.toNat).toNat = 0x100000 ∧ rangeLen (exeOf tsd tw4 tg f) f = 128 ∧
      (∀ p ∈ [0, 1, 2], presentPages tsd tc { perm := if p = 2 then 2 else 1, anyCell := true, acc := if p = 2 then 1 else 0 }
        (rangePages 0x100000 128) = .ok [(0x100000, 128)]) ∧
      isHbm 0x100000 = true ∧ pieceLines 0x100000 128 = [(0x100000, BitVec.allOnes 128)] ∧
      l1Line tsd 0 0x100000 = none ∧ l2Line tsd 0 0x100000 = some { pa := 0x100000, valid := 1, dirty := 1 } ∧
      ∀ k < 128, busyGroup tsd (0x100000 + k) = false) :=
  ⟨fRange 128, iss rfl rfl, by decide +kernel⟩

/-- The context with `n` seals. -/
def sealed (n : Nat) : Ctx := { tc with seals := (List.range n).map fun h => { handle := h, va := 0, len := 1, complete := false } }
def withSeals (n : Nat) : State := { withWarp tw4 with ctxs := [sealed n] }

/-- `n` retention registers of die 0. -/
def withPins (n : Nat) : State :=
  { withWarp (twr [(4, 0x100000), (5, 0x10000), (6, 3)]) with rtn := (List.range n).map fun i => ⟨0, i, 0, 0x8800000000000000⟩ }

theorem witness_SealsAndPins :
    (∃ f, Issues (withSeals 15) tw4 tg f ∧ findCtx (withSeals 15) tw4.ctx = some (sealed 15) ∧ (exeOf (withSeals 15) tw4 tg f).slices ≠ [] ∧
      0x100000 + rangeLen (exeOf (withSeals 15) tw4 tg f) f ≤ 2 ^ 56 ∧ rangeLen (exeOf (withSeals 15) tw4 tg f) f ≠ 0 ∧
      IsFirstFree 16 (fun h => (sealed 15).seals.any (·.handle == h)) 15) ∧
    (∃ f, Issues (withSeals 16) tw4 tg f ∧ rangeLen (exeOf (withSeals 16) tw4 tg f) f = 128 ∧
      ∀ h < 16, (sealed 16).seals.any (·.handle == h) = true) ∧
    (∃ f, Issues (withSeals 1) tw4 tg f ∧ ((exeOf (withSeals 1) tw4 tg f).s f.a.toNat).toNat = 0 ∧
      (sealed 1).seals.any (·.handle == 0) = true ∧ (sealed 0).seals.any (·.handle == 0) = false) ∧
    (∃ w f, Issues (withPins 7) w tg f ∧ ((exeOf (withPins 7) w tg f).s f.a.toNat).toNat % 65536 = 0 ∧
      ((exeOf (withPins 7) w tg f).s f.b.toNat).toNat = 65536 ∧ reservedWays (withPins 7) 0 + bits f.imm 3 0 ≤ 12 ∧
      IsFirstFree 8 (fun n => (withPins 7).rtn.any fun r => r.die == 0 && r.num == n) 7) ∧
    (∃ w f, Issues (withPins 8) w tg f ∧ ∀ n < 8, ((withPins 8).rtn.any fun r => r.die == 0 && r.num == n) = true) ∧
    (∃ w f, Issues (withPins 4) w tg f ∧ ((exeOf (withPins 4) w tg f).s f.a.toNat).toNat = 3 ∧
      ((withPins 4).rtn.any fun r => r.die == 0 && r.ctx == w.ctx && r.num == 3) = true ∧
      ((withPins 3).rtn.any fun r => r.die == 0 && r.ctx == w.ctx && r.num == 3) = false) ∧
    (∃ l pages, findCtx (withSeals 1) 0 = some (sealed 1) ∧
      (sealed 1).seals.find? (fun l' => l'.handle == l.handle && !l'.complete) = some l ∧
      ((rangePages l.va l.len).filterMap fun p => match lookup (withSeals 1) (sealed 1) p.1 0 with
        | .ok y => some (y.pa, p.2)
        | .error _ => none) = pages ∧ storesOnWay (withSeals 1) (sealed 1) l.va l.len pages = false ∧
      storesOnWay { withSeals 1 with queries := [{ tq with resva := 0 }] } (sealed 1) l.va l.len pages = true) :=
  ⟨⟨fRange 128, iss rfl rfl, by unfold IsFirstFree; decide +kernel⟩, ⟨fRange 128, iss rfl rfl, by decide +kernel⟩,
    ⟨{ sc := true, ty := .u64 }, iss rfl rfl, by decide +kernel⟩,
    ⟨_, { sc := true, ty := .u64, a := 4, b := 5, imm := 4 }, iss rfl rfl, by unfold IsFirstFree; decide +kernel⟩,
    ⟨_, { sc := true, ty := .u64, a := 4, b := 5, imm := 4 }, iss rfl rfl, by decide +kernel⟩,
    ⟨_, { sc := true, ty := .u64, a := 6 }, iss rfl rfl, by decide +kernel⟩,
    ⟨⟨0, 0, 1, false⟩, [(0, 1)], by decide +kernel⟩⟩

/-- Records 2 and 3: rows of 32 elements of f32, and of E4M3 with one scale. -/
def rec2 : List W64 := [0x100000, 0x0000000000100000, 0x0100000000000080, 0, 0x002000FF]
def rec3 : List W64 := [0x200000, 0x000F000000100000, 0x0100000000000020, 0x300000, 0x002000FF]
def tlc : Launch := { tl with kernel := { tl.kernel with recs := [[], rawRec, rec2, rec3] } }

/-- Registers of a copy: s4 and s5 the source and the destination, s8 to s10 the shape, `len` bytes; s12 a handle. -/
def twc (len : W64) : Warp := twr [(4, 0x100000), (5, 65535), (8, len), (12, 3)]
def tbo (n : Nat) : Block :=
  { tb with outs := (List.range n).map fun h => { handle := h, excl := false, va := 0, len := 1, off := 0, complete := true, cmd := 50 + h } }
def tscp (n : Nat) (len : W64) : State := { withWarp (twc len) with launches := [tlc], blocks := [tbo n] }

theorem room_witness (n : Nat) (len : W64) (f : Fields) : CopyRoom (tscp n len) (twc len) tg f :=
  ⟨fun m h => by simp [tiedFlag, tg] at h, by simp [tscp, withWarp]⟩

theorem witness_CopyIssue :
    (∃ f, Issues (tscp 0 0) (twc 0) tg f ∧ CopyRoom (tscp 0 0) (twc 0) tg f ∧
      bits ((exeOf (tscp 0 0) (twc 0) tg f).s f.c.toNat) 31 0 = 0) ∧
    (∃ f, let x := exeOf (tscp 0 1) (twc 1) tg f;
      Issues (tscp 0 1) (twc 1) tg f ∧ CopyRoom (tscp 0 1) (twc 1) tg f ∧ bit f.sub 1 = true ∧ bits (x.s f.c.toNat) 31 0 ≠ 0 ∧
      boxRange (tbo 0) 0 (bit f.sub 0) (srcBox (x.s f.a.toNat) (x.s f.c.toNat) (x.s (f.c.toNat + 1))) = .ok () ∧
      boxRange (tbo 0) 0 true (dstBox (x.s f.d.toNat) (x.s f.c.toNat) (x.s (f.c.toNat + 2))) = .ok ()) ∧
    (∃ f, Issues (tscp 0 1) (twc 1) tg f ∧ bit f.sub 0 = false ∧ bit f.sub 1 = false ∧
      cpyqBad (recordOf (tscp 0 1) 11 f.a.toNat) (recordOf (tscp 0 1) 11 f.b.toNat) (recordOf (tscp 0 1) 11 (bits f.imm 7 0)) = none) ∧
    (∃ f, Issues (tscp 15 65536) (twc 65536) tg f ∧ rangeLen (exeOf (tscp 15 65536) (twc 65536) tg f) f = 65536 ∧
      boxRange (tbo 15) 0 true { base := 0, nx := 65536, ny := 1, nz := 1, sy := 0, sz := 0 } = .ok () ∧
      IsFirstFree 16 (fun h => (tbo 15).outs.any (·.handle == h)) 15) ∧
    (∀ h < 16, (tbo 16).outs.any (·.handle == h) = true) ∧
    (∃ f, Issues (tscp 4 1) (twc 1) tg f ∧
      ((tbo 4).outs.find? fun o => o.handle == ((exeOf (tscp 4 1) (twc 1) tg f).s f.a.toNat).toNat).isSome = true ∧
      (tbo 3).outs.find? (fun o => o.handle == ((exeOf (tscp 4 1) (twc 1) tg f).s f.a.toNat).toNat) = none) :=
  ⟨⟨{ sc := true, d := 5, a := 4, c := 8 }, iss rfl rfl, room_witness _ _ _, by decide +kernel⟩,
    ⟨{ sub := 2, sc := true, d := 5, a := 4, c := 8 }, iss rfl rfl, room_witness _ _ _, by decide +kernel⟩,
    ⟨{ sc := true, a := 2, b := 3, imm := 0x010103 }, iss rfl rfl, by decide +kernel⟩,
    ⟨{ sc := true, a := 4, b := 8, c := 13 }, iss rfl rfl, by unfold IsFirstFree; decide +kernel⟩, by decide +kernel,
    ⟨{ sc := true, a := 12 }, iss rfl rfl, by decide +kernel⟩⟩

/-- Seven closed batches, and a scratchpad with a run of 32 zeros at its start and selectors 0, 1 at offset 1,024. -/
def twb : Warp := { twr [(4, 0), (5, 8192), (6, 4)] with batches := (List.range 7).map fun n => ⟨BitVec.ofNat 16 (n + 1), [60 + n]⟩ }
def tbd : Block := { tb with spad := [(0, 31), (1024, 0x44), (1025, 0x44), (1026, 0x44), (1027, 0x44)] }
def tsb : State := { withWarp twb with blocks := [tbd] }
def tsbt : State := { tsb with warps := [{ twb with groups := [tgt] }] }

theorem witness_BatchesAndDec :
    (∃ f, Issues tsb twb tg f ∧ findBlock tsb twb.block = some tbd ∧ tsb.cmds = [] ∧ twb.batches.length < 8 ∧
      (twb.batches.map (·.num)).filter (fun n => ((f.imm.setWidth 16 : W16) - n).toNat < 32768) ≠ [] ∧ tiedFlag tg f = none) ∧
    (∃ f, Issues tsb twb tg f ∧ (twb.batches.map (·.num)).filter (fun n => ((f.imm.setWidth 16 : W16) - n).toNat < 32768) = []) ∧
    (∃ f, Issues tsbt { twb with groups := [tgt] } tgt f ∧ tiedFlag tgt f = some 0 ∧ twb.flag 0 < 15 ∧
      (twb.batches.map (·.num)).filter (fun n => ((f.imm.setWidth 16 : W16) - n).toNat < 32768) ≠ []) ∧
    (∃ f, Issues tsb twb tg f ∧ tiedFlag tg f = none ∧ immLow f 4 = 1 ∧ bit f.imm 4 = true ∧
      let sa := (exeOf tsb twb tg f).s f.a.toNat
      let sb := (exeOf tsb twb tg f).s f.b.toNat
      sb.toNat % 4 = 0 ∧ ∀ m < 32, InSpad tbd 0 ((sa.toNat + 8 * m) / 8) (((sa.toNat + 8 * m) % 8 + 8 + 7) / 8) ∧
        InSpad tbd 0 (sb.toNat + 4 * spadField tbd 0 (sa.toNat + 8 * m) 8) 4) ∧
    (∃ f, Issues tsb twb tg f ∧ tiedFlag tg f = none ∧ immLow f 4 = 1 ∧
      let toks : List (Nat ⊕ List W32) := [.inl 32]
      let sa := (exeOf tsb twb tg f).s f.a.toNat
      sa.toNat % 8 = 0 ∧ (∀ t ∈ toks, 1 ≤ (tokenWords t).length ∧ (tokenWords t).length ≤ 128) ∧
      (toks.flatMap tokenWords).length = 32 ∧
      ∀ i < (toks.flatMap tokenBytes).length, InSpad tbd 0 (sa.toNat / 8 + i) 1 ∧
        spadNumber tbd 0 (sa.toNat / 8 + i) 1 = ((toks.flatMap tokenBytes).getD i 0).toNat) ∧
    (∃ f, Issues tsb twb tg f ∧ tiedFlag tg f = none ∧ immLow f 4 = 1 ∧ f.a ≠ f.b ∧
      let sa := (exeOf tsb twb tg f).s f.a.toNat
      let sb := (exeOf tsb twb tg f).s f.b.toNat
      sa.toNat % 32 = 0 ∧ sb.toNat % 4 = 0 ∧
      ∀ q < 8, InSpad tbd 0 ((sb.toNat + 4 * q) / 8) (((sb.toNat + 4 * q) % 8 + 4 + 7) / 8) ∧ InSpad tbd 0 (sa.toNat / 8 + 8 * q) 8 ∧
        spadField tbd 0 (sb.toNat + 4 * q) 4 % 4 < spadField tbd 0 (sb.toNat + 4 * q) 4 / 4) := by
  unfold InSpad
  exact ⟨⟨{ sc := true, bk := .imm, imm := 7 }, iss rfl rfl, by decide +kernel⟩,
    ⟨{ sc := true, bk := .imm, imm := 0 }, iss rfl rfl, by decide +kernel⟩,
    ⟨{ sc := true, cf := .a, bk := .imm, imm := 1 }, iss rfl rfl, by decide +kernel⟩,
    ⟨{ a := 4, b := 6, imm := 0x11 }, iss rfl rfl, by decide +kernel⟩,
    ⟨{ a := 4, b := 6, imm := 1 }, iss rfl rfl, by decide +kernel⟩,
    ⟨{ a := 4, b := 5, imm := 1 }, iss rfl rfl, by decide +kernel⟩⟩

/-- Copy commands of the warp: of one byte within the scratchpad, a check-in, and one that has met a conflict. -/
def tk1 : CopyCmd := { id := 70, warp := 12, block := 11, ctx := 0, core := 0, kind := .cpy true true false 65535 0 1 0 0, flag := some 15 }
def tk2 : CopyCmd := { tk1 with kind := .chki 50 false }
def tk3 : CopyCmd := { tk1 with kind := .chko 0 false, conflict := some 1 }
def tp : Piece := { id := 71, base := 0, lo := 0, hi := 4096, va := 0, excl := true, block := 11, cmd := 70 }

theorem find_unique {α : Type} {o : Option α} {x y : α} (h : o = some x) (k : o = some y) : y = x := Option.some.inj (k.symm.trans h)

theorem witness_CopyEvents :
    (let s := { ts with cmds := [tk1] };
      s.cmds = [tk1] ∧ findBlock s tk1.block = some tb ∧ findCtx s tk1.ctx = some tc ∧ findWarp s tk1.warp = some tw ∧ tw.bwaits = [] ∧
      tc.loaded = true ∧ tc.halted = false ∧ tk1.parked = none ∧ tk1.permit ≠ .waiting ∧ tk1.conflict = none ∧ tk1.taint = [] ∧
      tk1.sent = 0 ∧ tk1.progress = 0 ∧ tk1.kind = .cpy true true false 65535 0 1 0 0 ∧ unitCount tb tk1 = 1 ∧
      (∀ i < unitCount tb tk1, ∀ r ∈ copySrc s tk1, r.holds (moveAt tb tk1 i).2.1 (moveAt tb tk1 i).2.2 = false) ∧
      ∀ i < unitCount tb tk1, ∀ j < unitCount tb tk1, (moveAt tb tk1 i).2 ≠ (moveAt tb tk1 j).1 ∧
        (i ≠ j → (moveAt tb tk1 i).2 ≠ (moveAt tb tk1 j).2)) ∧
    (let s := { ts with cmds := [tk2], blocks := [tbo 1] };
      s.cmds = [tk2] ∧ findBlock s tk2.block = some (tbo 1) ∧ tk2.id ≠ 50 ∧ tk2.kind = .chki 50 false ∧
      ∃ o, (tbo 1).outs.find? (·.cmd == 50) = some o ∧ o.excl = false) ∧
    (let s := { ts with cmds := [tk1], pieces := [tp] };
      s.pieces = [tp] ∧ s.cmds.find? (·.id == tp.cmd) = some tk1 ∧ findCtx s tk1.ctx = some tc ∧ tp.held = false) ∧
    (let s := { ts with cmds := [tk3] };
      s.cmds.find? (·.id == tk3.id) = some tk3 ∧ findBlock s tk3.block = some tb ∧ tb.ended = false ∧ fltFull s tc = false ∧
      tk3.conflict = some 1) :=
  ⟨by decide +kernel, by
    refine ⟨?_, ?_, ?_, rfl, _, rfl, rfl⟩ <;> decide +kernel, by decide +kernel⟩

/-- The access slice of a warp at slot 0 or 5,120, with registers and queue 0's stream. -/
def twaR (pc : Nat) (rs : List (Nat × W64)) (t : Stream) : Warp :=
  { tw with acc := { st := .running, pc, a := rs }, q := [(0, { stream := t })] }
def tsa (w : Warp) : State := { withWarp w with cur := .access 12 }

theorem witness_AccessSlice :
    (let w := twaR 5120 [(3, 1)] { st := .defined };
      findWarp (tsa w) 12 = some w ∧ (tsa w).cur = .access 12 ∧ tabGet 0 w.acc.a 3 = 1 ∧ tabGet 0 w.acc.a 4 ≠ 1 ∧
      slotPlus w.acc.pc (4 : W32).toInt = some 5124 ∧ (recordOf (tsa w) w.block 1).bad .u32 false = false ∧
      (queueAt w 0).stream.st = .defined ∧ (queueAt w 0).stream.closing = false ∧ (queueAt w 1).stream.st = .idle) ∧
    (let w := twaR 0 [] { st := .closed }; slotPlus w.acc.pc (-1 : W32).toInt = none ∧ (queueAt w 0).stream.st = .closed) ∧
    (let w := twaR 0 [] { st := .running }; (queueAt w 0).stream.st = .running) := by decide +kernel

theorem ok_of {ε α : Type} {e : Except ε α} (h : e.toOption.isSome = true) : ∃ q, e = .ok q := by
  cases e with
  | error _ => cases h
  | ok q => exact ⟨q, rfl⟩

theorem ok_and {ε α : Type} {e : Except ε α} {P : α → Prop} [DecidablePred P]
    (h : (match e with | .ok q => decide (P q) | .error _ => false) = true) : ∃ q, e = .ok q ∧ P q := by
  cases e with
  | error _ => cases h
  | ok q => exact ⟨q, rfl, of_decide_eq_true h⟩

theorem witness_StreamEvents :
    (let t : Stream := { st := .running, record := 1, ty := .u32, counts := 0x0001000100010001 };
      let w := twaR 5120 [] t;
      findWarp (tsa w) 12 = some w ∧ unitsRun (tsa w) w = true ∧ findCtx (tsa w) w.ctx = some tc ∧ (queueAt w 0).stream = t ∧
      t.next < t.count ∧ t.flight.length + (queueAt w 0).entries.length < 16 ∧
      ∃ q, loadElems {
        s := tsa w, w := whoOf (tsa w) w, c := tc, warp := w, g := { slices := 0, pc := 0 }
        ef := bit t.md 3 || (recordOf (tsa w) w.block t.record).ef, bypass := (recordOf (tsa w) w.block t.record).bypass, count := true }
        (recordOf (tsa w) w.block t.record) t.ty (bit t.md 2)
        ((lanesOf w.activeLanes).map fun L => (L, (toBits 64 (t.index t.next + (L : Int) * t.laneStride.toInt)).toInt)) = .ok q ∧ q.1.warps = (tsa w).warps) ∧
    (let w := twaR 5120 [] { st := .running, counts := 0x0001000100010001, next := 1, flight := [7] };
      (queueAt w 0).stream.flight = [7] ∧ (queueAt w 0).entries.length < 16 ∧ (queueAt w 0).stream.next = (queueAt w 0).stream.count) ∧
    (let w : Warp := { tw with acc := { st := .trapped 1 0x10000 } };
      unitsRun (withWarp w) w = true ∧ nextGroup w atBoundary = some tg ∧ w.hm = false ∧ w.tvec ≠ 0 ∧
      slotIndex w.tvec = some 5120) :=
  ⟨by refine ⟨?_, ?_, ?_, ?_, ?_, ?_, ok_and ?_⟩ <;> decide +kernel, by decide +kernel⟩

/-- A set of sixteen full lines when a `pin` of 4 ways comes: the four least recently used go (25, the run in one set). -/
theorem test_pin_evicts :
    (match exec (.pin { sc := true, ty := .u64, d := 3, a := 4, b := 5, imm := 4 })
        { withPins 0 with l2 := [(0, (List.range 16).map fun i => { pa := 4194304 * i })] } with
      | .next t => (tabGet [] t.l2 0).map (·.pa / 4194304) == (List.range 12).map (· + 4)
      | _ => false) = true := by decide +kernel


/-- A pair-block of four warps. -/
def tlp : Launch := { tlc with kernel := { tlc.kernel with pair := true }, nwarp := 4 }
def tbp : Block := { tb with pair := true }
def twq (i : Nat) : Warp := { tw with id := 12 + i, idx := i, quad := i }
def tsp : State := { withWarp (twq 0) with launches := [tlp], blocks := [tbp], warps := (List.range 4).map twq }
/-- The same with a quad of another block that holds the baton before it. -/
def tspr : State := { tsp with pairs := [(0, { ring := [(99, 0), (11, 0)] })] }

theorem witness_MatrixIssue :
    (∃ f, QuadIssues tsp (twq 0) tg f tbp ∧ QuadMissing tsp (twq 0) ∧ MayUse tsp (twq 0) ∧
      (∀ n, tiedFlag tg f = some n → (twq 0).flag n < 15) ∧ f.a.toNat + aRegs 0 0 ≤ (twq 0).limit) ∧
    (∃ f, QuadIssues tspr (twq 0) tg f tbp ∧ QuadMissing tspr (twq 0) ∧ ¬ MayUse tspr (twq 0)) ∧
    (∃ f, Issues tsp (twq 0) tg f ∧ f.bk = .imm ∧ bits f.imm 31 16 = 0 ∧ bits f.imm 15 8 ≤ 27 ∧ bits f.imm 7 0 ≤ 27) ∧
    (∃ f, Issues tsp (twq 0) tg f ∧ f.bk = .imm ∧ ¬ bits f.imm 7 0 ≤ 27 ∧ bit tg.slices 0 = true ∧ ((twq 0).slice 0).active ≠ 0) ∧
    (∃ f, let sa := (exeOf tsp (twq 0) tg f).s f.a.toNat;
      Issues tsp (twq 0) tg f ∧ (∀ k ∈ [0, 1], ∀ e ∈ tabGet [] tsp.scale k, scaleInUse tsp k e = false) ∧ bits sa 63 16 = 0 ∧
      bits ((exeOf tsp (twq 0) tg f).s f.b.toNat) 63 32 = 0 ∧ 0 < f.imm.toNat ∧ tsp.scaleReqs = [] ∧
      (∃ r, tensorRecord (recordsOf tsp 11) sa.toNat = some r ∧ r.sb = 0x300000) ∧
      ∃ xs, checkAll tsp tc needUnit ((List.range f.imm.toNat).map fun i => (0x300000 + 4 * i, 4)) = .ok xs) := by
  refine ⟨⟨{}, ⟨iss rfl rfl, rfl, rfl, by decide, by decide, rfl, tlp, rfl, by decide⟩, ?_, ?_, fun n h => by simp [tiedFlag, tg] at h,
      by decide⟩,
    ⟨{}, ⟨iss rfl rfl, rfl, rfl, by decide, by decide, rfl, tlp, rfl, by decide⟩, ?_, ?_⟩,
    ⟨{ bk := .imm, imm := 0x1B1B }, iss rfl rfl, by decide⟩, ⟨{ bk := .imm, imm := 28 }, iss rfl rfl, by decide +kernel⟩,
    ⟨{ sc := true, a := 20, b := 21, imm := 16 }, iss rfl rfl, by
      refine ⟨?_, ?_, ?_, ?_, rfl, ⟨_, rfl, ?_⟩, ok_of ?_⟩ <;> decide +kernel⟩⟩
  · unfold QuadMissing; decide +kernel
  · unfold MayUse; decide +kernel
  · unfold QuadMissing; decide +kernel
  · unfold MayUse; decide +kernel

/-- A joint operation of the quad. -/
def to1 (i : Instr) (st : OpSt) : JointOp :=
  { id := 80, block := 11, quad := 0, pair := 0, seq := 0, instr := i, warps := [12, 13, 14, 15], flags := [none, none, none, none], st }
def tso (o : JointOp) : State := { tsp with ops := [o] }

theorem op_runs (i : Instr) (st : OpSt) : OpRuns (tso (to1 i st)) (to1 i st) tbp tc :=
  ⟨rfl, rfl, rfl, rfl, rfl, rfl, rfl, rfl, rfl⟩

/-- A request for block 0 of the tensor with STID 0. -/
def trq : ScaleReq := { id := 81, core := 1, ctx := 0, launch := 10, tid := 0, blk := 0, out := none }

theorem witness_MatrixEvents :
    (let o := to1 (.zclr { d := 3 }) .formed; OpRuns (tso o) o tbp tc ∧ plainOp o ∧ o.st = .formed ∧ o.permit ≠ .waiting) ∧
    (let o := to1 (.zclr { d := 3 }) .started; OpRuns (tso o) o tbp tc ∧ o.kind = 1 ∧ o.st = .started ∧ o.permit = .notNeeded) ∧
    (let o := to1 (.drain { imm := 0x1020 }) .started;
      OpRuns (tso o) o tbp tc ∧ o.kind = 2 ∧ o.st = .started ∧ o.permit ≠ .held ∧ o.permit ≠ .reserved ∧ drainDest o.f = 0 ∧
      drainOf o.f = 0x20 ∧ drainZi o.f = true ∧ drainBias o.f = false ∧ drainAct o.f = false ∧ drainRq o.f = false ∧
      o.early = false ∧ (∀ m ∈ o.marks, m = []) ∧ ((tso o).warps.map (·.id)).Nodup ∧ o.warps.Nodup) ∧
    (let s := { tsp with scaleReqs := [trq] };
      s.scaleReqs.find? (·.id == trq.id) = some trq ∧ trq.parked = none ∧ ctxRuns s trq.ctx = true ∧ findCtx s trq.ctx = some tc ∧
      findLaunch s trq.launch = some tlp ∧ scaleLookup s trq.core trq.tid trq.blk = none ∧ (tabGet [] s.scale trq.core).length < 512 ∧
      ∃ t, tensorRecord tlp.kernel.recs trq.tid = some t ∧
      ∃ q, unitLoad s { core := trq.core, ctx := trq.ctx, compat := tc.compat, warp := 0 } tc (reqBlock s trq) trq.id (scaleVa t trq.blk) 4 = .ok q ∧
        q.1.scale = s.scale) ∧
    (let s := { tso (to1 (.zclr {}) .started) with coreClk := [(0, 65536)] };
      ∃ o ∈ s.ops, o.pair = 0 ∧ o.st ≠ .formed ∧ o.since + 65536 ≤ tabGet 0 s.coreClk (2 * 0)) ∧
    (let s := { ts with pairs := [(0, { resetting := true })] };
      (tabGet ({} : Pair) s.pairs 0).resetting = true ∧ (tabGet ({} : Pair) s.pairs 0).ring = [] ∧ (∀ o ∈ s.ops, o.pair ≠ 0) ∧
      ∀ b ∈ s.blocks, b.saving = false ∧ b.pair = false) :=
  ⟨⟨op_runs _ _, .inl rfl, rfl, by decide⟩, ⟨op_runs _ _, rfl, rfl, rfl⟩,
    ⟨op_runs _ _, rfl, rfl, by decide +kernel⟩,
    ⟨rfl, rfl, by decide +kernel, rfl, rfl, by decide +kernel, by decide +kernel, _, rfl, ok_and (by decide +kernel)⟩,
    by decide +kernel, by decide +kernel⟩

/-- An `mma` of a format of blocks of 16 by one of blocks of 32, 128 deep: more records than a cache holds, block 8 i + k / 16 of
tensor 7 for A. -/
def tp2 : JointOp := { to1 (.mma { c := 8, imm := 7 }) .started with fmt := 0x1315, s := [(9, 8)] }

theorem tp2_twoPass : tp2.twoPass = true := by
  have hm : ∀ y ∈ (0, 0) :: (List.range 512).map (fun n => (7, n)), y ∈ keysIn tp2 0 0 tp2.k := by
    intro y hy
    simp only [List.mem_cons, List.mem_map, List.mem_range] at hy
    unfold keysIn
    simp only [List.mem_eraseDups, List.mem_append]
    rcases hy with rfl | ⟨n, hn, rfl⟩
    · right
      rw [if_pos (by decide)]
      simp only [List.mem_flatMap, List.mem_map, List.mem_range]
      exact ⟨0, by decide, 0, ⟨0, by decide, rfl⟩, by decide +kernel⟩
    · left
      rw [if_pos (by decide)]
      simp only [List.mem_flatMap, List.mem_map, List.mem_range]
      refine ⟨n / 8, by omega, 16 * (n % 8), ⟨16 * (n % 8), ?_, by omega⟩, ?_⟩
      · show 16 * (n % 8) < 128 - 0
        omega
      · show (7, (0 + n / 8 * 8 + 16 * (n % 8) / 16) % 2 ^ 32) = (7, n)
        congr 1
        omega
  have hn : ((0, 0) :: (List.range 512).map (fun n => (7, n)) : List (Nat × Nat)).Nodup := by
    rw [List.nodup_cons]
    refine ⟨by simp, List.nodup_range.map fun a b h => by simpa using h⟩
  have hl := (List.subperm_of_subset hn hm).length_le
  simp only [List.length_cons, List.length_map, List.length_range] at hl
  unfold JointOp.twoPass
  rw [Bool.and_eq_true]
  exact ⟨rfl, List.any_eq_true.mpr ⟨0, by decide, decide_eq_true (by omega)⟩⟩

theorem twoPass_recs (o : JointOp) (r r1 : List (Nat × Nat × Nat × W32)) : ({ o with recs := r, recs1 := r1 } : JointOp).twoPass = o.twoPass := rfl
theorem passKeys_recs (o : JointOp) (r r1 : List (Nat × Nat × Nat × W32)) (p : Bool) :
    passKeys { o with recs := r, recs1 := r1 } p = passKeys o p := rfl

theorem find_self (o : JointOp) : [o].find? (·.id == o.id) = some o := by simp
theorem sideVas_plain (o : JointOp) (b : Block) (recs : List (List W64)) (p : Bool) (ha : fmtElem o.af ≠ 0x24)
    (hb : fmtElem o.bf ≠ 0x24) : sideVas o b recs p = [] := by
  have hn : ∀ l : List Nat, l.flatMap (fun _ => ([] : List Nat)) = [] := fun l => by simp [List.flatMap_eq_nil_iff]
  unfold sideVas
  simp only [ha, hb, false_and, if_false, hn, List.append_nil, List.eraseDups_nil]
  split <;> rfl

theorem passKeys_bind (s : State) (o : JointOp) (p q : Bool) : passKeys (bindRecs s o p) q = passKeys o q := rfl

/-- The operation with records at hand, and as its second pass binds them. -/
def tp2r (r : List (Nat × Nat × Nat × W32)) : JointOp := { tp2 with recs := r }
def tp2b (r : List (Nat × Nat × Nat × W32)) : JointOp := bindRecs (tso (tp2r r)) { tp2r r with recs := [], recs1 := r } true

theorem tp2_runs (r : List (Nat × Nat × Nat × W32)) : OpRuns (tso (tp2r r)) (tp2r r) tbp tc :=
  ⟨find_self _, rfl, rfl, rfl, rfl, rfl, rfl, rfl, rfl⟩

theorem tp2b_keys (r : List (Nat × Nat × Nat × W32)) : passKeys (tp2b r) true = passKeys tp2 true :=
  (passKeys_bind _ _ _ _).trans ((passKeys_recs (tp2r r) _ _ _).trans (passKeys_recs tp2 r tp2.recs1 _))
theorem tp2b_recs1 (r : List (Nat × Nat × Nat × W32)) : (tp2b r).recs1 = r := rfl

theorem tp2_missing (r : List (Nat × Nat × Nat × W32)) (h : ∀ k ∈ passKeys tp2 true, (k.1, k.2.1, k.2.2, 0) ∈ r) :
    missingKeys (tp2b r) true = [] := by
  unfold missingKeys
  rw [List.filter_eq_nil_iff, tp2b_keys]
  intro k hk
  unfold recOf
  rw [Bool.not_eq_true, Option.isNone_eq_false_iff, Option.isSome_map, List.find?_isSome, tp2b_recs1]
  exact ⟨_, List.mem_append_right _ (h k hk), by simp⟩

theorem tp2_side (r : List (Nat × Nat × Nat × W32)) : sideVas (tp2b r) tbp (recordsOf (tso (tp2r r)) 11) true = [] := by
  have ha : (tp2b r).af = 0x15 := by
    show bits tp2.fmt 7 0 = 0x15
    decide
  have hb : (tp2b r).bf = 0x13 := by
    show bits tp2.fmt 15 8 = 0x13
    decide
  exact sideVas_plain _ _ _ _ (by rw [ha]; decide) (by rw [hb]; decide)

/-- The records of its second pass are at hand. -/
theorem witness_MatrixEvents_secondPass : ∃ r,
    OpRuns (tso (tp2r r)) (tp2r r) tbp tc ∧ (tp2r r).st = .started ∧ (tp2r r).recs1 = [] ∧ (tp2r r).twoPass = true ∧
      missingKeys (tp2b r) true = [] ∧ sideVas (tp2b r) tbp (recordsOf (tso (tp2r r)) 11) true = [] :=
  ⟨_, tp2_runs _, rfl, rfl, (twoPass_recs tp2 _ _).trans tp2_twoPass, tp2_missing _ fun k hk => List.mem_map.mpr ⟨k, hk, rfl⟩, tp2_side _⟩

/-- An `mma` of INT8 by INT8 whose operands are covered. -/
def tom : JointOp :=
  { to1 (.mma { d := 3 }) .started with fmt := 0x0B0B, abad := [0, 0, 0, 0], stamps := [0, 0, 0, 0], covered := some [] }

theorem witness_MatrixIntegerSums : OpRuns (tso tom) tom tbp tc ∧ tom.kind = 0 ∧ tom.st = .started ∧ tom.classI = true ∧
    (∀ q ∈ tom.abad, q = 0) ∧ (∀ q ∈ (tso tom).ops, q.abad.length ≤ 4) ∧
    (∀ i < 4, ∀ w, findWarp (tso tom) (tom.warps.getD i 0) = some w →
      ∀ r < aRegs tom.af tom.bf, w.lanesSince (tom.f.a.toNat + r) (tom.stamps.getD i 0) = 0) ∧
    ∀ follower, ∀ k < tom.k, ∀ j < 64, bBad tom tbp follower k j = false := by
  refine ⟨⟨rfl, rfl, rfl, rfl, rfl, rfl, rfl, rfl, rfl⟩, rfl, rfl, by decide, ?_, by decide +kernel, ?_, ?_⟩
  · simp [tom, to1]
  · have h : ∀ w ∈ (tso tom).warps, w.vstamp = [] := by decide +kernel
    intro i _ w hw r _
    simp [Warp.lanesSince, h w (List.mem_of_find?_eq_some hw)]
  · have h : tbp.spadStamp = [] := rfl
    intro follower k _ j _
    simp [bBad, tom, to1, h]

/-- A warp with `n` fences; the last covers an access that is outstanding in the second state. -/
def twf (n : Nat) : Warp :=
  { tw with
    fenceNo := BitVec.ofNat 16 n
    fences := (List.range n).map fun i => { token := BitVec.ofNat 16 (i + 1), kinds := 1, scope := .device, accesses := [40], engines := [] } }

/-- The same with one fence, and s4 = 1. -/
def twf4 : Warp := { twf 1 with slices := tabFill { active := 0 } 8 { active := 15, s := [(4, 1)] } }

theorem witness_Fences :
    (∃ f, Issues (withWarp (twf 15)) (twf 15) tg f ∧ (twf 15).fences.length < 16) ∧
    (∃ f, Issues (withWarp (twf 16)) (twf 16) tg f ∧ 16 ≤ (twf 16).fences.length) ∧
    (∃ f, Issues (withWarp (twf 1)) (twf 1) tg f ∧ ∀ t ∈ (twf 1).fences, Performed (withWarp (twf 1)) (twf 1) t) ∧
    (∃ s w f, Issues s w tg f ∧ ∃ t ∈ w.fences,
      decide ((((exeOf s w tg f).s f.a.toNat).setWidth 16 - t.token).toNat < 32768) = true ∧ ¬ Performed s w t) := by
  refine ⟨⟨{ imm := 7 }, iss rfl rfl, by decide⟩, ⟨{ imm := 7 }, iss rfl rfl, by decide⟩, ⟨{}, iss rfl rfl, fun t h => ?_⟩,
    ⟨{ withWarp twf4 with outs := [{ tout with flag := none }] }, twf4, { a := 4 }, iss rfl rfl, _, .head _, by decide +kernel,
      fun h => h.1 40 (by decide) { tout with flag := none } (.head _) rfl⟩⟩
  have h2 : t = { token := 1, kinds := 1, scope := .device, accesses := [40], engines := [] } := by simpa [twf] using h
  subst h2
  exact ⟨fun _ _ o ho => by simp [withWarp] at ho, fun _ hi => by simp at hi, fun _ hn => by simp at hn⟩

/-- Barrier 15 of the block, as given. -/
def tsbar (b : Barrier) : State := { withWarp (twr [(4, 0xFFFF), (5, 1), (6, 0x10000)]) with bars := [b] }
def tbar (arrived : List Nat) : Barrier := { owner := .block 11, idx := 15, arrived, p := 0 }
def fBar4 (a : BitVec 8) (name : W32) : Fields := { sc := true, a, bk := .imm, imm := name }

theorem witness_Barriers :
    (∃ w f, Issues (withWarp w) w tg f ∧ findBlock (withWarp w) w.block = some tb ∧ findLaunch (withWarp w) tb.launch = some tl ∧
      barNamed w tb tl (bits f.imm 15 0) = none) ∧
    (∀ a ∈ [4, 5, 6], ∃ w f, Issues (tsbar (tbar [])) w tg f ∧ f.a = a ∧ barNamed w tb tl (bits f.imm 15 0) = some (.block 11, 15) ∧
      barAt (tsbar (tbar [])) (.block 11) 15 = tbar [] ∧ farPending (tsbar (tbar [])) w = false ∧
      ((exeOf (tsbar (tbar [])) w tg f).s 4).toNat = 0xFFFF ∧ passed (tbar []) 0xFFFF = true ∧ passed (tbar []) 1 = false ∧
      bits ((exeOf (tsbar (tbar [])) w tg f).s 5) 15 0 ≠ 0 ∧ bits ((exeOf (tsbar (tbar [])) w tg f).s 6) 63 16 ≠ 0 ∧
      ∀ v ∈ (tsbar (tbar [])).warps, v.block = w.block → v.id = w.id ∨ v.id ∈ (tbar []).arrived) ∧
    (∃ w f, Issues (tsbar (tbar [12])) w tg f ∧ barNamed w tb tl (bits f.imm 15 0) = some (.block 11, 15) ∧
      (barAt (tsbar (tbar [12])) (.block 11) 15).arrived.contains w.id = true) ∧
    (∃ w f, Issues (withWarp w) w tg f ∧ barNamed w tb tl (bits f.imm 15 0) = some (.warp 12, 3)) ∧
    (let s := { tsbar (tbar [12]) with deliveries := [⟨90, .block 11, 15⟩] };
      ∃ d, s.deliveries.find? (·.id == d.id) = some d ∧ findBlock s tb.id = some tb ∧ tb.ended = false ∧ d.owner = .block tb.id ∧
        (∀ v ∈ s.warps, v.block = tb.id → v.id ∈ (tbar [12]).arrived)) :=
  ⟨⟨tw, fBar4 4 16, iss rfl rfl, by decide +kernel⟩, fun a ha => ⟨_, fBar4 a 0x10F, iss rfl rfl, rfl, by revert a; decide +kernel⟩,
    ⟨_, fBar4 4 0x10F, iss rfl rfl, by decide +kernel⟩, ⟨tw, fBar4 4 3, iss rfl rfl, by decide +kernel⟩,
    ⟨90, .block 11, 15⟩, by decide +kernel⟩

/-- Of the slices of a `bar.arv`, those that are still to arrive, and of them those that can arrive in the open phase. -/
def arvTodo (s : State) (w : Warp) (f : Fields) : List Nat := (exeOf s w tg f).slices.filter fun j => !bit tg.part j
def arvNow (s : State) (w : Warp) (f : Fields) (B : Barrier) : List Nat :=
  (arvTodo s w f).filter fun j => !(B.arrived.contains w.id || (B.part.find? (·.1 == w.id)).any fun p => bit p.2 j)

/-- All slices arrive; four of them have; all have. -/
theorem witness_Barriers_slices : ∀ b ∈ [tbar [], { tbar [] with part := [(12, 15)] }, tbar [12]],
    ∃ w f, Issues (tsbar b) w tg f ∧ barNamed w tb tl (bits f.imm 15 0) = some (.block 11, 15) ∧ farPending (tsbar b) w = false ∧
      barAt (tsbar b) (.block 11) 15 = b ∧ arvTodo (tsbar b) w f ≠ [] ∧
      (arvNow (tsbar b) w f b = if b.part = [] then if b.arrived = [] then arvTodo (tsbar b) w f else [] else [4, 5, 6, 7]) :=
  fun b hb => ⟨_, fBar4 4 0x10F, iss rfl rfl, by revert b; decide +kernel⟩

/-- A warp whose request of `grow` to 128 waits. -/
def twg : Warp := { tw with groups := [{ tg with wait := .grow }] }
def tsg (clk : Nat) : State := { withWarp twg with growWait := [⟨12, 255, 128⟩], coreClk := [(0, clk)] }

theorem witness_RegisterLimits :
    (∃ f, Issues ts tw tg f ∧ maxLimitOf (popped ts tw f) tw < f.imm.toNat) ∧
    (∃ f, Issues ts tw tg f ∧ f.imm.toNat ≤ maxLimitOf (popped ts tw f) tw ∧ f.imm.toNat ≤ tw.limit) ∧
    (∃ f, Issues ts tw tg f ∧ f.imm.toNat ≤ maxLimitOf (popped ts tw f) tw ∧ tw.limit < f.imm.toNat ∧
      Growable (popped ts tw f) tw f.imm.toNat) ∧
    (let s := { ts with growWait := [⟨13, 255, 64⟩], warps := [tw, { tw with id := 13 }] };
      ∃ f, Issues s tw tg f ∧ f.imm.toNat ≤ maxLimitOf (popped s tw f) tw ∧ tw.limit < f.imm.toNat ∧
        ¬ Growable (popped s tw f) tw f.imm.toNat) ∧
    (growQueue (tsg 0) 0 0 = [⟨12, 255, 128⟩] ∧ findWarp (tsg 0) 12 = some twg ∧ 128 - twg.limit ≤ poolFree (tsg 0) 0 0 ∧
      twg.groups.find? (fun g => g.slices == 255 && g.wait == .grow) = some { tg with wait := .grow }) ∧
    (let ws := (tsg 1024).warps.filter fun w => w.resident && w.core == 0;
      (∀ w ∈ ws, (∃ g ∈ w.groups, g.wait = .grow) ∧ ∀ g ∈ w.groups, g.wait = .grow ∨ g.wait = .arrived) ∧
      tabGet 0 (tsg 1024).growClk 0 + 1024 ≤ tabGet 0 (tsg 1024).coreClk 0 ∧
      ∃ r ∈ (tsg 1024).growWait, ws.find? (·.id == r.warp) = some twg) ∧
    (∃ w ∈ ts.warps, w.resident = true ∧ w.core = 0 ∧ ∃ g ∈ w.groups, g.wait ≠ .grow ∧ g.wait ≠ .arrived) := by
  unfold Growable
  exact ⟨⟨{ imm := 288 }, ts_issues _ rfl, by decide +kernel⟩, ⟨{ imm := 96 }, ts_issues _ rfl, by decide +kernel⟩,
    ⟨{ imm := 256 }, ts_issues _ rfl, by decide +kernel⟩, ⟨{ imm := 128 }, iss rfl rfl, by decide +kernel⟩, by decide +kernel⟩

/-- Active warps of quadrant 0, all with a wait and a place, and a ready one that is not active, at a core clock. -/
def tsw (n : Nat) (wait : Wait) (place : Place) (clk : Nat) : State :=
  { ts with
    warps := (List.range n).map (fun i => { tw with id := 20 + i, groups := [{ tg with wait, ready := wait == .none }], place }) ++
      [{ tw with place := { active := false } }]
    coreClk := [(0, clk)] }

/-- The occupants of that quadrant. -/
def tsq (n : Nat) (wait : Wait) (place : Place) (clk : Nat) : List Occupant :=
  occupants ((tsw n wait place clk).warps.filter fun w => w.resident && w.core == 0 && w.quad == 0)

/-- A warp parted into seven slices and one, in the queued class. -/
def twp : Warp := { tw with groups := [{ slices := 127, pc := 0 }, { slices := 128, pc := 5 }], runs := 127 }

theorem witness_QuadrantEvents :
    (∀ p ∈ [(7, Wait.none, ({} : Place), 0), (8, .stall, {}, 0), (8, .none, { yields := true }, 0), (8, .none, {}, 4096), (8, .none, {}, 4095)],
      ∃ o ∈ tsq p.1 p.2.1 p.2.2.1 p.2.2.2, o.place.active = false ∧ (o.next (tsw p.1 p.2.1 p.2.2.1 p.2.2.2)).isSome = true) ∧
    ((tsq 7 .none {} 0).filter (·.place.active)).length < 8 ∧
    (8 ≤ ((tsq 8 .stall {} 0).filter (·.place.active)).length ∧
      ∃ o ∈ (tsq 8 .stall {} 0).filter (·.place.active), o.stalled (tsw 8 .stall {} 0) = true) ∧
    (let y : Place := { yields := true };
      8 ≤ ((tsq 8 .none y 0).filter (·.place.active)).length ∧
      (∀ o ∈ (tsq 8 .none y 0).filter (·.place.active), o.stalled (tsw 8 .none y 0) = false) ∧
      ∃ o ∈ (tsq 8 .none y 0).filter (·.place.active), o.place.yields = true) ∧
    (∀ clk ∈ [4095, 4096], 8 ≤ ((tsq 8 .none {} clk).filter (·.place.active)).length ∧
      (∀ o ∈ (tsq 8 .none {} clk).filter (·.place.active), o.stalled (tsw 8 .none {} clk) = false ∧ o.place.yields = false) ∧
      tabGet 0 (tsw 8 .none {} clk).coreClk 0 = clk ∧
      ∀ o ∈ tsq 8 .none {} clk, o.place.active = false → o.place.readySince = 0) ∧
    (let s := withWarp twp;
      ∃ g, findWarp s twp.id = some twp ∧ findBlock s twp.block = some tb ∧ taskClass s tb = true ∧ twp.resident = true ∧
        twp.groups.find? (fun g => bit g.slices 7) = some g ∧ 1 < twp.groups.length ∧ g.frag = none ∧ g.wait ≠ .arrived ∧
        2 * (slicesOf g.slices).length < ((List.range 8).filter fun j => (twp.slice j).active != 0).length ∧
        0 < freePlaces s (feetOn s 0 none) 0 ∧
        ((quadPlaces (s.warps.filter fun v => v.resident && v.core == 0 && v.quad == 0)).filter (!·.active)).length < 8) := by
  refine ⟨?_, ?_, ?_, ?_, ?_, { slices := 128, pc := 5 }, ?_⟩ <;> decide +kernel


/-- Memory that holds the words given, at rising addresses, and zeros elsewhere. -/
def tmem (ws : List (Nat × W64)) : Tab Byte :=
  (ws.flatMap fun p => (toBytes 8 p.2.toNat).mapIdx fun i b => (p.1 + i, b)).filter fun p => p.2 != 0

/-- A launch record at 0x30000, its kernel header after it; a message queue at 0x40000 with WR and RD; a stage table at 0x41000. -/
def tmem0 (wr rd : W64) : Tab Byte :=
  tmem [(0x30000, 0x30040), (0x30008, 0x20100000001), (0x30010, 7), (0x30040, 0x10000), (0x30058, 0x1000000000), (0x40000, 0x50000),
    (0x40010, wr), (0x40018, rd), (0x41000, 0x00400001), (0x41010, 0x60000), (0x41030, 0x70000), (0x41040, 0x80000)]

def th : HwQueue := { num := 255, ctx := 0, rbase := 0x30000, clog := 0, prio := 3, dl := false, maxout := 0, en := true, rdva := 0x42000 }
def tker : Kernel := { entry := 5120, scr := 65536, maxLimit := 64 }

/-- The package with that memory and a queue. -/
def tsm (wr rd : W64) (w : Warp) : State := { withWarp w with mem := tmem0 wr rd, queues := [th] }
def twm : Warp := twr [(4, 0x30000), (5, 0x40000), (6, 0x41000), (8, 1)]

/-- Sixty-four records wait already. -/
def tsfull : State :=
  { tsm 0 0 twm with launches := tl :: (List.range 64).map fun i => { tl with id := 100 + i, queue := some 255, next := 0 } }

/-- What a reader finds after a read that succeeds. -/
theorem ok_any {ε α : Type} {e : Except ε α} {P : α → Bool} (h : e.toOption.any P = true) : ∃ q, e = .ok q ∧ P q = true := by
  cases e with
  | error _ => cases h
  | ok q => exact ⟨q, rfl, h⟩

/-- The words of a record of the queued class that waits for no counter, for the kernel above. -/
def plainAt (s : State) (c : Ctx) (r : List W64) : Bool :=
  (readKernel s c r).toOption.any fun y => decide (y.2 = tker ∧ bits (r.getD 1 0) 43 40 = 2 ∧ bit (r.getD 3 0) 12 = false)

theorem witness_TasksAndPermits_spawn :
    (∃ f xs, Issues (tsm 0 0 twm) twm tg f ∧ findCtx (tsm 0 0 twm) twm.ctx = some tc ∧
      (tsm 0 0 twm).queues.find? (·.num == bits f.imm 7 0) = some th ∧ th.ctx = tc.slot ∧ th.en = true ∧ th.unbinding = false ∧
      ((exeOf (tsm 0 0 twm) twm tg f).s f.a.toNat).toNat = 0x30000 ∧
      checkBytes (popped (tsm 0 0 twm) twm f) tc needFrontRead 0x30000 64 = .ok xs ∧ queueSpace (tsm 0 0 twm) th = true) ∧
    (∃ f q r bs s', releaseBefore (popped (tsm 0 0 twm) twm f) (exeOf (tsm 0 0 twm) twm tg f) (some .device) = .ok q ∧
      frontRead q.1 tc 0x30000 64 = .ok (r, bs) ∧ PlainRecord r tc th (recordWords bs) s' tker) ∧
    (∃ f, Issues tsfull twm tg f ∧ queueSpace tsfull th = false) := by
  refine ⟨⟨{ a := 4, imm := 255 }, _, iss rfl rfl, by decide +kernel, by decide +kernel, rfl, rfl, rfl, by decide +kernel,
    (show _ = Except.ok ((List.range 64).map fun i => txl (0x30000 + i)) by decide +kernel), by decide +kernel⟩,
    ?_, ⟨{ a := 4, imm := 255 }, iss rfl rfl, by decide +kernel⟩⟩
  obtain ⟨q, hq, h⟩ := ok_any (e := releaseBefore (popped (tsm 0 0 twm) twm { a := 4 }) (exeOf (tsm 0 0 twm) twm tg { a := 4 }) (some .device))
    (P := fun q => (frontRead q.1 tc 0x30000 64).toOption.any fun p => plainAt p.1 tc (recordWords p.2)) (by decide +kernel)
  obtain ⟨⟨r, bs⟩, hr, h⟩ := ok_any h
  obtain ⟨⟨s', k⟩, hk, h⟩ := ok_any h
  obtain ⟨rfl, h2, h3⟩ := of_decide_eq_true h
  exact ⟨_, q, r, bs, s', hq, hr, hk, h2, h3, rfl⟩

theorem nearest_fold {ok : Nat → Bool} (stack : Nat) (l : List Nat) : ∀ r : Option Nat, (∀ c, r = some c → ok c = true) →
    (r.isSome = true ∨ ∃ c ∈ l, ok c = true) →
    ∃ c, ok c = true ∧ (c ∈ l ∨ r = some c) ∧ l.foldl (fun r core => match r with
      | none => if ok core then some core else none
      | some best => if Config.meshHops core stack < Config.meshHops best stack && ok core then some core else some best) r = some c := by
  induction l with
  | nil => intro r ha h; obtain ⟨c, rfl⟩ := Option.isSome_iff_exists.mp (h.resolve_right (by simp)); exact ⟨c, ha c rfl, .inr rfl, rfl⟩
  | cons x l ih =>
    intro r ha h
    have step : ∀ r' : Option Nat, (∀ c, r' = some c → ok c = true) → (r'.isSome = true ∨ ∃ c ∈ l, ok c = true) →
        (∀ c, r' = some c → c = x ∨ r = some c) → ∃ c, ok c = true ∧ (c ∈ x :: l ∨ r = some c) ∧ l.foldl (fun r core => match r with
          | none => if ok core then some core else none
          | some best => if Config.meshHops core stack < Config.meshHops best stack && ok core then some core else some best) r' = some c :=
      fun r' h1 h2 h3 => by
        obtain ⟨c, hc, hm, e⟩ := ih r' h1 h2
        refine ⟨c, hc, ?_, e⟩
        rcases hm with hm | hm
        · exact .inl (List.mem_cons_of_mem _ hm)
        · rcases h3 c hm with rfl | h
          · exact .inl List.mem_cons_self
          · exact .inr h
    rw [List.foldl_cons]
    cases r with
    | none =>
      dsimp only
      split
      · next hx => exact step (some x) (fun c h => Option.some.inj h ▸ hx) (.inl rfl) fun c h => .inl (Option.some.inj h).symm
      · next hx =>
        refine step none (fun c h => by cases h) (.inr ?_) fun c h => by cases h
        obtain ⟨c, hc, ho⟩ := h.resolve_left (by simp)
        rcases List.mem_cons.mp hc with rfl | hc
        · exact absurd ho hx
        · exact ⟨c, hc, ho⟩
    | some y =>
      dsimp only
      split
      · next hx =>
        rw [Bool.and_eq_true] at hx
        exact step (some x) (fun c h => Option.some.inj h ▸ hx.2) (.inl rfl) fun c h => .inl (Option.some.inj h).symm
      · exact step (some y) ha (.inl rfl) fun c h => .inr h

theorem nearest_some {ok : Nat → Bool} {stack d : Nat} {cores : List Nat} (hd : d ∈ cores) (h : ok d = true) :
    ∃ c ∈ cores, ok c = true ∧ nearest ok stack cores = some c := by
  obtain ⟨c, ho, hc, e⟩ := nearest_fold (ok := ok) stack cores none (fun c h => by cases h) (.inr ⟨d, hd, h⟩)
  exact ⟨c, hc.resolve_right (by simp), ho, e⟩

/-- A queued block of one warp on a core. -/
def tbm (core scr : Nat) : Block := { tb with core, scr }
def twmig (core : Nat) : Warp := { tw with core }
def tsmig (core scr : Nat) : State := { withWarp (twmig core) with blocks := [tbm core scr] }
def tsmig1 (s : State) (core : Nat) : State := setWarp (popped s (twmig core) {}) ((twmig core).setGroup { tg with wait := .migrate })

/-- On core 100 with cores of die 0 free it would move. -/
theorem tsmig_target : ∃ core berth, migrateTarget (tsmig1 (tsmig 100 65536) 100) (tbm 100 65536) 0 = some (core, some berth) := by
  have key : ∀ (ok : Nat → Bool) (f : Nat → Option Berth), ok 0 = true → (∀ c, c ≠ 100 → ok c = true → (f c).isSome = true) →
      ∃ core berth, (nearest ok 0 ((List.range 96).map (0 / 4 * 96 + ·))).map (fun c => (c, if c = 100 then none else f c)) =
        some (core, some berth) := fun ok f h0 hf => by
    obtain ⟨c, hc, ho, e⟩ := nearest_some (stack := 0) (cores := (List.range 96).map (0 / 4 * 96 + ·)) (by decide) h0
    have hn : c ≠ 100 := fun h => by subst h; simp at hc
    obtain ⟨b, hb⟩ := Option.isSome_iff_exists.mp (hf c hn ho)
    exact ⟨c, b, by rw [e, Option.map_some, if_neg hn, hb]⟩
  exact key _ _ (by decide +kernel) fun c hn h => by
    rcases Bool.or_eq_true _ _ ▸ h with h | h
    · exact absurd (eq_of_beq h) hn
    · exact (Bool.and_eq_true _ _ ▸ h).2

/-- The same on core 5, every other core being in a fused cluster: it stays. -/
def tsstay : State := { tsmig 5 65536 with fused := List.range 48 }
theorem tsstay_target : migrateTarget (tsmig1 tsstay 5) (tbm 5 65536) 0 = some (5, none) := by
  have key : ∀ (ok : Nat → Bool) (f : Nat → Option Berth), ok 5 = true → (∀ c ∈ (List.range 96).map (0 / 4 * 96 + ·), ok c = true → c = 5) →
      (nearest ok 0 ((List.range 96).map (0 / 4 * 96 + ·))).map (fun c => (c, if c = 5 then none else f c)) = some (5, none) := fun ok f h5 hf => by
    obtain ⟨c, hc, ho, e⟩ := nearest_some (stack := 0) (cores := (List.range 96).map (0 / 4 * 96 + ·)) (by decide) h5
    rw [e, hf c hc ho]
    rfl
  have closed : ∀ c < 96, clusterOpen (tsmig1 tsstay 5) (tbm 5 65536).launch (clusterOf c) = false := by decide +kernel
  exact key _ _ rfl fun c hc h => by
    obtain ⟨i, hi, rfl⟩ := List.mem_map.mp hc
    rcases Bool.or_eq_true _ _ ▸ h with h | h
    · exact eq_of_beq h
    · have := (Bool.and_eq_true _ _ ▸ h).1
      have shut := closed (0 / 4 * 96 + i) (by simpa using hi)
      exact absurd this (by rw [shut]; decide)

def tpr (o : PermOwner) (n : Nat) : PermReq := { owner := o, n, deadline := false }

/-- Permits of die 3: none waits above a lowered limit, or one does and the rest of the limit is there. -/
def tsperm (d : Die) : State := { ts with dies := [(3, d)] }
def grants (s : State) (r : PermReq) : Prop :=
  let d := getDie s 3
  (d.above = false ∨ d.out < permax d.profile) ∧ d.out - reservedOn s 3 + r.n ≤ permax d.profile

theorem witness_TasksAndPermits :
    (∀ core ∈ [5, 100], ∀ scr ∈ [65536, 65537], Issues (tsmig core scr) (twmig core) tg {} ∧
      findBlock (tsmig core scr) (twmig core).block = some (tbm core scr) ∧ (tbm core scr).pair = false ∧
      taskClass (tsmig core scr) (tbm core scr) = true ∧ (twmig core).groups = [tg] ∧ tg.frag = none ∧ (twmig core).idx = 0 ∧
      (tsmig core scr).warps.filter (·.block == 11) = [twmig core] ∧ findCtx (tsmig core scr) (tbm core scr).ctx = some tc ∧
      bits tg.word 35 28 = 0 ∧
      checkByte (tsmig1 (tsmig core scr) core) tc { perm := 0, acc := 7, anyCell := true, peer := false }
        (((twmig core).readS (firstSlice (twmig core) tg) 0).toNat) = .ok (txl 0) ∧ homeOf (tsmig1 (tsmig core scr) core) 0 = 0) ∧
    (Issues tsstay (twmig 5) tg {} ∧ migrateTarget (tsmig1 tsstay 5) (tbm 5 65536) 0 = some (5, none)) ∧
    (∃ core berth, migrateTarget (tsmig1 (tsmig 100 65536) 100) (tbm 100 65536) 0 = some (core, some berth)) ∧
    blockIdle (tsmig1 (tsmig 100 65536) 100) (tbm 100 65536) = true ∧
    (let s := { tsmig 100 65536 with cmds := [{ tk1 with core := 100 }] }; blockIdle s (tbm 100 65536) = false) ∧
    (let r := tpr (.warp 12 255) 64;
      considered (getDie (tsperm { waiting := [r] }) 3) = some r ∧ findWarp (tsperm { waiting := [r] }) 12 = some tw ∧
      grants (tsperm { waiting := [r] }) r) ∧
    (∀ d ∈ [({ out := 63 } : Die), { out := 63, above := true }],
      considered (getDie (tsperm { d with waiting := [tpr (.joint 80) 1] }) 3) = some (tpr (.joint 80) 1) ∧
      grants (tsperm { d with waiting := [tpr (.joint 80) 1] }) (tpr (.joint 80) 1)) ∧
    (∀ d ∈ [({ out := 64 } : Die), { out := 63, above := true, profile := 2 }],
      ¬ grants (tsperm { d with waiting := [tpr (.joint 80) 1] }) (tpr (.joint 80) 1)) ∧
    considered { profile := 3, hot := true, waiting := [tpr (.joint 80) 1, { tpr (.joint 81) 1 with deadline := true }] }
      = some { tpr (.joint 81) 1 with deadline := true } := by
  unfold grants
  refine ⟨fun core hc scr hs => ⟨iss rfl rfl, by revert core scr; decide +kernel⟩, ⟨iss rfl rfl, tsstay_target⟩, tsmig_target, ?_⟩
  decide +kernel

/-- A launch of the same kernel with a block still to place, and one all of whose blocks have ended. -/
def tl0 : Launch := { tl with id := 15, next := 0, nwarp := 4, kernel := tker }
def tle (crep : W64) : Launch := { tl with endedBlocks := 1, crep }

/-- A queue with one record to accept. -/
def th1 : HwQueue := { th with wrc := 1 }
def tsh : State := { tsm 0 0 twm with queues := [th1] }

/-- Its context's record at the ring's place, as the front end reads, accepts and reports it. -/
theorem accept_witness : ∃ s1 bs s2 k a v t1,
    frontRead tsh tc ((th1.rbase + 64 * (th1.rd.toNat % 2 ^ (6 + th1.clog))) % 2 ^ 64) 64 = .ok (s1, bs) ∧
    PlainRecord s1 tc th1 (recordWords bs) s2 k ∧ acceptRecord s1 tc th1.num th1.prio th1.dl (recordWords bs) = some (a, v) ∧
    frontWrite { a with queues := a.queues.map fun q => if q.num = th1.num then { th1 with rd := th1.rd + 1 } else q } tc th1.rdva
      (toBytes 8 (th1.rd + 1).toNat) = .ok t1 := by
  obtain ⟨⟨s1, bs⟩, hr, h⟩ := ok_any
    (e := frontRead tsh tc ((th1.rbase + 64 * (th1.rd.toNat % 2 ^ (6 + th1.clog))) % 2 ^ 64) 64)
    (P := fun p => plainAt p.1 tc (recordWords p.2) && (acceptRecord p.1 tc th1.num th1.prio th1.dl (recordWords p.2)).any fun a =>
      (frontWrite { a.1 with queues := a.1.queues.map fun q => if q.num = th1.num then { th1 with rd := th1.rd + 1 } else q } tc th1.rdva
        (toBytes 8 (th1.rd + 1).toNat)).toOption.isSome) (by decide +kernel)
  rw [Bool.and_eq_true, Option.any_eq_true] at h
  obtain ⟨h, ⟨a, v⟩, ha, hw⟩ := h
  obtain ⟨⟨s2, k⟩, hk, h⟩ := ok_any h
  obtain ⟨-, h2, h3⟩ := of_decide_eq_true h
  obtain ⟨t1, ht⟩ := ok_of hw
  exact ⟨s1, bs, s2, k, a, v, t1, hr, ⟨hk, h2, h3, rfl⟩, ha, ht⟩

theorem witness_DispatcherEvents :
    ((tsm 0 0 twm).queues.find? (·.num == th.num) = some th ∧ findCtx (tsm 0 0 twm) th.ctx = some tc ∧
      fltFull (tsm 0 0 twm) tc = false ∧ (0x7FFFFFFFFFFFFFFF - th.wrc).toNat < 2 ^ 63 ∧ 2 ^ 63 ≤ (0x8000000000000000 - th.wrc).toNat) ∧
    (tsh.queues.find? (·.num == th1.num) = some th1 ∧ findCtx tsh th1.ctx = some tc ∧ tc.loaded = true ∧ th1.en = true ∧
      th1.unbinding = false ∧ th1.wrc ≠ th1.rd ∧ (th1.wrc - th1.rd).toNat ≤ 2 ^ (6 + th1.clog) ∧ queueSpace tsh th1 = true) ∧
    (let s := { ts with launches := [tl, tl0] };
      ranked s = [tl0] ∧ findCtx s tl0.ctx = some tc ∧ tl0.cls = 2 ∧ savedBlocks s tl0 = [] ∧ tl0.next < tl0.nblk ∧
        tl0.ssize = 0 ∧ tl0.kernel.pair = false ∧ s.launches.find? (·.id == tl0.id) = some tl0 ∧ (∀ m ∈ s.launches, m.fuse = false) ∧
        chooseBerth s [] tl0.shape tl0.deadline (affStack s tc tl0.aff) (fun k => clusterOpen s tl0.id (clusterOf k)) = some { core := 0, base := 65536 }) ∧
    (∀ clk ∈ [2 ^ 20, 0], let s := { ts with launches := [tl, tl0], clk };
      findLaunch s tl0.id = some tl0 ∧ hasWork s tl0 = true ∧ tl0.reserves = none ∧ tl0.aff = 0 ∧
        ((tl0.prio + 1) * 2 ^ s.prioShift ≤ s.clk - tl0.readyAt ↔ clk = 2 ^ 20)) ∧
    (let w := { tw with groups := [] };
      findWarp (withWarp w) w.id = some w ∧ w.f = [] ∧ w.resident = true ∧ findBlock (withWarp w) w.block = some tb ∧ w.resv = [] ∧
      findLaunch (withWarp w) tb.launch = some tl ∧ tb.slot = none ∧ (∀ m ∈ (withWarp w).launches, m.fuse = false) ∧
      (∀ h ∈ (withWarp w).held, h.block ≠ tb.id) ∧ ∀ v ∈ (withWarp w).warps, v.id ≠ w.id → v.block ≠ tb.id) ∧
    (∀ crep ∈ [0, 0x43000], let s := { ts with launches := [tle crep] };
      findLaunch s 10 = some (tle crep) ∧ ctxRuns s 0 = true ∧ (tle crep).status = none ∧ (tle crep).fails = [] ∧
      (tle crep).endedBlocks = (tle crep).nblk ∧ (∀ b ∈ s.blocks, b.launch = 10 → hasCommands s b.id = false) ∧
      (∀ m ∈ s.launches, m.fuse = false) ∧ (tle crep).sctr = none ∧
      (∃ t1, frontWrite s tc 0x43000 (wordsToBytes [0, BitVec.ofNat 64 s.now]) = .ok t1)) := by
  refine ⟨?_, ?_, ?_, ?_, ?_, fun crep h => ?_⟩
  case refine_6 =>
    simp only [List.mem_cons, List.not_mem_nil, or_false] at h
    rcases h with rfl | rfl <;> (refine ⟨?_, ?_, ?_, ?_, ?_, ?_, ?_, ?_, ok_of ?_⟩ <;> decide +kernel)
  all_goals decide +kernel

theorem asLeft_none {s : State} {desc : Nat} (h : s.queueLeft = []) : AsLeft s desc := fun e he => by rw [h] at he; cases he

theorem witness_MessageQueues :
    (∀ p ∈ [((0 : W64), (0 : W64)), (64, 0)], ∃ f, Issues (tsm p.1 p.2 twm) twm tg f ∧
      findCtx (tsm p.1 p.2 twm) twm.ctx = some tc ∧ isHbm 0x40000 = true ∧ queueCause (tsm p.1 p.2 twm) 0x40000 = none ∧
      Calm (tsm p.1 p.2 twm) ∧ AsLeft (tsm p.1 p.2 twm) 0x40000 ∧ tiedFlag tg f = none ∧ ((exeOf (tsm p.1 p.2 twm) twm tg f).s f.a.toNat).toNat = 0x40000 ∧
      (∃ xs, checkBytes (popped (tsm p.1 p.2 twm) twm f) tc needQueue 0x40000 64 = .ok xs ∧ (xs.head?.map (·.pa)) = some 0x40000) ∧
      capOf (tsm p.1 p.2 twm) 0x40000 = 64 ∧ (bits f.imm 15 0 = 64 ∧ (roomFor (tsm p.1 p.2 twm) 0x40000 64 ↔ p.1 = 0)) ∧
      slotsOf twm 0x40000 = 0 ∧ farPending (tsm p.1 p.2 twm) twm = false ∧
      ((home64 (tsm p.1 p.2 twm) (0x40000 + 16) - home64 (tsm p.1 p.2 twm) (0x40000 + 24)).toNat = p.1.toNat) ∧
      ∃ bs, vaBytes (popped (tsm p.1 p.2 twm) twm f) tc { perm := 1, acc := 7, peer := false }
        (slotVa (tsm p.1 p.2 twm) 0x40000 (home64 (tsm p.1 p.2 twm) (0x40000 + 24))) 64 = .ok bs) ∧
    (let w := { twm with resv := (List.range 8).map fun i => { desc := 0x10000 * i, n := 1 } };
      slotsOf w 0x40000 ≠ 0 ∧ slotsOf w 0x80000 = 0 ∧ 8 ≤ w.resv.length) := by
  refine ⟨fun p h => ?_, by decide +kernel⟩
  simp only [List.mem_cons, List.not_mem_nil, or_false] at h
  rcases h with rfl | rfl <;>
    exact ⟨{ a := 5, imm := 64 }, iss rfl rfl, by decide +kernel, by decide +kernel, by decide +kernel, rfl, asLeft_none rfl,
      by decide +kernel, by decide +kernel, ok_and (by decide +kernel), by decide +kernel, by unfold roomFor; decide +kernel, by decide +kernel,
      by decide +kernel, by decide +kernel, ok_of (by decide +kernel)⟩

def trw : RsvWait := { id := 91, desc := 0x40000, n := 64, warp := some 12, peer := none }
def tpk : EnqPkt :=
  { id := 92, desc := 0x40000, ctx := some 0, msg := List.replicate 64 1, warp := 12, block := 11, flag := none, ack := true }

theorem witness_QueueEvents :
    (let g := { tg with wait := .grant 91 };
      let w := { twm with groups := [g] };
      let s := { tsm 0 0 w with rsvWaits := [trw] };
      s.rsvWaits.find? (·.id == trw.id) = some trw ∧ s.rsvWaits.find? (·.desc == trw.desc) = some trw ∧ isHbm trw.desc = true ∧ Calm s ∧ AsLeft s trw.desc ∧
      roomFor s trw.desc trw.n ∧ trw.peer = none ∧ trw.warp = some 12 ∧ findWarp s 12 = some w ∧ w.groups = [g]) ∧
    (let s := { tsm 0 0 twm with packets := [tpk] };
      s.packets.find? (·.id == tpk.id) = some tpk ∧ (s.packets.find? fun y => y.warp == tpk.warp && y.desc == tpk.desc) = some tpk ∧
      isHbm tpk.desc = true ∧ Calm s ∧ AsLeft s tpk.desc ∧ tpk.ctx.bind (findCtx s) = some tc ∧ tpk.msg.length = 64 ∧
      ∃ xs, checkBytes s tc { perm := 2, acc := 7, writes := true, peer := false } (slotVa s tpk.desc (home64 s (tpk.desc + 16))) 64 = .ok xs ∧
        ((xs.map (·.pa)).Nodup ∧ ∀ y ∈ xs, y.pa < tpk.desc ∨ tpk.desc + 64 ≤ y.pa)) := by
  refine ⟨⟨by decide +kernel, by decide +kernel, by decide +kernel, rfl, asLeft_none rfl, ?_, rfl, rfl, by decide +kernel, rfl⟩,
    by decide +kernel, by decide +kernel, by decide +kernel, rfl, asLeft_none rfl, by decide +kernel, by decide +kernel, ok_and (by decide +kernel)⟩
  unfold roomFor
  decide +kernel


/-- A stage set of one pure stage, number `n` of die 0. -/
def tset (n : Nat) (st : SetSt) (r : Ring) : StageSet :=
  { die := 0, num := n, ctx := 0, nwin := 64, dropq := false, ord := false, stages := [{}], rings := [r], sink := {}, drop := {}
    fault := {}, lfsr := 1, st }
def tring (waiting used : List Nat) : Ring := { cap := 64, pages := [0x80000], waiting, used }
/-- The warp with s4 naming set 3; lane 0 alone is in k1, with a ticket in v5 and the verdict `drop` in v6. -/
def twrt : Warp := { twr [(4, 3)] with k := [(1, 1)], v := [(5, 0x80008000), (6, 1)] }
def tsr (t : StageSet) : State := { withWarp twrt with sets := [t] }
def fR : Fields := { sc := true, km := 1, a := 4, b := 7, d := 9 }

theorem witness_Router_set :
    (∀ n ∈ [15, 16], let s := { tsm 0 0 twm with sets := (List.range n).map fun i => tset i .opened (tring [] []) };
      ∃ f, Issues s twm tg f ∧ findCtx s twm.ctx = some tc ∧ ((exeOf s twm tg f).s f.a.toNat).toNat = 0x41000 ∧
        (∃ xs, checkBytes (popped s twm f) tc { needUnit with peer := false } 0x41000 192 = .ok xs) ∧
        (∃ q, unitLoad (popped s twm f) (whoOf (popped s twm f) twm) tc twm.block twm.id 0x41000 192 = .ok q ∧
          (tableBad q.2 = false ∧ ringFault q.1 tc q.2 = none ∧ q.1.sets = s.sets ∧
            (n = 15 → queuesTaken s 0 + bits (word64 q.2 0) 3 0 + 3 ≤ 64))) ∧
        (∀ i < n, (findSet s 0 i).isSome = true) ∧ (n = 15 → findSet s 0 15 = none)) := by
  intro n h
  simp only [List.mem_cons, List.not_mem_nil, or_false] at h
  rcases h with rfl | rfl <;>
    exact ⟨{ a := 6 }, iss rfl rfl, by decide +kernel, by decide +kernel, ok_of (by decide +kernel), ok_and (by decide +kernel),
      by decide +kernel, by decide +kernel⟩

theorem plain_set (t : StageSet) (h : t.stages.length = 1 ∧ (t.stages.map (·.eff)) = [false] ∧ t.rings.length = 1 ∧ t.ord = false ∧
    t.resolved = [] ∧ t.reorder = []) : PlainSet t := by
  obtain ⟨h1, h2, h3, h4, h5, h6⟩ := h
  obtain ⟨a, ha⟩ := List.length_eq_one_iff.mp h1
  obtain ⟨r, hr⟩ := List.length_eq_one_iff.mp h3
  exact ⟨a, r, ha, by simpa [ha] using h2, hr, h4, h5, h6⟩

/-- Sets closed and empty, opened and empty, and opened with a record in its last slot. -/
def tset0 : StageSet := tset 3 .closed (tring [] [])
def tset1 : StageSet := tset 3 .opened (tring [] [])
def tset2 : StageSet := tset 3 .opened (tring [63] [63])
/-- The record in the last slot is held. -/
def tset3 : StageSet := tset 3 .opened (tring [] [63])
def theld : HeldRec := { die := 0, place := 0, set := 3, stage := 0, slot := 63, ctx := 0, block := 11, poppedAt := 0 }
def tsheld : State := { tsr tset3 with held := [theld] }
def fVerd : Fields := { km := 1, a := 5, b := 6 }
/-- A record waits in the holding store. -/
def tset4 : StageSet := { tset1 with holding := [(.route, List.replicate 64 0)] }

theorem witness_Router :
    (Issues (tsr tset0) twrt tg fR ∧ NamesSet (tsr tset0) twrt tg fR tset0 ∧ Empty tset0 ∧ twrt.routed = 0) ∧
    (Issues (tsr tset1) twrt tg fR ∧ NamesSet (tsr tset1) twrt tg fR tset1 ∧ ¬ Empty tset1 ∧
      lanesOf (exeOf (tsr tset1) twrt tg fR).en = [0] ∧ tset1.st = .opened ∧ PlainSet tset1 ∧ tset1.holding = [] ∧
      (tsr tset1).cmds = [] ∧ (tsr tset1).fillQueue = [] ∧ farPending (tsr tset1) twrt = false ∧
      (∃ place, spadPlace tb 0 ((((exeOf (tsr tset1) twrt tg fR).s fR.b.toNat).toNat + 64 * 0 + 8 : Nat) : Int) 56 = some place) ∧
      (tset1.ring 0).used.length < (tset1.ring 0).cap) ∧
    (∀ i ∈ [0, 2, 3, 6, 9], ∃ f, Issues (tsr tset1) twrt tg f ∧ NamesSet (tsr tset1) twrt tg f tset1 ∧ bits f.imm 7 4 = i ∧
      bits f.imm 3 0 = 0) ∧
    (∃ f place, Issues (tsr tset1) twrt tg f ∧ NamesSet (tsr tset1) twrt tg f tset1 ∧ bits f.imm 3 0 < tset1.stages.length ∧
      lanesOf (exeOf (tsr tset1) twrt tg f).en = [0] ∧
      spadPlace tb 0 ((((exeOf (tsr tset1) twrt tg f).s f.b.toNat).toNat + 64 * 0 : Nat) : Int) 64 = some place ∧
      (tset1.queue 0).waiting = [] ∧ bit f.imm 4 = true) ∧
    (∃ f, Issues (tsr tset2) twrt tg f ∧ NamesSet (tsr tset2) twrt tg f tset2 ∧ (tset2.queue 0).waiting = [63] ∧ bit f.imm 4 = false ∧
      (tsr tset2).retries = [] ∧ IsFirstFree 4096 (fun i => (tsr tset2).held.any fun h => h.die == tset2.die && h.place == i) 0) ∧
    (Issues tsheld twrt tg fVerd ∧ findSet tsheld 0 3 = some tset3 ∧ findBlock tsheld twrt.block = some tb ∧
      lanesOf (exeOf tsheld twrt tg fVerd).en = [0] ∧ lane ((exeOf tsheld twrt tg fVerd).src.readV fVerd.b.toNat) 0 = 1 ∧
      lane ((exeOf tsheld twrt tg fVerd).src.readV fVerd.a.toNat) 0 = 0x80008000 ∧
      (tsheld.held.find? fun y => y.die == bits (0x80008000 : W32) 13 12 && y.place == bits (0x80008000 : W32) 11 0 && y.block == 11)
        = some theld ∧ (tset3.stage 0).wn < tset3.nwin) ∧
    (findSet (tsr tset4) 0 3 = some tset4 ∧ PlainSet tset4 ∧ bit (word64 (List.replicate 64 (0 : Byte)) 0) 0 = false) := by
  unfold NamesSet Spec.Empty IsFirstFree
  exact ⟨⟨iss rfl rfl, by decide +kernel⟩,
    ⟨iss rfl rfl, by decide +kernel, by decide +kernel, by decide +kernel, rfl, plain_set _ (by decide), rfl, rfl, rfl,
      by decide +kernel, ⟨(false, 8), by decide +kernel⟩, by decide⟩,
    fun i h => ⟨{ fR with imm := BitVec.ofNat 32 (16 * i) }, iss rfl rfl, by revert i; decide +kernel⟩,
    ⟨{ fR with imm := 0x10 }, (false, 0), iss rfl rfl, by decide +kernel⟩, ⟨fR, iss rfl rfl, by decide +kernel⟩,
    ⟨iss rfl rfl, by decide +kernel⟩, by decide +kernel, plain_set _ (by decide), by decide +kernel⟩


/-! ### Searches and bank commands -/

/-- The descriptor of the query at 0x44000; a visible node with one neighbour at 0x200000. -/
def tmemS : Tab Byte :=
  tmem (tdesc.mapIdx (fun i w => (0x44000 + 8 * i, w)) ++ [(0x200000, 0xFFFFFFFF00000000), (0x200008, 1)])

/-- Registers of `srch` (s16), `kmerge` (s24) and `nbcall` (s32). -/
def twS : Warp :=
  twr [(16, 0x45000), (17, 0x44000), (18, 1024), (19, 0xFFFFFFFF), (20, 0x46000), (21, 0x100), (22, 0x10000), (24, 0x47000), (25, 0xFF),
    (26, 1), (27, 0x100), (28, 0x48000), (32, 0x10000), (33, 0x200000), (34, 1), (35, 0xFFFF), (36, 0x100)]

/-- The context with its memory in the channel-local layout. -/
def tcS : Ctx := { tc with ranges := [{ w0 := 1, w1 := 0x3FFFF000, w2 := 0, w3 := 0x17 }] }
def tsS : State := { withWarp twS with mem := tmemS, lgrp := [(0, 2)], ctxs := [tcS], trees := [(255, { word := 0xC0000000FFFFFFFF })] }
def fS (a : BitVec 8) : Fields := { sc := true, a }

theorem witness_SearchIssue :
    (Issues tsS twS tg (fS 16) ∧ findCtx tsS twS.ctx = some tcS ∧ findBlock tsS twS.block = some tb ∧ findLaunch tsS tb.launch = some tl ∧
      tiedFlag tg (fS 16) = none ∧ popped tsS twS (fS 16) = tsS) ∧
    (let r := fun i => (exeOf tsS twS tg (fS 16)).s (16 + i);
      let prog : W64 := BitVec.ofNat 64 (8 * 2 ^ 56);
      barNamed twS tb tl (bits (r 5) 15 0) = some (.block 11, 0) ∧ slotIndex (r 6) = some 5120 ∧ bits (r 2) 10 0 = 1024 ∧
      bits (r 2) 63 11 = 0 ∧ bits (r 3) 63 32 = 0 ∧ bits (r 5) 63 16 = 0 ∧ bits (r 7) 63 32 = 0 ∧ (r 0).toNat = 0x45000 ∧
      (r 4).toNat = 0x46000 ∧ (r 1).toNat = 0x44000 ∧
      (∃ dpas, namedRange tsS tcS needIn prog 0x44000 128 = .ok dpas ∧
        (pageError tsS 0x44000 dpas 16 8 = none ∧ word64 (pageBytes tsS 0x44000 dpas 16 8) 0 = 0x000B001000000000)) ∧
      (∃ qpas, namedRange tsS tcS needIn prog 0x45000 16 = .ok qpas) ∧
      (∃ rpas, namedRange tsS tcS needOut prog 0x46000 (16 + 8 * 1024) = .ok rpas) ∧
      ∃ lpas, namedRange tsS tcS needProgram prog (5120 / 5 * 64) 64 = .ok lpas) ∧
    (let r := fun i => (exeOf tsS twS tg (fS 24)).s (24 + i);
      let prog : W64 := BitVec.ofNat 64 (9 * 2 ^ 56 + 255);
      Issues tsS twS tg (fS 24) ∧ bits (r 1) 7 0 = 255 ∧ (tabGet ({} : Tree) tsS.trees 255).word = 0xC0000000FFFFFFFF ∧
      barNamed twS tb tl (bits (r 3) 15 0) = some (.block 11, 0) ∧ bits (r 2) 10 0 = 1 ∧ bits (r 1) 31 8 = 0 ∧ bits (r 2) 63 11 = 0 ∧
      bits (r 3) 63 16 = 0 ∧ (r 0).toNat = 0x47000 ∧ (r 4).toNat = 0x48000 ∧
      (∃ hpas, namedRange tsS tcS needIn prog 0x47000 16 = .ok hpas ∧
        (pageError tsS 0x47000 hpas 0 16 = none ∧ bits (word64 (pageBytes tsS 0x47000 hpas 0 16) 0) 31 0 = 0)) ∧
      ∃ rpas, namedRange tsS tcS needOut prog 0x48000 (16 + 8 * 1) = .ok rpas) ∧
    (let r := fun i => (exeOf tsS twS tg (fS 32)).s (32 + i);
      Issues tsS twS tg (fS 32) ∧ barNamed twS tb tl (bits (r 4) 15 0) = some (.block 11, 0) ∧ slotIndex (r 0) = some 5120 ∧
      bits (r 2) 63 7 = 0 ∧ bits (r 3) 63 16 = 0 ∧ (r 1).toNat = 0x200000 ∧ bits (r 2) 6 0 = 1 ∧ bits (r 3) 15 0 = 0xFFFF ∧
      ∃ frames, frameRanges tsS tcS 0x200000 1 0 = .ok frames) := by
  refine ⟨⟨iss rfl rfl, ?_⟩, ?_, ⟨iss rfl rfl, ?_⟩, iss rfl rfl, ?_⟩
  all_goals repeat' refine And.intro ?_ ?_
  all_goals first | decide +kernel | exact ok_and (by decide +kernel) | exact ok_of (by decide +kernel)

/-- The package with that memory, one query and a walker. -/
def tsQ (q : Query) (ws : List Walker) (cur : Agent) : State := { ts with mem := tmemS, queries := [q], walkers := ws, cur }
def tpush (d n : W32) : Push := { id := 93, query := 30, dist := d, node := n }
def tcontrib (round : W32) (loc sender : Option Nat) : Contribution :=
  { tree := 255, round, k := 1, status := 0, evals := 0, snap := 0, entries := [], loc, sender }

theorem witness_SearchEvents :
    (let q := { tq with installed := false, desc := [] };
      findQuery (tsQ q [] .none) q.id = some q ∧ findCtx (tsQ q [] .none) q.ctx = some tc ∧ permitted q.permit = true ∧
      ctxRuns (tsQ q [] .none) q.ctx = true ∧ pageError (tsQ q [] .none) q.dva q.dpas 0 128 = none ∧ vecOk q.word2 = true ∧
      pageError (tsQ q [] .none) q.qva q.qpas 0 (vecBytes q.word2) = none ∧
      descriptorBad (readDescriptor (tsQ q [] .none) q) q.word2 = false ∧
      mayAdmit (tsQ q [] .none) q = true ∧ tablesFree (tsQ q [] .none) (readDescriptor (tsQ q [] .none) q) = true ∧ walkersAt (tsQ q [] .none) 0 < 16384) ∧
    (∀ h ∈ [[], [((1 : W32), (1 : W32))], [(9, 9)], [(1, 7)]],
      let q := { tq with heap := h };
      let s := { tsQ q [] .none with pushes := [tpush 5 7] };
      s.pushes.find? (·.id == 93) = some (tpush 5 7) ∧ findQuery s 30 = some q ∧ q.ended = false ∧ 1 ≤ q.k ∧
      ((∀ y ∈ q.heap, y.2 ≠ 7 ∧ entryBefore (isInt8 q) (5, 7) y = false) ∨
        (∃ y ys, q.heap = y :: ys ∧ y.2 ≠ 7 ∧ entryBefore (isInt8 q) (5, 7) y = true) ∨
        ∃ y, q.heap.find? (·.2 == 7) = some y ∧ lessDist (isInt8 q) 5 y.1 = false)) ∧
    (let q := { tq with heap := [(1, 1), (2, 2)] }; findQuery (tsQ q [] .none) q.id = some q ∧ q.heap[q.k - 1]? = some (2, 2)) ∧
    (let m : WalkerMsg := { id := 94, query := 30, spawn := true, base := 0, node := 3, regs := [], pc := 5120, hops := 1 };
      let s := { tsQ tq [] .none with msgs := [m] };
      s.msgs.find? (·.id == m.id) = some m ∧ findQuery s m.query = some tq ∧ ctxRuns s tq.ctx = true ∧ walkersAt s m.base < 16384) ∧
    (findQuery (tsQ tq [] .none) 30 = some tq ∧ tq.installed = true ∧ ∀ k ∈ (tsQ tq [] .none).walkers, k.query ≠ tq.id) ∧
    (let s := { tsS with kmflight := [{ id := 95, k := tcontrib 0 (some 95) none }] };
      bit (tabGet ({} : Tree) s.trees 255).word 63 = true ∧ ∃ m ∈ s.kmflight, m.id = 95 ∧ m.k = tcontrib 0 (some 95) none) ∧
    (let s := { tsS with fabcfg := 1 }; (tcontrib 1 none (some 2)).loc = none ∧ fabricOn s = true) ∧
    (let s := { tsS with resends := [{ id := 96, k := tcontrib 255 none none }] };
      ∃ r, s.resends.find? (·.id == 96) = some r ∧ r.k = tcontrib 255 none none) ∧
    (((0 : W32) - 0xFFFFFFFF).toNat = 1 ∧ ((255 : W32) - 0xFFFFFFFF).toNat = 256) ∧
    (((0xFFFFFFFF : W32) - 0xFFFFFFFF).toNat = 0 ∧ max 1 (bits (0xC0000000FFFFFFFF : W64) 45 37) = 1) := by
  refine ⟨by decide +kernel, ?_, ?_, ?_, ?_, ?_, ?_, ⟨⟨96, tcontrib 255 none none⟩, ?_⟩, by decide +kernel⟩
  rotate_left
  all_goals try decide +kernel
  intro h hh
  simp only [List.mem_cons, List.not_mem_nil, or_false] at hh
  rcases hh with rfl | rfl | rfl | rfl
  · exact ⟨by decide +kernel, by decide +kernel, rfl, by decide, .inl fun y hy => by cases hy⟩
  · exact ⟨by decide +kernel, by decide +kernel, rfl, by decide, .inl fun y hy => by
      have h1 := List.mem_singleton.mp hy
      subst h1
      decide +kernel⟩
  · exact ⟨by decide +kernel, by decide +kernel, rfl, by decide, .inr (.inl ⟨_, _, rfl, by decide +kernel⟩)⟩
  · exact ⟨by decide +kernel, by decide +kernel, rfl, by decide, .inr (.inr ⟨_, rfl, by decide +kernel⟩)⟩

/-- The walker with w1 as given, and with a current node or none. -/
def tkw (a : W64) (node : Option W32) : Walker := { tk with w := [(1, a)], node }
def tsK (q : Query) (k : Walker) : State := tsQ q [k] (.walker 31)

theorem walk_issues (q : Query) (k : Walker) (h : k.id = 31 ∧ k.query = q.id ∧ q.ended = false) : WalkIssues (tsK q k) k q := by
  refine ⟨by rw [h.1]; rfl, ?_, ?_, h.2.2⟩
  · show List.find? _ [k] = some k
    simp
  · show List.find? _ [q] = some q
    simp [h.2.1]

theorem witness_WalkerArithmetic :
    WalkIssues (tsK tq tk) tk tq ∧
    (∃ f : Fields, f.sub ≠ 15 ∧ condition tk.flags f.sub.toNat = false ∧ slotPlus tk.pc f.imm.toInt = some 4) ∧
    (∃ f : Fields, f.sub ≠ 15 ∧ condition tk.flags f.sub.toNat = true ∧ slotPlus tk.pc f.imm.toInt = some 4) ∧
    slotPlus tk.pc (-1 : W32).toInt = none :=
  ⟨walk_issues _ _ ⟨rfl, rfl, rfl⟩, ⟨{ sub := 0, imm := 4 }, by decide⟩, ⟨{ sub := 14, imm := 4 }, by decide⟩, by decide⟩

theorem witness_WalkerMemory :
    (∀ a : W64, WalkIssues (tsK tq (tkw a none)) (tkw a none) tq) ∧
    (bits (0xFFFFFFFF : W64) 63 32 = 0 ∧ bits (0x08000000 : W64) 63 32 = 0 ∧ bits (0 : W64) 63 32 = 0) ∧
    (16 ≤ shardOf tdesc 0xFFFFFFFF ∧ shardOf tdesc 0x08000000 < 16 ∧ nodeHome tq 0x08000000 ≠ 0 ∧ nodeHome tq 0 = 0) ∧
    (let k := tkw 0 (some 0);
      WalkIssues (tsK tq k) k tq ∧
      (∃ h, nodeHead (tsK tq k) tq k.base 0 = .ok h ∧
        (0 < bits h.2.2 15 0 ∧ 0 < descDeg tq.desc ∧ bits h.2.2 15 0 ≤ 1 ∧ bits h.2.1 31 0 ≤ 5 ∧ 5 < bits h.2.1 63 32 ∧
        (nodeBytes h.1 tq k.base 0 (16 + vecBytes tq.word2 + 8 * 0) 8).toOption.isSome = true ∧
        (nodeBytes h.1 tq k.base 0 16 (vecBytes tq.word2)).toOption.isSome = true)) ∧
      (∃ bs, nodeBytes (tsK tq k) tq k.base 0 32 8 = .ok bs) ∧ recSize tq.desc tq.word2 = 40 ∧ tq.evals < tq.budget ∧
      (tq.seen.filter (·.1 == k.base)).length < 65536 ∧ tq.seen.contains (k.base, 0) = false ∧ slotPlus k.pc (4 : W32).toInt = some 4) ∧
    (let q := { tq with evals := 4, snap := 0xFFFFFFFF, seen := [(0, 0)] };
      let k := tkw 0 (some 0);
      WalkIssues (tsK q k) k q ∧ q.budget ≤ q.evals ∧ q.seen.contains (k.base, 0) = true ∧ k.base ∉ q.full ∧ ¬ q.snap.toNat < 0xFFFFFFFF) ∧
    (efmt (0x0002001000000000 : W64) ≠ 11 ∧ (f32Fmt.value (0x7FC00000 : W32).toNat).isNan = true) :=
  ⟨fun a => walk_issues _ _ ⟨rfl, rfl, rfl⟩, by decide +kernel, by decide +kernel,
    ⟨walk_issues _ _ ⟨rfl, rfl, rfl⟩, ok_and (by decide +kernel), ok_of (by decide +kernel), by decide +kernel⟩,
    ⟨walk_issues _ _ ⟨rfl, rfl, rfl⟩, by decide⟩, by decide +kernel⟩

/-- A base die's part of the visited filter is full. -/
theorem witness_WalkerMemory_full : let q := { tq with seen := List.replicate 65536 (0, 1) };
    WalkIssues (tsK q (tkw 0 (some 0))) (tkw 0 (some 0)) q ∧ q.seen.contains (0, 0) = false ∧
      65536 ≤ (q.seen.filter (·.1 == (tkw 0 (some 0)).base)).length := by
  refine ⟨walk_issues _ _ ⟨rfl, rfl, rfl⟩, ?_, ?_⟩
  · rw [← Bool.not_eq_true, List.contains_iff_mem, List.mem_replicate]
    simp
  · have h : ∀ n, ((List.replicate n ((0 : Nat), (1 : W32))).filter (·.1 == (tkw 0 (some 0)).base)).length = n := fun n => by
      rw [List.filter_replicate_of_pos rfl, List.length_replicate]
    exact (h 65536).ge

def tsN (is : List NbInst) (ch : List Chan) : State := { ts with nbcmds := [tn], insts := is, chans := ch, cur := .bank 33 }
/-- A second instance of the command, and the first at its last loop. -/
def ti2 : NbInst := { ti with id := 34, chan := 32, frameIdx := 1 }
def ti1 : NbInst := { ti with i := 1 }

theorem witness_BankProgram :
    (BankIssues (tsN [ti, ti2] []) ti tn ∧ (∃ j ∈ (tsN [ti, ti2] []).insts, j.id ≠ ti.id ∧ j.cmd = tn.id) ∧ ti.i + 1 < tn.loops ∧
      tn.bar = some (.block 11, 0)) ∧
    (BankIssues (tsN [ti1] []) ti1 tn ∧ tn.loops ≤ ti1.i + 1 ∧ (∀ j ∈ (tsN [ti1] []).insts, j.id ≠ ti1.id → j.cmd ≠ tn.id) ∧
      tn.permit ≠ .held ∧ tn.permit ≠ .reserved) ∧
    (∃ f, let s := { tsN [ti] [] with lgrp := [(0, 2)] };
      bankRowOf ti f = 2047 ∧ (∀ l < 8, badRead s (bankRowPa ti 2047 + 128 * l) = none) ∧ chanOf s (bankRowPa ti 2047) = ti.chan ∧
      findCtx s tn.ctx = some tc ∧ tc.seals = []) ∧
    (∃ f : Fields, slotPlus ti.pc f.imm.toInt = some 4 ∧ bankTarget tn ti 4 = true) ∧ Calm (tsN [ti] []) :=
  ⟨⟨⟨rfl, rfl, rfl⟩, ⟨ti2, by simp [tsN], by decide⟩, by decide, rfl⟩, ⟨⟨rfl, rfl, rfl⟩, by decide, by decide +kernel, by decide, by decide⟩,
    ⟨{ imm := 0x07FF }, by decide +kernel⟩, ⟨{ imm := 4 }, by decide +kernel⟩, rfl⟩

theorem witness_BankEvents :
    (let i := { ti with started := false, lines := [] };
      let s := { tsN [i] [] with nbcmds := [{ tn with permit := .held }] };
      findInst s i.id = some i ∧ findNb s i.cmd = some { tn with permit := .held } ∧ findCtx s i.ctx = some tc ∧ i.saved = false ∧
      runningOn s i.chan = none ∧ ctxRuns s i.ctx = true ∧ permitted PermitSt.held = true ∧ ∀ j ∈ s.insts, j.chan = i.chan → j = i) ∧
    (∀ wait ∈ [[], [128]], let i := { ti with inStep := true };
      runningOn (tsN [i] [{ chan := 0, waiting := wait }]) i.chan = some i ∧
      findInst (tsN [i] [{ chan := 0, waiting := wait }]) i.id = some i ∧ ctxRuns (tsN [i] []) i.ctx = true ∧
      (findChan (tsN [i] [{ chan := 0, waiting := wait }]) 0).waiting = wait) ∧
    (runningOn (tsN [ti] []) 0 = some ti ∧ isHbm 0x80 = true ∧ chanOf (tsN [ti] []) 0x80 = 0 ∧ (findChan (tsN [ti] []) 0).owesStep = false ∧
      (findChan (tsN [ti] []) 0).waiting = []) ∧
    (∀ p ∈ [(([] : List Nat), true), ([128], true), ([128], false)], let i := { ti with suspended := true };
      let s := tsN [i] [{ chan := 0, waiting := p.1, serving := some 0, windowPassed := p.2 }];
      runningOn s i.chan = some i ∧ findInst s i.id = some i ∧ (findChan s 0).serving = some 0 ∧ (findChan s 0).waiting = p.1 ∧
      (findChan s 0).windowPassed = p.2) ∧
    (let i := { ti with suspended := true };
      runningOn (tsN [i] []) i.chan = some i ∧ (findChan (tsN [i] []) 0).serving = none) := by decide +kernel

/-- Context 0 with queue descriptors in memory, at 0x30000 an ordinary one and at 0x30040 one of the deadline class. -/
def tsbind (bad : W64) : State :=
  { ts with mem := tmem [(0x30000, 0x60000), (0x30008, 0x200), (0x30010, 0x50000), (0x30018, bad), (0x30040, 0x60000),
                         (0x30048, 0x100300), (0x30050, 0x50000)] }
def toutw : Outstanding := { id := 40, warp := 12, flag := some 0, need := 1 }
def tcp : Ctx := { tc with parked := [⟨5, 0x100, 0⟩] }
def twpk : Warp := { tw with groups := [{ tg with wait := .parked 5 }] }
def tcu : Ctx := { tc with loaded := false }

/-- What decides the cases of the commands, one clause after another, each met by a small state. -/
theorem witness_ContextCommands :
    findCtx ts 0 = some tc ∧ bits (0x1000000000000 : BitVec 56) 55 44 ≠ 0 ∧ bits (0x100000000 : BitVec 56) 55 32 ≠ 0 ∧
    bits (2 : W64) 63 1 ≠ 0 ∧ 64 * tc.cgCount ≤ (64 : BitVec 56).toNat ∧ (63 : BitVec 56).toNat < 64 * tc.cgCount ∧
    bits (63 : W64) 63 32 = 0 ∧ bits (255 : BitVec 56) 55 8 = 0 ∧ bits (256 : BitVec 56) 55 8 ≠ 0 ∧
    (∀ r ∈ (0, 2 ^ 64) :: replacedVas tc.ranges (readRanges ts tc.rng), rangeInUse ts 0 r.1 r.2 = false) ∧
    (∃ r ∈ (0, 2 ^ 64) :: replacedVas tc.ranges (readRanges ts tc.rng), rangeInUse { ts with outs := [toutw] } 0 r.1 r.2 = true) ∧
    tc.parked.find? (·.fid == 5) = none ∧
    (let s := { withWarp twpk with ctxs := [tcp] };
      findCtx s 0 = some tcp ∧ tcp.parked.find? (·.fid == (5 : BitVec 56).toNat) = some ⟨5, 0x100, 0⟩ ∧ s.cmds = [] ∧
      parkedBlocks s 0 5 = [tb.id] ∧ findBlock s tb.id = some tb ∧ tb.ended = false) ∧
    (let s := { ts with launches := [{ tl with wctr := some 63 }] }; findCtx s 0 = some tc ∧ s.launches ≠ []) ∧
    namedBlock ts 0 2 = none ∧ namedBlock ts 0 1 = some tb ∧ tb.placed = true ∧ canSave ts tb = true ∧
    (let b := { tb with placed := false }; namedBlock { ts with blocks := [b] } 0 1 = some b ∧ findBlock { ts with blocks := [b] } b.id = some b) ∧
    (let s := { ts with outs := [toutw] };
      namedBlock s 0 1 = some tb ∧ findBlock s tb.id = some tb ∧ canSave s tb = false ∧ s.blocks = [tb] ∧ tb.ctx = 0) ∧
    (let s := { ts with blocks := [] }; findCtx s 0 = some tc ∧ s.insts = [] ∧ s.rtn = []) ∧ tc.loaded = true ∧
    (let s := { ts with ctxs := [tcu] }; findCtx s 0 = some tcu ∧ tcu.loaded = false ∧ restoreRoom s tcu = true) ∧
    (let s := { ts with ctxs := [tcu], sets := [tset 3 .opened {}, { tset 3 .opened {} with saved := true }] };
      findCtx s 0 = some tcu ∧ tcu.loaded = false ∧ restoreRoom s tcu = false) := by decide +kernel

theorem witness_ContextCommands_queues :
    (∃ r, frontRead (tsbind 0) tc 0x30000 64 = .ok r ∧ bindBad ((List.range 8).map fun i => word64 r.2 (8 * i)) = false ∧
      bit (word64 r.2 8) 8 = false) ∧
    (∃ r, frontRead (tsbind 1) tc 0x30000 64 = .ok r ∧ bindBad ((List.range 8).map fun i => word64 r.2 (8 * i)) = true) ∧
    (∃ r, frontRead (tsbind 0) tc 0x30040 64 = .ok r ∧ bindBad ((List.range 8).map fun i => word64 r.2 (8 * i)) = false ∧
      bit (word64 r.2 8) 8 = true ∧ 384 * dlSlots (tsbind 0) < deadlineSum (tsbind 0) 7 + bits (word64 r.2 8) 31 16 ∧
      deadlineSum { tsbind 0 with dlres := 1 } 7 + bits (word64 r.2 8) 31 16 ≤ 384 * dlSlots { tsbind 0 with dlres := 1 }) ∧
    findQueue ts 255 = none ∧ findQueue { ts with queues := [th] } 255 = some th ∧ th.ctx = 0 ∧
    waitingRecords { ts with queues := [th] } th.num = 0 ∧
    waitingRecords { ts with queues := [th], launches := [{ tl with queue := some 255, next := 0 }] } th.num ≠ 0 ∧
    (let h := { th with ctx := 1 }; findQueue { ts with queues := [h] } 255 = some h ∧ h.ctx ≠ 0) :=
  ⟨ok_and rfl, ok_and rfl, ok_and rfl, by decide +kernel⟩

theorem witness_ContextCommands_report :
    (∃ e, checkBytes ts tc needHostRead 0x3FFFFFF0 32 = .error e) ∧
    ∃ xs ys, checkBytes ts tc needHostRead 0x30000 32 = .ok xs ∧ checkBytes ts tc needHostWrite 0x30000 1104 = .ok ys ∧
      (ys.map (·.pa)).Nodup ∧ Calm ts :=
  ⟨⟨_, rfl⟩, _, _, rfl, (show _ = Except.ok ((List.range 1104).map fun i => txl (0x30000 + i)) by decide +kernel), by
    rw [List.map_map]; exact List.Nodup.map (fun a b h => by simp [txl] at h; exact h) List.nodup_range, rfl⟩

/-- The fault queue of context 0 is full. -/
def tmemFull : Tab Byte := tmem [(0x20000, 0xFFFFFF)]

/-- Peer 2 is reached by port 0, whose virtual channels have hops `hs`. -/
def tsF (hs : List Hop) : State := { ts with fabcfg := 1, peers := [(2, 0x8000000000010000)], hops := hs }
def thop (vc n : Nat) (w : List Output) : Hop := { port := 0, vc, credits := n, waiting := w, buffer := [⟨0, .peerResponse 2 1 true []⟩] }
def tpq (pa : Nat) (op : PeerOp) : PeerReq := { peer := 2, id := 7, pa, layout := 0, op }
def tpo : PeerOut := { id := 21, peer := 2, pa := 0x100, op := .read 2, warp := some 12 }

theorem witness_FabricAndHostPort_sends :
    (let s := tsF [thop 1 4 []];
      portOf (tabGet 0 s.peers 2) = some 0 ∧ portStopped s 0 1 = false ∧ (findHop s 0 1).credits ≠ 0 ∧ (findHop s 0 1).waiting = []) ∧
    bits ts.fabcfg 15 0 = 0 ∧ portStopped ts 0 1 = true ∧
    (let s := tsF [thop 1 0 [.rdmaAck 0]]; (findHop s 0 1).waiting = [.rdmaAck 0] ∧ (findHop s 0 1).credits + 3 ≠ 0 ∧ portStopped s 0 1 = false) ∧
    (let s := tsF [thop 1 4 []];
      (∀ h ∈ s.hops, h.waiting = []) ∧ s.rsvWaits = [] ∧ s.packets = [] ∧ (∀ o ∈ s.peerOuts, o.peer ≠ 2) ∧
      (∀ h ∈ s.hops, ∀ p ∈ h.buffer, packetPeer p.body = some 2)) ∧
    (let s := { tsF [thop 1 4 []] with peerOuts := [tpo] };
      s.peerOuts = [tpo] ∧ tpo.peer = 2 ∧ tpo.cmd = none ∧ tpo.unit = none ∧ tpo.warp = some 12 ∧ findWarp s 12 = some tw ∧
      findBlock s tw.block = some tb ∧ tb.ended = false ∧ findCtx s tb.ctx = some tc ∧ fltFull s tc = false) := by
  simp only [tsF, thop, List.mem_singleton, forall_eq]
  decide +kernel

theorem witness_FabricAndHostPort_requests :
    (let s := tsF []; bits s.fabcfg 15 0 ≠ 0 ∧ Calm s ∧
      2 ^ 40 < (tpq (2 ^ 40 - 1) (.read 2)).pa + 2 ∧
      InWindow s (tpq 0x100 (.read 16)) 16 ∧ InWindow s (tpq (2 ^ 40 - 2) (.write [1, 2])) 2 ∧
      InWindow s (tpq 0x100 (.atomic 0 .u32 [(1, 0)])) (accessSize .u32) ∧ InWindow s (tpq 0x100 (.cells [(0, 1, 5)])) 16 ∧
      (∀ i < 16, badRead s (0x100 + i) = none) ∧ granuleOf s 0x100 = none) ∧
    ¬ InWindow (tsF []) { tpq 0x100 (.read 16) with layout := 1 } 16 ∧
    (let s := { tsF [] with poison := [0x180] };
      InWindow s (tpq 0x178 (.read 16)) 16 ∧ (∀ k < 8, badRead s (0x178 + k) = none) ∧ badRead s (0x178 + 8) ≠ none) ∧
    granuleOf { tsF [] with granules := [0x10000] } 0x1FFF0 ≠ none := by
  simp only [InWindow, Calm, List.mem_cons, List.not_mem_nil, or_false, forall_eq_or_imp, forall_eq]
  decide +kernel

theorem witness_FabricAndHostPort_answers :
    (∀ o ∈ [tpo, { tpo with cmd := some 5 }, { tpo with unit := some 6 }], let s := { tsF [] with peerOuts := [o] };
      bits s.fabcfg 15 0 ≠ 0 ∧ s.peerOuts.find? (·.id == o.id) = some o ∧ o.out = none ∧ o.op = .read 2) ∧
    (let s := { tsF [] with peerOuts := [tpo] };
      tpo.warp = some 12 ∧ findWarp s 12 = some tw ∧ findBlock s tw.block = some tb ∧ tb.ended = false ∧ findCtx s tb.ctx = some tc ∧
      fltFull s tc = false ∧ fltFull { s with mem := tmemFull } tc = true) ∧
    (let s := { tsm 0 0 twm with fabcfg := 1 };
      AsLeft s 0x40000 ∧ reserveCause s 0x40000 1 = none ∧ canReserve s 0x40000 1 = true ∧ reserveCause s 0x40000 0xFFFF = some 4) ∧
    (let s := { tsm 64 0 twm with fabcfg := 1 };
      AsLeft s 0x40000 ∧ reserveCause s 0x40000 1 = none ∧ canReserve s 0x40000 1 = false) ∧ PeerReserve.orWait ≠ .giveBack := by
  refine ⟨?_, by decide +kernel, ⟨asLeft_none rfl, by decide +kernel⟩, ⟨asLeft_none rfl, by decide +kernel⟩, by decide⟩
  simp only [List.mem_cons, List.not_mem_nil, or_false, forall_eq_or_imp, forall_eq]
  decide +kernel

/-- A key for context 0 from VA 0x1000, and one for the doorbell window. -/
def tkey : MemKey := { key := 5, slot := some 0, va := 0x1000, len := 0x40000000 }
def tdoor : MemKey := { key := 6, slot := none, va := 0, len := 0 }
def tsH : State := { ts with keys := [tkey, tdoor] }

theorem err_of {ε α : Type} {e : Except ε α} (h : e.toOption.isNone = true) : ∃ q, e = .error q := by
  cases e with
  | error q => exact ⟨q, rfl⟩
  | ok _ => cases h

theorem witness_FabricAndHostPort_host :
    (let s := tsH;
      s.recovery = false ∧ keyFor s 5 0x0FFF 2 = none ∧ keyFor s 5 0x1000 2 = some tkey ∧ tkey.slot = some 0 ∧ findCtx s 0 = some tc ∧
      keyFor s 5 0x40000FFF 1 = some tkey ∧ (∃ e, checkBytes s tc needHostWrite 0x40000FFF 1 = .error e) ∧
      (∃ e, checkBytes s tc needHostRead 0x40000FFF 1 = .error e) ∧
      (∃ xs, checkBytes s tc needHostWrite 0x1000 2 = .ok xs ∧ ((∀ x ∈ xs, granuleOf s x.pa = none) ∧ (xs.map (·.pa)).Nodup)) ∧
      (∃ xs, checkBytes s tc needHostRead 0x1000 2 = .ok xs ∧ ∀ x ∈ xs, granuleOf s x.pa = none → badRead s x.pa = none) ∧ Calm s ∧
      keyFor s 6 0 8 = some tdoor ∧ tdoor.slot = none ∧ keyFor s 6 (256 * 4096) 16 = some tdoor ∧
      keyFor s 6 (256 * 4096 + 0x10) 8 = some tdoor ∧ keyFor s 6 (272 * 4096) 16 = none ∧
      decodeCommand 0 0x0306 0 = some (.switchIn 0 3 0)) ∧
    { tsH with recovery := true }.recovery = true ∧
    (let s := { tsH with granules := [0x10000], ctxs := [tcc] };
      ∃ xs, checkBytes s tcc needHostWrite 0x10000 2 = .ok xs ∧ ∃ x ∈ xs, granuleOf s x.pa ≠ none) :=
  ⟨⟨rfl, by decide +kernel, by decide +kernel, rfl, rfl, by decide +kernel, err_of (by decide +kernel), err_of (by decide +kernel), ok_and (by decide +kernel),
    ok_and (by decide +kernel), rfl, by decide +kernel⟩,
    rfl, ok_and (by decide +kernel)⟩

/-- A request on connection 1, and the package where a connection is open that may ask anything, or only for what is open to all. -/
def tmq (op : W16) (p : List W64) : MgmtReq :=
  { conn := 1, op, seq := 9, p0 := p.getD 0 0, p1 := p.getD 1 0, p2 := p.getD 2 0, p3 := p.getD 3 0, p4 := p.getD 4 0, p5 := p.getD 5 0 }
def tsM : State := { ts with conns := [(1, some 3)], opKey := some 3 }
def tsM0 : State := { ts with conns := [(1, none)] }
/-- The request is served, where the connection and its certificate are as in `tsM`. -/
theorem serves (s : State) (h : s.conns = [(1, some 3)] ∧ s.opKey = some 3 ∧ s.recovery = false) (op : W16) (p : List W64) :
    Serves s (tmq op p) op.toNat :=
  ⟨rfl, rfl, some 3, by simp [Open, h, tmq], .inr (.inr ⟨h.2.2, .inl (by simp [h])⟩)⟩

theorem witness_Management_connections :
    Open tsM (tmq 12 []) (some 3) ∧ 11 < (tmq 12 []).op.toNat ∧ (tmq 0 []).op.toNat = 0 ∧
    IsRequest (tmq 2 [0x100]) (.writeRegister (tmq 2 [0x100])) 2 ∧ IsRequest (tmq 2 [0x80F]) (.lgrpWrite (tmq 2 [0x80F])) 2 ∧
    IsRequest (tmq 3 []) (.createContext (tmq 3 [])) 3 ∧ ts.conns.find? (·.1 == 1) = none ∧
    (Open tsM0 (tmq 2 []) none ∧ ¬ MayAsk tsM0 none 2) ∧ (MayAsk tsM (some 3) 2 ∧ { tmq 2 [] with zero := 1 }.zero ≠ 0) ∧
    (Serves tsM0 (tmq 10 []) 10 ∧ tsM0.opKey = none) ∧ (Serves tsM (tmq 10 []) 10 ∧ tsM.opKey ≠ none) ∧
    (Serves { tsM0 with recovery := true } (tmq 9 []) 9) ∧ (List.replicate 32 (0 : Byte)).length = 32 := by
  refine ⟨by simp [Open, tsM, tmq], by decide, rfl, ?_, ?_, .inl (by simp), rfl, ⟨by simp [Open, tsM0, tmq], by simp [MayAsk, tsM0, ts, withWarp]⟩,
    ⟨by simp [MayAsk, tsM, ts, withWarp], by decide⟩,
    ⟨⟨rfl, rfl, none, by simp [Open, tsM0, tmq], by simp [MayAsk, tsM0, ts, withWarp]⟩, rfl⟩, ⟨serves tsM ⟨rfl, rfl, rfl⟩ 10 [], by simp [tsM]⟩,
    ⟨rfl, rfl, none, by simp [Open, tsM0, tmq], .inr (.inl rfl)⟩, rfl⟩
  · exact .inr ⟨rfl, .inl ⟨rfl, by decide +kernel⟩⟩
  · exact .inr ⟨rfl, .inr (.inl ⟨rfl, by decide +kernel, by decide +kernel⟩)⟩

/-- The numbers at which the clauses about registers meet. -/
theorem witness_Management_registers :
    (Serves tsM (tmq 1 [0x100]) 1 ∧ ManagedReads tsM (tmq 1 [0x100]).p0.toNat 20) ∧ ManagedReads tsM 0x80F 0 ∧ ManagedReads tsM 0x82F 256 ∧
    ManagedReads tsM 0xAFF 0xFFFFFFFF ∧ (tmq 1 [0xFF]).p0.toNat < 0x100 ∧ 0xAFF < (tmq 1 [0xB00]).p0.toNat ∧
    Serves tsM (tmq 2 [0x100, 30]) 2 ∧ bits (30 : W64) 4 0 ≤ 30 ∧ bits (10 : W64) 4 0 ≥ 10 ∧ bits (0x1403 : W64) 12 8 ≤ 20 ∧
    tsM.hops = [] ∧ bits (3 : W64) 2 0 ≤ 3 ∧ 3 < bits (4 : W64) 2 0 ∧
    { tsM with fillQueue := [5] }.fillQueue ≠ [] ∧ tsM.fillQueue = [] ∧
    (∀ i < 32, bits (2 : W64) (2 * i + 1) (2 * i) ≠ 3 ∧ bits (tabGet 0 tsM.lgrp 0) (2 * i + 1) (2 * i) ≠ 3) ∧
    (let s := { tsM with lgrp := [(1, 3)] };
      Serves s (tmq 2 [0x800, 3]) 2 ∧ bits (3 : W64) 1 0 = 3 ∧
      (∀ j < 32, j ≠ 0 → bits (3 : W64) (2 * j + 1) (2 * j) = bits (tabGet 0 s.lgrp 0) (2 * j + 1) (2 * j)) ∧
      bits (tabGet 0 s.lgrp 0) 1 0 ≠ 3 ∧ layoutOf s 32 = 3) ∧
    256 < bits (0x202000000000 : W64) 45 37 ∧ bits (0x200000000000 : W64) 45 37 ≤ 256 ∧ tsM.rounds = [] := by
  refine ⟨⟨serves tsM ⟨rfl, rfl, rfl⟩ 1 _, .inl ⟨by decide, rfl⟩⟩, ?_, ?_, ?_, by decide, by decide, serves tsM ⟨rfl, rfl, rfl⟩ 2 _, by decide,
    by decide, by decide, rfl, by decide, by decide, by decide, rfl, by decide +kernel, ⟨serves _ ⟨rfl, rfl, rfl⟩ 2 _, by decide +kernel⟩,
    by decide, by decide, rfl⟩ <;> simp only [ManagedReads] <;> decide +kernel

/-- The conditions of the requests about contexts, keys, granules and the matrix engine. -/
theorem witness_Management_requests :
    (Serves tsM (tmq 3 [15, 0, 0, 0, 0xA000000000000000, 0x7F]) 3 ∧
      (let q := tmq 3 [15, 0, 0, 0, 0xA000000000000000, 0x7F];
        q.p0.toNat < 16 ∧ bits q.p5 63 13 = 0 ∧ bits q.p5 12 6 = 1 ∧ ctxReserved q = false ∧ findCtx tsM q.p0.toNat = none ∧
        bits q.p5 5 0 + 1 ≤ 64 ∧ (∀ c ∈ tsM.ctxs, c.cgFirst + c.cgCount ≤ bits q.p5 5 0) ∧ bits q.p4 63 60 ≤ 10 ∧ bit q.p1 1 = false)) ∧
    (Serves tsM (tmq 4 [16]) 4 ∧ 16 ≤ (tmq 4 [16]).p0.toNat) ∧ (Serves tsM (tmq 4 [0]) 4 ∧ findCtx tsM 0 = some tc) ∧
    (Serves tsM (tmq 5 [1]) 5 ∧ bits (1 : W64) 63 16 = 0 ∧ bits (1 : W64) 7 0 = 1 ∧ tsM.keys.length < 4096 ∧ 1 < bits (2 : W64) 7 0 ∧
      bits (0xF00 : W64) 15 8 < 16 ∧ findCtx tsM 15 = none) ∧
    (Serves tsM (tmq 6 [5]) 6 ∧ bits (5 : W64) 63 32 = 0 ∧ (∀ k ∈ tsM.keys, k.key ≠ 5) ∧ ∃ k ∈ { tsM with keys := [tkey] }.keys, k.key = 5) ∧
    (let s := { tsM with lgrp := [(0, 1)] };
      Serves s (tmq 7 [0x10000]) 7 ∧ (0x10000 < 2 ^ 40 ∧ 0x10000 % 65536 = 0 ∧ layoutOf s (groupOf 0x10000) = 1 ∧ 0x10000 ∉ s.granules ∧
        (s.granules.filter fun g => homeOf s g == homeOf s 0x10000).length < 1024)) ∧
    (let s := { tsM with granules := [0x10000] }; Serves s (tmq 8 [0x10000]) 8 ∧ 0x10000 ∈ s.granules ∧ Calm s) ∧
    (Serves tsM (tmq 11 [382]) 11 ∧ (382 : W64).toNat % 2 = 0 ∧ 382 < (384 : W64).toNat ∧
      (let s := { tsM with blocks := [] }; s.blocks = [] ∧ s.ops = [] ∧ (pairAt s 191).ring = [])) ∧
    (let s := { tsp with conns := [(1, some 3)], opKey := some 3, pairs := [(0, { ring := [(11, 0)] })], mem := tmemFull };
      Serves s (tmq 11 [0]) 11 ∧ resetRoom s 0 = false) := by
  refine ⟨⟨serves _ ⟨rfl, rfl, rfl⟩ 3 _, by decide +kernel⟩, ⟨serves _ ⟨rfl, rfl, rfl⟩ 4 _, by decide⟩, ⟨serves _ ⟨rfl, rfl, rfl⟩ 4 _, rfl⟩,
    ⟨serves _ ⟨rfl, rfl, rfl⟩ 5 _, by decide +kernel⟩,
    ⟨serves _ ⟨rfl, rfl, rfl⟩ 6 _, by decide, by simp [tsM, ts, withWarp], tkey, by simp, rfl⟩,
    ⟨serves _ ⟨rfl, rfl, rfl⟩ 7 _, by decide +kernel⟩, ⟨serves _ ⟨rfl, rfl, rfl⟩ 8 _, by decide, rfl⟩,
    ⟨serves _ ⟨rfl, rfl, rfl⟩ 11 _, by decide +kernel⟩, ⟨serves _ ⟨rfl, rfl, rfl⟩ 11 _, by decide +kernel⟩⟩

theorem witness_Platform :
    (let d := getDie ts 3; d.profile ≤ 2 ∧ d.profile ≠ { ts with profile := 3 }.profile ∧ d.profile ≠ 3) ∧
    (findBlock ts tb.id = some tb ∧ tb.ended = false ∧ findCtx ts tb.ctx = some tc ∧ ctxRuns ts tb.ctx = true ∧ fltFull ts tc = false ∧
      fltFull { ts with mem := tmemFull } tc = true) ∧
    (let s := tsQ tq [tk] (.walker 31); findWalker s tk.id = some tk ∧ findQuery s tk.query = some tq) ∧
    ts.commits = [] ∧ ts.fillQueue = [] ∧
    (let c : Commit := { pa := 0x100, mask := 1, data := 7 }; let s := { ts with commits := [c] };
      s.commits = c :: [] ∧ s.fillQueue = [] ∧ c.pa % 256 = 0) ∧
    (let s := { ts with lgrp := [(15, 0xC000000000000000)] };
      hasCount s 0 = true ∧ hasCount s (511 * 2 ^ 31 - 1) = true ∧ hasCount s (511 * 2 ^ 31) = false) ∧
    (let s := { ts with fillQueue := [511] }; s.fillQueue = 511 :: [] ∧ groupOf 0 ≠ 511 ∧ groupOf 0 ∉ s.filled) := by decide +kernel

/-- Memory that holds a line at 0x10000, where warp 12 stands. -/
def tlineMem (l : FetchLine) : Tab Byte :=
  ((toBytes 64 l.toNat).mapIdx fun i b => (0x10000 + i, b)).filter fun p => p.2 != 0
def tsL (w : Warp) (l : FetchLine) : State := { withWarp w with mem := tlineMem l }
/-- A line of `nop`s with a LINEWORD. -/
def lw (x : BitVec 30) : FetchLine := mkLine 0 0 0 0 0 x
/-- A group that a transfer at slot 0 led to its line. -/
def tgTo : Group := { tg with entry := .transfer 0 }
/-- One that an `eret` at slot 0 led there. -/
def tgRet : Group := { tg with entry := .returned 0 }

def LineAt (l : FetchLine) : Prop :=
  lineParity l = true ∧ homeFetch (tsL tw l) 0x10000 = l ∧ badRead (tsL tw l) 0x10000 = none

/-- A legal line whose slots are branch targets or not, that waits for flag 11 or not, a line with SET_A on flag 12, and one where
slot 0 begins a pair; from each the byte of its fetch. -/
theorem witness_LineEntry :
    (LineAt (lw 0) ∧ LineAt (lw 0x800) ∧ LineAt (lw 0x1C000) ∧ LineAt (lw 0x7C00000)) ∧
    (issuer (tsL tw (lw 0)) = some (tw, tg) ∧ findCtx (tsL tw (lw 0)) tw.ctx = some tc ∧
      checkByte (tsL tw (lw 0)) tc needFetch (lineVa tg.pc) = .ok (txl 0x10000)) ∧
    lineLegal .execute (lw 0) = true ∧ (∀ n < 12, bit (lineWait (lw 0)) n = true → tw.flag n = 0) ∧
    (let w := { tw with f := [(11, 1)] }; lineLegal .execute (lw 0x800) = true ∧ bit (lineWait (lw 0x800)) 11 = true ∧ w.flag 11 ≠ 0) ∧
    lineLegal .execute (lw 0x1C000) = false ∧
    (let w := { tw with groups := [tgTo] };
      issuer (tsL w (lw 0)) = some (w, tgTo) ∧ lineBtgt (lw 0) (tgTo.pc % 5) = false ∧ lineBtgt (lw 0x7C00000) (tgTo.pc % 5) = true ∧
      ∀ i ∈ linePairs (lw 0x7C00000), i + 1 ≠ tgTo.pc % 5) ∧
    (let w := { tw with groups := [tgRet] };
      issuer (tsL w (lw 0)) = some (w, tgRet) ∧ fltFull (tsL w (lw 0)) tc = false ∧ findBlock (tsL w (lw 0)) w.block = some tb ∧
      tb.ended = false) := by
  unfold LineAt
  decide +kernel

/-- The manual's `eret` without a label (17): the branch-target trap is unhandled and ends the block
although a handler is there. -/
theorem test_eret_without_label :
    (match exec .lineEntry (tsL { tw with groups := [tgRet] } (lw 0)) with
      | .next t => t.warps == []
      | _ => false) = true := by decide +kernel

theorem witness_LineEntry_units :
    (let s := { tsL (twaR 5120 [] {}) (lw 0) with cur := .access 12 };
      s.cur = .access 12 ∧ findWarp s 12 = some (twaR 5120 [] {}) ∧ (twaR 5120 [] {}).acc.pc = 5120 ∧ lineLegal .access (lw 0) = true ∧
      (twaR 5120 [] {}).acc.entry = .resume) ∧
    (let q := { tq with lines := [lw 0] };
      WalkIssues (tsK q { tk with pc := 5120 }) { tk with pc := 5120 } q ∧ q.lines[5120 / 5 - q.prog / 5]? = some (lw 0) ∧
      q.bad.contains 0 = false ∧ lineLegal .walker (lw 0) = true) ∧
    lineLegal .walker (lw 0x800) = false ∧ tq.lines[5125 / 5 - tq.prog / 5]? = none ∧
    (let i := { ti with lines := [lw 0] };
      BankIssues (tsN [i] []) i tn ∧ i.lines[i.pc / 5 - tn.prog / 5]? = some (lw 0) ∧ tn.prog / 5 ≤ i.pc / 5 ∧ i.bad = [] ∧
      lineLegal .bank (lw 0) = true ∧ findCtx (tsN [i] []) tn.ctx = some tc ∧ fltFull (tsN [i] []) tc = false ∧
      findBlock (tsN [i] []) tn.block = some tb ∧ tb.ended = false) := by
  refine ⟨by decide +kernel, ⟨walk_issues _ _ ⟨rfl, rfl, rfl⟩, by decide +kernel⟩, by decide +kernel, by decide +kernel,
    ⟨rfl, rfl, rfl⟩, by decide +kernel⟩


/-! ### Steps -/

theorem next_of {o : Host.Outcome State Fault Refusal} {P : State → Prop} [DecidablePred P]
    (h : (match o with | .next t => decide (P t) | _ => false) = true) : ∃ t, o = .next t ∧ P t := by
  cases o with
  | next t => exact ⟨t, rfl, of_decide_eq_true h⟩
  | fault _ => cases h
  | refused _ => cases h

/-- The place where the next step issues a word. -/
def tsW (word : Nat) : State := ({} : State).withFetchWord 96 word
/-- The same with the group at slot 0 of a line that it has entered, and a register limit. -/
def tsIn (l : FetchLine) (limit : Nat) : State :=
  { tsW 0 with warps := (tsW 0).warps.map fun w => { w with limit, groups := [{ slices := 255, pc := 5120, entry := .inside l }] } }
def runIn (s : State) : State := { runGroup s 2 255 with last := .retired }

/-- `iadd.u32 v2, v0, v1`, `iadd.u32 v3, v4, v5` and `iadd.u32 v200, v0, v0`. -/
def iadd2 : Instr := .iadd { ty := .u32, d := 2, a := 0, b := 1 }
def iadd3 : Instr := .iadd { ty := .u32, d := 3, a := 4, b := 5 }
def iadd200 : Instr := .iadd { ty := .u32, d := 200 }
def lineOne : FetchLine := placedLine 0x1000200010
def lineOver : FetchLine := placedLine 0xC800010
def linePaired : FetchLine := mkLine 0x1000200010 0x5040300010 0 0 0 0x8000000
def lineBad : FetchLine := placedLine 0xFF

theorem witness_StepRunsDecodedInstruction_movers :
    chosen {} = none ∧
    (let s : State := { inputs := [.managementConnect 1 none] }; chosen s = some (.input 0) ∧ s.inputs[0]? = some (.managementConnect 1 none)) ∧
    chosen { fillQueue := [5] } = some (.event .layoutFillDone) ∧
    (let s := { tsW 0x001000C0 with walkers := (tsW 0x001000C0).walkers.map fun w => { w with entry := .inside (placedLine 0x001000C0) } };
      let r := { s with cur := .walker 1 };
      chosen s = some (.unit (.walker 1)) ∧ Inside r .walker (placedLine 0x001000C0) 5120 ∧ Single .walker (placedLine 0x001000C0) 5120 ∧
      Reads .walker (placedLine 0x001000C0) (5120 % 5) (.wnode { d := 1 }) ∧ rangeTrap r (.wnode { d := 1 }) = none) := by
  simp only [Inside, Single, Reads]
  decide +kernel

theorem witness_StepRunsDecodedInstruction :
    (let r := runIn (tsIn lineOne 256);
      chosen (tsIn lineOne 256) = some (.group 2 255) ∧ Inside r .execute lineOne 5120 ∧ Single .execute lineOne 5120 ∧
      Reads .execute lineOne 0 iadd2 ∧ rangeTrap r iadd2 = none) ∧
    (let r := runIn (tsIn lineOver 96);
      chosen (tsIn lineOver 96) = some (.group 2 255) ∧ Inside r .execute lineOver 5120 ∧ Single .execute lineOver 5120 ∧
      Reads .execute lineOver 0 iadd200 ∧ rangeTrap r iadd200 ≠ none) ∧
    (let r := runIn (tsIn lineBad 256);
      chosen (tsIn lineBad 256) = some (.group 2 255) ∧ Inside r .execute lineBad 5120 ∧ Single .execute lineBad 5120 ∧
      (decode (slotWord lineBad 0)).toOption = none) := by
  simp only [Inside, Single, Reads]
  decide +kernel

theorem witness_StepRunsDecodedInstruction_pair :
    let r := runIn (tsIn linePaired 256);
    (chosen (tsIn linePaired 256) = some (.group 2 255) ∧ Inside r .execute linePaired 5120 ∧ 5120 % 5 ∈ linePairs linePaired ∧
      Reads .execute linePaired 0 iadd2 ∧ Reads .execute linePaired 1 iadd3 ∧ pairLegal iadd2 iadd3 = true ∧
      rangeTrap r iadd2 = none ∧ rangeTrap r iadd3 = none) ∧
    ∃ t, exec iadd2 { unwait r with view := (issuer r).map (·.1), popped := [] } = .next t ∧ (t.last = .retired ∧
      ∃ u, exec iadd3 t = .next u ∧ u.last = .retired) := by
  refine ⟨by simp only [Inside, Reads]; decide +kernel, ?_⟩
  have h : ∃ t, exec iadd2 { unwait (runIn (tsIn linePaired 256)) with view := (issuer (runIn (tsIn linePaired 256))).map (·.1), popped := [] } = .next t ∧
      (t.last = .retired ∧ (match exec iadd3 t with | .next u => decide (u.last = .retired) | _ => false) = true) :=
    next_of (by decide +kernel)
  obtain ⟨t, ht, hl, hu⟩ := h
  exact ⟨t, ht, hl, next_of hu⟩

theorem witness_StepRunsDecodedInstruction_entry :
    (let s := tsW 0x1000200010; let w := (tsW 0x1000200010).warps.headD tw;
      let g : Group := { slices := 255, pc := 5120 }; let r := runIn s;
      chosen s = some (.group 2 255) ∧ issuer r = some ({ w with runs := 255 }, g) ∧ g.entry = .resume ∧
      ∃ c, findCtx s w.ctx = some c ∧ ∃ x, checkByte s c needFetch (lineVa g.pc) = .ok x ∧ (badRead s x.pa = none ∧
        homeFetch s x.pa = lineOne)) ∧
    lineParity lineOne = true ∧ lineLegal .execute lineOne = true ∧ bits (lineWait lineOne) 11 0 = 0 :=
  ⟨⟨by decide +kernel, by decide +kernel, rfl, tc, by decide +kernel, ok_and (by decide +kernel)⟩, by decide +kernel⟩

theorem witness_DecodeEncode : iadd2.wellFormed = true ∧ encode iadd2 = some 0x1000200010 := by decide +kernel

theorem witness_StepKeepsMemory : Memory.wf (tsW 0x1000200010).mem = true ∧ (tsW 0x1000200010).mem ≠ [] ∧ ∃ t, step (tsW 0x1000200010) = .next t :=
  ⟨by decide +kernel, by decide +kernel, (next_of (P := fun _ => True) (by decide +kernel)).imp fun _ h => h.1⟩

/-! ### Single steps, with results of the manual's worked examples -/

/-- The warp after an instruction, and lane `L` of its register `n`. -/
def after (i : Instr) (w : Warp) : Warp := (nextOf (exec i (withWarp w))).warps.headD tw
def laneAfter (i : Instr) (w : Warp) (n L : Nat) : W32 := lane (tabGet 0 (after i w).v n) L
/-- A warp with lane `L` of registers as given. -/
def twv (L : Nat) (rs : List (Nat × W32)) : Warp := { tw with v := rs.map fun r => (r.1, setLane 0 L r.2) }

/-- FIPS 180-4's example of one block, "abc" (26/R456). -/
theorem test_sha384_abc : sha384 [0x61, 0x62, 0x63]
    = 0xcb00753f45a35e8bb5a03d699ac65007272c32ab0eded1631a8b605a43ff5bed8086072ba1e7cc2358baeca134c825a7 := by decide +kernel

/-- 02, "Example: one address in each layout"; a bank of pseudo-channel 1 counts from 64. -/
theorem test_address_layouts : [0, 1, 2].map (fun l => (stackUnder l 0x34567C40, channelUnder l 0x34567C40)) = [(7, 22), (6, 15), (6, 17)] := by
  decide +kernel
theorem test_address_banks :
    [0, 1, 2].map (fun l => bankRow { lgrp := [(1, BitVec.ofNat 64 (l * 256))] } 0x1234567C40) = [(64 + 5, 1165), (64 + 5, 1165), (31, 1174)] := by
  decide +kernel

/-- 05, "Example: conversions to DM8". -/
theorem test_dm8 : ([314159, 107031250, 992968750, 993, 97, -1].zip [100000, 100000000, 100000000, 100, 100, 10]).map
    (fun p => dm8Round false (ofRat ((p.1 : Int) / (p.2 : Int) : Rat))) = [0x4F, 0x40, 0x7F, 0x30, 0x2F, 0xA0] := by decide +kernel

/-- 05, "Example: decoding 0x20". -/
theorem test_dm8_internal : e8m11 (dm8Value 0 0x20) = ofRat ((1 + 1229 / 2048 : Rat) / 16) := by decide +kernel

/-- 05, "Example: an E2M1X block under id 24": elements 0, 1 and 2 under the scales 2.0, 0 and NaN. -/
theorem test_e2m1x_block :
    [(0x2, 0x1040), (0x8, 0x1040), (0xB, 0x1040), (0xB, 0x1000)].map (fun p => scaledValue 24 p.1 (BitVec.ofNat 32 p.2) (ofInt 50) false)
      = [ofInt 2, ofInt 50, ofInt (-3), ofRat 0 true] ∧ (scaledValue 24 2 0x107F (ofInt 50) false).isNan = true := by decide +kernel

/-- 07, "Example: generations across the wrap". -/
theorem test_cell_wrap :
    let c : Cell := { decided := true, gen := 0xFFFF, value := 7 }
    let e : Cell := { gen := 1, value := (cellApply c 2 0xFFFF 0).1.value }
    (cellApply c 0 1 5).1 = c ∧ (cellApply c 0 1 5).2.1 = 3 ∧ (cellApply c 2 0xFFFF 0).1 = e ∧ (cellApply e 0 0xFFFF 5).2.1 = 2 ∧
    (cellApply e 0 1 5).2.1 = 0 := by decide +kernel

/-- 11, "Example: field edges". -/
theorem test_bfx_bfxs_cut :
    (laneAfter (.bfx { ty := .b32, d := 5, a := 4, bk := .imm, imm := 0x081C }) (twv 31 [(4, 0xF0F01234)]) 5 31,
      laneAfter (.bfxs { ty := .b32, d := 5, a := 4, bk := .imm, imm := 0x081C }) (twv 31 [(4, 0xF0F01234)]) 5 31) = (0xF, 0xFFFFFFFF) := by
  decide +kernel
theorem test_bfi_middle : laneAfter (.bfi { ty := .b32, d := 5, a := 4, bk := .imm, imm := 0x0810 }) (twv 0 [(4, 0xF0F01234)]) 5 0
    = 0x00340000 := by decide +kernel

/-- 11, "Example: a shuffle across a parted warp": slices 0 to 3 and 4 to 7 are groups of their own. -/
theorem test_shfl_parted :
    let w := { tw with groups := [{ slices := 0x0F, pc := 5120 }, { slices := 0xF0, pc := 0 }], runs := 0x0F, k := [(5, 0xFFF0), (4, 0xF)]
                       v := [(1, (List.range 32).foldl (fun v L => setLane v L (BitVec.ofNat 32 (100 + L))) 0), (2, 0)] }
    let i := Instr.shflDown { ty := .b32, d := 2, a := 1, c := 4, km := 5, bk := .imm, imm := 16 }
    (laneAfter i w 2 3, laneAfter i w 2 4, laneAfter i w 2 15, laneAfter i w 2 16, tabGet 0 (after i w).k 4) = (0, 104, 115, 0, 0xF) := by
  decide +kernel

/-- 12, "Example: zeros and NaNs". -/
theorem test_fmin_zeros : laneAfter (.fmin { ty := .f32, d := 2, a := 0, b := 1 }) (twv 0 [(0, 0), (1, 0x80000000)]) 2 0 = 0x80000000 := by
  decide +kernel
theorem test_fmax_nan : laneAfter (.fmax { ty := .f32, d := 2, a := 0, b := 1 }) (twv 9 [(0, 0x7FA00001), (1, 0xFFC00000)]) 2 9 = 0x7FC00000 := by
  decide +kernel

/-- 12, "Example: packing bytes into a register": 300.0, and 500.0 with `.sat` and without. -/
theorem test_cvt_packs :
    let i := fun m => Instr.cvt { ty := .b32, d := 7, a := 3, md := m, bk := .imm, imm := 0x00020400 }
    [(4, (0x43960000 : W32)), (4, 0x43FA0000), (0, 0x43FA0000), (4, 0x3A83126F)].map (fun p => laneAfter (i (BitVec.ofNat 4 p.1)) (twv 0 [(3, p.2), (7, 0x11223344)]) 7 0)
      = [0x11793344, 0x117E3344, 0x117F3344, 0x11013344] := by decide +kernel

/-- 17, "Example: a system call". -/
theorem test_syscall :
    let w := { tw with tvec := 0x1000000800, groups := [{ tg with pc := 0x40000011 * 5 + 2 }] }
    let t := after (.syscall { sc := true, bk := .imm, imm := 7 }) w
    (t.tepc, t.tcause, t.tinfo, t.groups.map (·.pc)) = (0x1000000443, 0x7010C, 0, [0x40000020 * 5]) := by decide +kernel

/-- 14, "Example: one lottery draw and one window": the weights of the three stages, the draw and the next state of the LFSR. -/
theorem test_lottery :
    let t : StageSet :=
      { tset 2 .opened {} with stages := [{ p := 16384, c := 40 }, { p := 49152, c := 10 }, { p := 32768, c := 20 }], lfsr := 0x9E3779BB
                               rings := [0, 32, 48].map fun n => { cap := 64, waiting := List.range n, used := List.range n } }
    (lfsrSeed 0x9E3779B9 2, [0, 1, 2].map t.weight, (lottery t [0, 1, 2]).2, (lottery t [0, 1, 2]).1.lfsr)
      = (0x9E3779BB, [80530636, 53687091, 26843545], 0, 0x3C6EF376) := by decide +kernel

/-- 08, "Example: encoding one line": the LINEWORD with WAIT 2, SETA 2 and one branch target; PLO and PHI. -/
theorem test_line_word : lineWord (mkLine 0x81400020_40A31040 0 0 0 0 0x412002) = 0x40412002 := by decide +kernel

/-- 09, "Example: a DM8 row load with zero fill": lanes 1, 3 and 6. -/
theorem test_ld_dm8 :
    let w := { twr [(4, 0)] with k := [(2, 0x1FF)], v := [(1, (List.range 32).foldl (fun v L => setLane v L (BitVec.ofNat 32 (3 * L))) 0)] }
    let l := { tl with kernel := { tl.kernel with recs := [[], [], [], [0x101000, 0x0109000000000018, 0x0100000000000010, 0, 0x800FF]] } }
    let s := { withWarp w with launches := [l], mem := [(0x101003, 0x4F), (0x101011, 0x30), (0x101022, 0x50)] }
    let v := tabGet 0 ((nextOf (exec (.ld { ty := .f32, d := 10, a := 3, c := 4, b := 1, km := 2 }) s)).warps.headD tw).v 10
    [1, 3, 6].map (lane v) = [0x40470000, 0x41200000, 0] := by
  decide +kernel

/-! ### The step from the place where a word issues -/

/-- `iadd.u32 v2, v0, v1` with zeros, and the next slot. -/
theorem test_step_iadd : ((stepWord {} 0x1000200010).warps.headD tw).groups.map (·.pc) = [5121] := by decide +kernel
/-- A word with no opcode raises a trap, which no handler takes: the block is killed. -/
theorem test_step_unassigned : (stepWord {} 0xFF).warps = [] := by decide +kernel

/-- 13, "Example: one element through mma and drain": row 5 and column 70. -/
def toEx (i : Instr) : JointOp :=
  { to1 i .started with
    fmt := 0x1709, aval := [(List.range 8).map fun r => if r = 0 then setLane 0 5 0x204F else 0]
    s := [(6, 0x1000), (8, 0x400000000), (9, 0x800000000), (10, 0x2000), (11, 64), (12, 0x3F800000), (14, 0x3000)]
    recs := [(1, 4, 564, 0x580)], side := [(0x30000A, 0x48), (0x30000B, 0x42)] }
def tbEx : Block := { tbp with spad := tabSet 0 (tabSet 0 (tabSet 0 (tabSet 0 [] 0x3118 0x00) 0x3119 0x34) 0x311A 0x2B) 0x311B 0xBF
                               spadF := [(0x1003, 8), (0x1023, 2)] }

theorem test_mma_cell :
    mmaCell (toEx (.mma { sub := 1, d := 1, a := 64, b := 6, c := 8, imm := 0x40000 })) tbEx
      [[], [], [], [], [0x100000, 0x0017000000100000, 0x0100000400000040, 0x300000, 0x002000FF]] 1 5 6 0 = 0x431BAB34 := by decide +kernel
theorem test_drain_cell :
    (drainCell (toEx (.drain { sub := 5, md := 10, d := 1, a := 10, b := 14, c := 12, imm := 9 })) tbEx [] 0 70 0x431BAB34).1 = 0x18 := by
  decide +kernel

end Sys2Proof.Tests
end

section
/-! What the result writers of the execute slice leave in lanes, masks, s-registers and condition codes (06/R115-R116,
11/R245-R246), each said once. -/

namespace Sys2Proof.Proofs

open Machine Spec Laws

/-! ### Lanes, masks and sets of slices -/

@[simp] theorem bit_or {n : Nat} (x y : BitVec n) (i : Nat) : bit (x ||| y) i = (bit x i || bit y i) := BitVec.getLsbD_or

@[simp] theorem bit_and {n : Nat} (x y : BitVec n) (i : Nat) : bit (x &&& y) i = (bit x i && bit y i) := BitVec.getLsbD_and

@[simp] theorem bit_zero {n : Nat} (i : Nat) : bit 0#n i = false := BitVec.getLsbD_zero

theorem bit_not {n : Nat} (x : BitVec n) (i : Nat) (h : i < n) : bit (~~~x) i = !bit x i := by simp [bit, h]

theorem mem_lanesOf (m : W32) (L : Nat) : L ∈ lanesOf m ↔ L < 32 ∧ bit m L = true := by
  simp [lanesOf, bit]

theorem mem_slicesOf (m : BitVec 8) (j : Nat) : j ∈ slicesOf m ↔ j < 8 ∧ bit m j = true := by
  simp [slicesOf, bit]

/-- Bits [hi:lo] are those of the number put there; the others stay. -/
theorem getLsbD_putBits {n : Nat} (x : BitVec n) (hi lo y i : Nat) (h : i < n) :
    (putBits x hi lo y).getLsbD i = if lo ≤ i ∧ i < hi + 1 then y.testBit (i - lo) else x.getLsbD i := by
  have mask : (BitVec.ofNat n ((2 ^ (hi + 1 - lo) - 1) <<< lo)).getLsbD i = decide (lo ≤ i ∧ i < hi + 1) := by
    rw [BitVec.getLsbD_ofNat, Nat.testBit_shiftLeft, Nat.testBit_two_pow_sub_one]
    by_cases hl : lo ≤ i
    · have : i - lo < hi + 1 - lo ↔ i < hi + 1 := by omega
      simp [h, hl, this]
    · simp [hl]
  rw [putBits, BitVec.getLsbD_or, BitVec.getLsbD_and, BitVec.getLsbD_and, BitVec.getLsbD_not, mask, BitVec.getLsbD_ofNat,
    Nat.testBit_shiftLeft]
  by_cases hr : lo ≤ i ∧ i < hi + 1
  · simp [h, hr]
  · simp only [decide_eq_false hr, if_neg hr]
    simp [h]

/-- Reading a lane after a lane was replaced. -/
theorem lane_setLane (v : VReg) (L M : Nat) (x : W32) (hM : M < 32) :
    lane (setLane v L x) M = if M = L then x else lane v M := by
  apply BitVec.eq_of_getLsbD_eq
  intro i hi
  simp only [lane, setLane, BitVec.getLsbD_extractLsb', hi, decide_true, Bool.true_and]
  rw [getLsbD_putBits _ _ _ _ _ (by omega)]
  by_cases h : M = L
  · subst h
    simp [BitVec.testBit_toNat, show 32 * M + i < 32 * M + 31 + 1 by omega]
  · have : ¬ (32 * L ≤ 32 * M + i ∧ 32 * M + i < 32 * L + 31 + 1) := by omega
    rw [if_neg this, if_neg h, BitVec.getLsbD_extractLsb']
    simp [hi]

/-- The lanes listed receive their values, in whatever order they are written. -/
theorem lane_foldl_setLane (fn : Nat → W32) (M : Nat) (hM : M < 32) (l : List Nat) (v : VReg) :
    lane (l.foldl (fun v L => setLane v L (fn L)) v) M = if M ∈ l then fn M else lane v M := by
  induction l generalizing v with
  | nil => simp
  | cons L l ih =>
    rw [List.foldl_cons, ih, lane_setLane v L M _ hM]
    by_cases hl : M ∈ l
    · simp [hl]
    · by_cases h : M = L
      · subst h; simp
      · simp [hl, h]

theorem lane_mapLanes (v : VReg) (en : W32) (fn : Nat → W32) (M : Nat) (hM : M < 32) :
    lane (mapLanes v en fn) M = if bit en M then fn M else lane v M := by
  rw [mapLanes, lane_foldl_setLane fn M hM]
  simp [mem_lanesOf, hM]

/-- A word put together from the bits of a list: bit `i` is set where it was set, or where a listed member sets it. -/
theorem bit_foldl_or {n : Nat} (p : Nat → Bool) (i : Nat) (hi : i < n) (l : List Nat) (a : BitVec n) :
    bit (l.foldl (fun (a : BitVec n) j => if p j then a ||| BitVec.ofNat n (1 <<< j) else a) a) i
      = (bit a i || (decide (i ∈ l) && p i)) := by
  induction l generalizing a with
  | nil => simp
  | cons j l ih =>
    have one : (BitVec.ofNat n (1 <<< j)).getLsbD i = decide (j = i) := by
      rw [BitVec.getLsbD_ofNat, Nat.one_shiftLeft, Nat.testBit_two_pow]
      simp [hi]
    rw [List.foldl_cons, ih]
    by_cases h : j = i
    · subst h
      cases hp : p j <;> simp [bit, one]
    · cases hp : p j <;> simp [bit, one, h, Ne.symm h]

/-! ### Registers after the pops and after a run of writes (06/R108, 06/R132) -/

/-- Pops change the queues of a warp and nothing else of it. -/
theorem foldl_putQueue_frame (l : List Nat) (w : Warp) :
    ∃ q, l.foldl (fun w n => putQueue w n { queueAt w n with entries := (queueAt w n).entries.drop 1 }) w = { w with q } := by
  induction l generalizing w with
  | nil => exact ⟨w.q, rfl⟩
  | cons n l ih =>
    obtain ⟨q, hq⟩ := ih (putQueue w n { queueAt w n with entries := (queueAt w n).entries.drop 1 })
    exact ⟨q, by rw [List.foldl_cons, hq]; rfl⟩

theorem exeOf_w_frame (s : State) (w : Warp) (g : Group) (f : Fields) : ∃ q, (exeOf s w g f).w = { w with q } :=
  foldl_putQueue_frame _ w

@[simp] theorem exeOf_readV (s : State) (w : Warp) (g : Group) (f : Fields) (n : Nat) : (exeOf s w g f).w.readV n = w.readV n := by
  obtain ⟨q, h⟩ := exeOf_w_frame s w g f
  rw [h]; rfl

@[simp] theorem exeOf_readK (s : State) (w : Warp) (g : Group) (f : Fields) (n : Nat) : (exeOf s w g f).w.readK n = w.readK n := by
  obtain ⟨q, h⟩ := exeOf_w_frame s w g f
  rw [h]; rfl

@[simp] theorem exeOf_slice (s : State) (w : Warp) (g : Group) (f : Fields) (j : Nat) : (exeOf s w g f).w.slice j = w.slice j := by
  obtain ⟨q, h⟩ := exeOf_w_frame s w g f
  rw [h]; rfl

/-- Writes of one s-register in a list of slices: those slices receive their values, the others keep theirs, and of a warp only
its slices change. -/
theorem foldl_writeS (d : Nat) (fn : Nat → W64) (l : List Nat) (w : Warp) :
    let w' := l.foldl (fun w j => w.writeS j d (fn j)) w
    w' = { w with slices := w'.slices } ∧ (∀ j, OnlyS (w.slice j) (w'.slice j)) ∧
    (∀ j r, r ≠ d ∨ r = 0 → w'.readS j r = w.readS j r) ∧
    (d ≠ 0 → ∀ j, w'.readS j d = if j ∈ l then fn j else w.readS j d) := by
  induction l generalizing w with
  | nil => exact ⟨rfl, fun _ => rfl, fun _ _ _ => rfl, fun _ _ => by simp⟩
  | cons i l ih =>
    obtain ⟨frame, only, other, same⟩ := ih (w.writeS i d (fn i))
    have slice : ∀ j, (w.writeS i d (fn i)).slice j = if j = i then (w.slice i).writeS d (fn i) else w.slice j := fun j => by
      rw [Warp.writeS, slice_setSlice]
    refine ⟨frame, fun j => ?_, fun j r hr => ?_, fun hd j => ?_⟩
    · refine (only j).trans ?_
      rw [slice j]
      by_cases h : j = i
      · subst h
        by_cases hd : d = 0
        · subst hd; simp
        · simp [Slice.writeS, hd]
      · simp [h]
    · refine (other j r hr).trans ?_
      rw [Warp.readS, slice j]
      by_cases h : j = i
      · subst h
        by_cases hd : d = 0
        · subst hd; simp [Warp.readS]
        · have hrd : r ≠ d := by omega
          simp [readS_writeS _ _ _ _ hd, hrd, Warp.readS]
      · simp [h, Warp.readS]
    · refine (same hd j).trans ?_
      by_cases hl : j ∈ l
      · simp [hl]
      · rw [Warp.readS, slice j]
        by_cases h : j = i
        · subst h; simp [hl, readS_writeS _ _ _ _ hd]
        · simp [hl, h, Warp.readS]

/-- Writes of one condition-code register in a list of slices. -/
theorem foldl_writeC (d : Nat) (fn : Nat → Cond) (l : List Nat) (w : Warp) :
    let w' := l.foldl (fun w j => w.writeC j d (fn j)) w
    w' = { w with slices := w'.slices } ∧ (∀ j, w'.slice j = { w.slice j with c := (w'.slice j).c }) ∧
    (∀ j r, (w'.slice j).readC r = if r = d ∧ j ∈ l then fn j else (w.slice j).readC r) := by
  induction l generalizing w with
  | nil => exact ⟨rfl, fun _ => rfl, fun _ _ => by simp⟩
  | cons i l ih =>
    obtain ⟨frame, only, read⟩ := ih (w.writeC i d (fn i))
    have slice : ∀ j, (w.writeC i d (fn i)).slice j = if j = i then (w.slice i).writeC d (fn i) else w.slice j := fun j => by
      rw [Warp.writeC, slice_setSlice]
    refine ⟨frame, fun j => (only j).trans ?_, fun j r => (read j r).trans ?_⟩
    · rw [slice j]
      by_cases h : j = i
      · subst h; simp [Slice.writeC]
      · simp [h]
    · rw [slice j]
      by_cases hl : r = d ∧ j ∈ l
      · simp [hl]
      · by_cases h : j = i
        · subst h
          by_cases hr : r = d <;> simp [hr]
        · simp [hl, h]

/-! ### What the result writers do (06/R115-R116, 11/R245-R246) -/

section results

variable {s : State} {w : Warp} {g : Group} {f : Fields} {i : Instr}
  {body : State → Exe → Except Stop State}

/-- An instruction whose body gives a state gives that state, retired. -/
theorem exec_issues {t : State} (h : Issues s w g f) (he : exec i s = execute s f body)
    (hb : body (popped s w f) (exeOf s w g f) = .ok t) : exec i s = .next { t with last := .retired } :=
  he.trans (execute_ok s t f body w g h.1 h.2 hb)

theorem writesV_of_vecResult {fn : Nat → W32} {R : Nat → W32 → Prop}
    (h : Issues s w g f) (he : exec i s = execute s f body)
    (hb : body (popped s w f) (exeOf s w g f) = .ok (vecResult (popped s w f) (exeOf s w g f) f.d.toNat fn))
    (hR : ∀ L < 32, R L (fn L)) : WritesV (exec i s) s w g f R := by
  refine ⟨_, exec_issues h he hb, fun L hL => ?_, fun r hr => ?_, rfl⟩
  · rw [readV_writeV, if_pos rfl, lane_mapLanes _ _ _ _ hL]
    split
    · exact hR L hL
    · rw [exeOf_readV]
  · rw [readV_writeV, if_neg hr, exeOf_readV]

theorem writesS_of_scaResult {base : State} {fn : Nat → W64} {R : Nat → W64 → Prop}
    (h : Issues s w g f) (he : exec i s = execute s f body)
    (hb : body (popped s w f) (exeOf s w g f) = .ok (scaResult base (exeOf s w g f) f.d.toNat fn))
    (hR : ∀ j < 8, R j (fn j)) : WritesSOver base (exec i s) s w g f R := by
  obtain ⟨frame, only, other, same⟩ := foldl_writeS f.d.toNat fn (exeOf s w g f).slices (exeOf s w g f).w
  refine ⟨_, exec_issues h he hb, fun j hj hd => ?_, fun j r hr => ?_, fun j => ?_, frame⟩
  · have hd' : f.d.toNat ≠ 0 := fun h => hd (BitVec.eq_of_toNat_eq h)
    rw [same hd' j]
    by_cases hm : j ∈ (exeOf s w g f).slices
    · simpa [hm] using hR j hj
    · simp [hm, Warp.readS]
  · rw [other j r hr, Warp.readS, exeOf_slice]; rfl
  · simpa using only j

theorem writesK_of_maskResult {fn : Nat → Bool} {R : Nat → Bool} (hd : f.d ≠ 0)
    (h : Issues s w g f) (he : exec i s = execute s f body)
    (hb : body (popped s w f) (exeOf s w g f) = .ok (maskResult (popped s w f) (exeOf s w g f) f.d.toNat fn))
    (hR : ∀ L < 32, fn L = R L) : WritesK (exec i s) s w g f R := by
  have hd' : f.d.toNat ≠ 0 := fun h => hd (BitVec.eq_of_toNat_eq h)
  refine ⟨_, exec_issues h he hb, fun L hL => ?_, fun r hr => ?_, by simp [Warp.writeK, hd']⟩
  · rw [readK_writeK _ _ _ _ hd', if_pos rfl, exeOf_readK, bit_or, bit_and, bit_not _ _ hL, bit_foldl_or fn L hL]
    by_cases he : bit (exeOf s w g f).en L = true
    · simp [mem_lanesOf, hL, he, hR L hL]
    · simp [mem_lanesOf, he]
  · rw [readK_writeK _ _ _ _ hd', if_neg hr, exeOf_readK]

theorem writesC_of_condResult {fn : Nat → Cond} {R : Nat → Cond}
    (h : Issues s w g f) (he : exec i s = execute s f body)
    (hb : body (popped s w f) (exeOf s w g f) = .ok (condResult (popped s w f) (exeOf s w g f) f.d.toNat fn))
    (hR : ∀ j < 8, fn j = R j) : WritesC (exec i s) s w g f R := by
  obtain ⟨frame, only, read⟩ := foldl_writeC f.d.toNat fn (exeOf s w g f).slices (exeOf s w g f).w
  refine ⟨_, exec_issues h he hb, fun j hj => ?_, fun j r hr => ?_, fun j => ?_, frame⟩
  · rw [read, exeOf_slice, hR j hj]
    simp
  · rw [read, exeOf_slice]
    simp [hr]
  · simpa using only j

/-- A computing instruction: it is enough to say what its function of numbers gives in the type's width. -/
theorem computes_of_compute (h : Issues s w g f) (fn : Nat → Nat → Nat → Nat → Nat)
    {op : (n : Nat) → BitVec n → BitVec n → BitVec n → BitVec n → BitVec n → Prop}
    (he : exec i s = execute s f fun s x => .ok (compute s x f fn))
    (hop : ∀ n, tyWidth f.ty = n → ∀ a b c d : BitVec n, op n a b c d (BitVec.ofNat n (fn a.toNat b.toNat c.toNat d.toNat))) :
    Computes i s w g f op := by
  refine ⟨fun hsc hty => ?_, fun hsc => ?_⟩
  · refine writesV_of_vecResult h he (by simp only [compute, hsc, Bool.false_eq_true, if_false]; rfl) fun L _ => hop 32 hty _ _ _ _
  · refine writesS_of_scaResult h he (by simp only [compute, hsc, if_true]; rfl) fun j _ => ?_
    have trunc : ∀ x : W64, x.toNat % 2 ^ tyWidth f.ty = (x.setWidth (tyWidth f.ty)).toNat := fun x => (BitVec.toNat_setWidth _ _).symm
    simp only [trunc]
    have le : tyWidth f.ty ≤ 64 := by cases f.ty <;> decide
    have narrow : ∀ m, (BitVec.ofNat 64 (m % 2 ^ tyWidth f.ty)).setWidth (tyWidth f.ty) = BitVec.ofNat (tyWidth f.ty) m := fun m => by
      apply BitVec.eq_of_toNat_eq
      simp [Nat.mod_mod_of_dvd _ (Nat.pow_dvd_pow 2 le)]
    refine ⟨?_, ?_⟩
    · rw [narrow]
      apply BitVec.eq_of_toNat_eq
      simp
    · rw [narrow]
      exact hop _ rfl _ _ _ _

end results

end Sys2Proof.Proofs
end

section
/-! Shifts, rotations and bit fields (11/R257-R258): the model's numbers as operations on bit vectors of every width. -/

namespace Sys2Proof.Proofs

open Machine Spec Laws

/-! ### Numbers read in a width -/

theorem sextNat_toNat {n : Nat} (a : BitVec n) : sextNat n a.toNat = a.toInt := by
  rw [sextNat, BitVec.toInt_eq_toNat_cond, Nat.mod_eq_of_lt a.isLt]

theorem toBits_sextNat (n m x : Nat) : toBits m (sextNat n x) = (BitVec.ofNat n x).signExtend m := by
  have : sextNat n x = sextNat n (BitVec.ofNat n x).toNat := by simp [sextNat]
  rw [this, sextNat_toNat]
  rfl

theorem tyWidth_pos (ty : Ty) : 0 < tyWidth ty := by cases ty <;> decide

/-! ### Shifts and rotations (11/R257) -/

theorem ofNat_shiftLeft (n : Nat) (a : BitVec n) (b : Nat) :
    BitVec.ofNat n (shiftLeft n a.toNat b) = if n ≤ b % 256 then 0 else a <<< (b % 256) := by
  unfold shiftLeft
  split
  · rfl
  · apply BitVec.eq_of_toNat_eq; simp

theorem ofNat_shiftRight (n : Nat) (a : BitVec n) (b : Nat) :
    BitVec.ofNat n (shiftRight n a.toNat b) = if n ≤ b % 256 then 0 else a >>> (b % 256) := by
  unfold shiftRight
  split
  · rfl
  · rw [← BitVec.toNat_ushiftRight, BitVec.ofNat_toNat, BitVec.setWidth_eq]

/-- A shift right of a signed number is a division, rounded down. -/
theorem toBits_toInt_div {n : Nat} (a : BitVec n) (k : Nat) : toBits n (a.toInt / ((2 ^ k : Nat) : Int)) = a.sshiftRight k := by
  rw [toBits, ← Int.shiftRight_eq_div_pow]; rfl

theorem sshiftRight_width {n : Nat} (a : BitVec n) : a.sshiftRight n = if a.msb then BitVec.allOnes n else 0 := by
  apply BitVec.eq_of_getLsbD_eq
  intro i hi
  rw [BitVec.getLsbD_sshiftRight]
  cases h : a.msb <;> simp [hi]

theorem ofNat_shiftArith (n : Nat) (a : BitVec n) (b : Nat) :
    BitVec.ofNat n (shiftArith n a.toNat b)
      = if n ≤ b % 256 then (if a.msb then BitVec.allOnes n else 0) else a.sshiftRight (b % 256) := by
  rw [shiftArith, sextNat_toNat, toBits_toInt_div, BitVec.ofNat_toNat, BitVec.setWidth_eq]
  split
  · next h => rw [min_eq_right h, sshiftRight_width]
  · next h => rw [min_eq_left (by omega)]

theorem ofNat_rotateLeft (n : Nat) (a : BitVec n) (k : Nat) :
    BitVec.ofNat n (Machine.rotateLeft n a.toNat k) = a.rotateLeft k := by
  rw [Machine.rotateLeft, ← BitVec.toNat_rotateLeft, BitVec.ofNat_toNat, BitVec.setWidth_eq]

/-- A rotation right is the rotation left by what is missing to the width. -/
theorem rotateLeft_sub {n : Nat} (a : BitVec n) (k : Nat) (hn : 0 < n) : a.rotateLeft (n - k % n) = a.rotateRight k := by
  have hk := Nat.mod_lt k hn
  apply BitVec.eq_of_getLsbD_eq
  intro i hi
  rw [BitVec.getLsbD_rotateLeft, BitVec.getLsbD_rotateRight]
  by_cases h0 : k % n = 0
  · simp [h0, hi]
  · rw [Nat.mod_eq_of_lt (show n - k % n < n by omega), show n - (n - k % n) = k % n by omega]

/-- Settles O2: the model's numbers are those shifts and rotations in every width. -/
theorem shiftsAndRotates : Obligations.ShiftsAndRotates := by
  intro s w g f h
  refine ⟨?shl, ?shr, ?sar, ?rot, ?rotR⟩
  case shl =>
    refine computes_of_compute h (fun a b _ _ => shiftLeft (tyWidth f.ty) a b) rfl fun n hn a b _ _ => ?_
    rw [hn]; exact ofNat_shiftLeft n a b.toNat
  case shr =>
    refine computes_of_compute h (fun a b _ _ => shiftRight (tyWidth f.ty) a b) rfl fun n hn a b _ _ => ?_
    rw [hn]; exact ofNat_shiftRight n a b.toNat
  case sar =>
    refine computes_of_compute h (fun a b _ _ => shiftArith (tyWidth f.ty) a b) rfl fun n hn a b _ _ => ?_
    rw [hn]; exact ofNat_shiftArith n a b.toNat
  case rot =>
    refine computes_of_compute h (fun a b _ _ => Machine.rotateLeft (tyWidth f.ty) a (b % 256)) rfl fun n hn a b _ _ => ?_
    rw [hn]; exact ofNat_rotateLeft n a _
  case rotR =>
    refine computes_of_compute h
      (fun a b _ _ => Machine.rotateLeft (tyWidth f.ty) a (tyWidth f.ty - b % 256 % tyWidth f.ty)) rfl fun n hn a b _ _ => ?_
    rw [hn, ofNat_rotateLeft]
    exact rotateLeft_sub a _ (hn ▸ tyWidth_pos f.ty)

/-! ### Bit fields (11/R258) -/

/-- The two readings of a field: the model's ends one past the top. -/
theorem fieldOf_eq (n : Nat) (b : BitVec n) : fieldOf n b.toNat = (field n b).map fun p => (p.1, p.2 + 1) := by
  unfold fieldOf field
  dsimp only
  split
  · rfl
  · next h =>
    have : min (b.toNat % 256 + b.toNat / 256 % 256) n - 1 + 1 = min (b.toNat % 256 + b.toNat / 256 % 256) n := by omega
    simp [this]

/-- A field lies inside the width, and is not empty. -/
theorem field_some {n : Nat} {b : BitVec n} {off top : Nat} (h : field n b = some (off, top)) : off ≤ top ∧ top < n := by
  unfold field at h
  dsimp only at h
  split at h
  · cases h
  · cases h; omega

theorem ofNat_extract {n : Nat} (a : BitVec n) (lo len : Nat) :
    BitVec.ofNat len (a.toNat / 2 ^ lo) = a.extractLsb' lo len := by
  apply BitVec.eq_of_toNat_eq
  simp [Nat.shiftRight_eq_div_pow]

theorem ofNat_mod_pow (n len x : Nat) : BitVec.ofNat n (x % 2 ^ len) = (BitVec.ofNat len x).setWidth n := by
  apply BitVec.eq_of_toNat_eq; simp

/-- The number that `bfi` forms takes its bits [top:off] from the low bits of A and the others from the old destination. -/
theorem testBit_insert (d a lo hi i : Nat) (h : lo ≤ hi) :
    (d % 2 ^ lo + a % 2 ^ (hi - lo) * 2 ^ lo + d / 2 ^ hi * 2 ^ hi).testBit i
      = if lo ≤ i ∧ i < hi then a.testBit (i - lo) else d.testBit i := by
  have e : d % 2 ^ lo + a % 2 ^ (hi - lo) * 2 ^ lo + d / 2 ^ hi * 2 ^ hi
      = 2 ^ lo * (2 ^ (hi - lo) * (d / 2 ^ hi) + a % 2 ^ (hi - lo)) + d % 2 ^ lo := by
    obtain ⟨c, rfl⟩ := Nat.exists_eq_add_of_le h
    rw [Nat.add_sub_cancel_left]; ring
  rw [e, Nat.testBit_two_pow_mul_add _ (Nat.mod_lt _ (Nat.two_pow_pos _)),
    Nat.testBit_two_pow_mul_add _ (Nat.mod_lt _ (Nat.two_pow_pos _))]
  by_cases h1 : i < lo
  · simp [h1, show ¬ lo ≤ i by omega]
  · by_cases h2 : i < hi
    · simp [h1, h2, show i - lo < hi - lo by omega, show lo ≤ i by omega]
    · simp [h1, h2, show ¬ i - lo < hi - lo by omega, Nat.testBit_div_two_pow, show i - lo - (hi - lo) + hi = i by omega]

/-- Settles O3: the model's field ends one past the top, and its quotients and remainders are those bits. -/
theorem bitFields : Obligations.BitFields := by
  intro s w g f h
  refine ⟨?bfx, ?bfxs, ?bfi⟩
  case bfx =>
    refine computes_of_compute h
      (fun a b _ _ => match fieldOf (tyWidth f.ty) b with | none => 0 | some (lo, hi) => a / 2 ^ lo % 2 ^ (hi - lo)) rfl
      fun n hn a b _ _ => ?_
    rw [hn, fieldOf_eq]
    cases hf : field n b with
    | none => rfl
    | some p =>
      obtain ⟨off, top⟩ := p
      simp only [Option.map_some, ofNat_mod_pow, ofNat_extract]
  case bfxs =>
    refine computes_of_compute h
      (fun a b _ _ => match fieldOf (tyWidth f.ty) b with
        | none => 0
        | some (lo, hi) => (toBits (tyWidth f.ty) (sextNat (hi - lo) (a / 2 ^ lo))).toNat) rfl
      fun n hn a b _ _ => ?_
    rw [hn, fieldOf_eq]
    cases hf : field n b with
    | none => rfl
    | some p =>
      obtain ⟨off, top⟩ := p
      simp only [Option.map_some, toBits_sextNat, ofNat_extract, BitVec.ofNat_toNat, BitVec.setWidth_eq]
  case bfi =>
    refine computes_of_compute h
      (fun a b _ d => match fieldOf (tyWidth f.ty) b with
        | none => d
        | some (lo, hi) => d % 2 ^ lo + a % 2 ^ (hi - lo) * 2 ^ lo + d / 2 ^ hi * 2 ^ hi) rfl
      fun n hn a b _ d => ?_
    rw [hn, fieldOf_eq]
    cases hf : field n b with
    | none => simp
    | some p =>
      obtain ⟨off, top⟩ := p
      obtain ⟨hle, -⟩ := field_some hf
      intro i hi
      simp only [Option.map_some, BitVec.getLsbD_ofNat, hi, decide_true, Bool.true_and]
      rw [testBit_insert _ _ _ _ _ (by omega)]
      simp only [BitVec.testBit_toNat, Nat.lt_succ_iff]

end Sys2Proof.Proofs
end

section
/-! The illegal-instruction trap of a word that the checks refuse (08/R187), and the two forms of `icmp` (11/R259). -/

namespace Sys2Proof.Proofs

open Machine Spec Laws

/-! ### Traps that an instruction and the checks before it raise (08/R187, 17/R390-R392) -/

/-- The model's trap outside handler mode is the one that the statements name. -/
theorem takesTrap_takeTrap (s : State) (w : Warp) (g : Group) (cause code info : Nat) (tepc : W64) (hc : cause < 256)
    (hk : code < 65536) : TakesTrap (.next (takeTrap s w g cause info code tepc)) s w g cause code info tepc := by
  intro hm hv t ht
  have word : causeWord cause code = BitVec.ofNat 64 (code * 2 ^ 16 + 2 ^ 8 + cause) := by
    rw [causeWord, Nat.mod_eq_of_lt hk, Nat.mod_eq_of_lt hc]; norm_num
  rw [takeTrap_handled s w g cause info code t tepc hm hv ht, word]
  rfl

/-- An issuing group issues for an execute slice. -/
theorem cur_of_issuer {s : State} {p : Warp × Group} (h : issuer s = some p) : ∃ id, s.cur = .execute id := by
  cases hc : s.cur with
  | execute id => exact ⟨id, rfl⟩
  | _ => simp [issuer, hc] at h

/-- A word of an instruction that is not legal raises the illegal-instruction trap. -/
theorem raisesIllegal_of_not_legal {s : State} {w : Warp} {g : Group} {f : Fields} {i : Instr} (h : Issues s w g f)
    (hl : legal i ≠ true) : RaisesIllegal s w g i := by
  intro word hd
  obtain ⟨id, hc⟩ := cur_of_issuer h.1
  have read : readWord .execute word = none := by simp [readWord, hd, hl]
  have out : issueOne s .execute word = .next (takeTrap s w g 1 (bits word 63 0) 0 (codeAddr g.pc)) := by
    rw [issueOne, read]
    change execIllegalInstruction word s = _
    simp only [execIllegalInstruction, hc, h.1]
    rfl
  rw [out]
  exact takesTrap_takeTrap s w g 1 0 _ _ (by decide) (by decide)

/-- What the common checks ask of an instruction's fields. -/
theorem legal_form {i : Instr} {f : Fields} {F : Form} (hi : form i = some (f, F)) (h : legal i = true) :
    F.sub f = true ∧ f.ty ∈ (if f.sc then F.scTy else F.vecTy) ∧ F.d.holds f.sc f.d.toNat = true := by
  simp only [legal, hi, Form.legal, Bool.and_eq_true, List.contains_iff_mem] at h
  tauto

/-! ### Comparison (11/R259) -/

theorem subFlags_eq (n : Nat) (x y : W64) :
    subFlags n x.toNat y.toNat = flagsOf (x.setWidth n) (y.setWidth n) := by
  have hx : x.toNat % 2 ^ n = (x.setWidth n).toNat := (BitVec.toNat_setWidth _ _).symm
  have hy : y.toNat % 2 ^ n = (y.setWidth n).toNat := (BitVec.toNat_setWidth _ _).symm
  simp only [subFlags, hx, hy]
  generalize x.setWidth n = a, y.setWidth n = b
  have hr : (a.toNat + 2 ^ n - b.toNat) % 2 ^ n = (a - b).toNat := by
    rw [BitVec.toNat_sub]; congr 1; have := b.isLt; omega
  have hz : ((a - b).toNat == 0) = (a == b) := by
    rw [Bool.eq_iff_iff, beq_iff_eq, beq_iff_eq, ← sub_eq_zero (a := a)]
    exact ⟨fun h => BitVec.eq_of_toNat_eq h, fun h => by rw [h]; rfl⟩
  rw [hr, hz]
  simp only [flagsOf, sextNat_toNat, BitVec.testBit_toNat, BitVec.msb_eq_getLsbD_last]

/-- Both comparisons are those of a value that keeps equality and the type's order. -/
theorem icmpHolds_eq_compares (sub : BitVec 4) (signed : Bool) (x y : W32) (val : W32 → Int)
    (inj : ∀ p q, val p = val q ↔ p = q)
    (lt : ∀ p q : W32, (if signed then p.slt q else p.ult q) = decide (val p < val q)) :
    icmpHolds sub.toNat (val x) (val y) = compares sub signed x y := by
  have le : ∀ p q, decide (val p ≤ val q) = (decide (val p < val q) || p == q) := fun p q => by
    rw [Bool.eq_iff_iff, Bool.or_eq_true, decide_eq_true_eq, decide_eq_true_eq, beq_iff_eq, ← inj p q]
    exact Int.le_iff_lt_or_eq
  have eq : (val x == val y) = (x == y) := by rw [Bool.eq_iff_iff, beq_iff_eq, beq_iff_eq, inj]
  have comm : (y == x) = (x == y) := BEq.comm
  unfold compares
  dsimp only
  generalize sub.toNat = code
  match code with
  | 0 => exact eq
  | 1 => exact congrArg not eq
  | 2 => exact (lt x y).symm
  | 3 => exact (le x y).trans (congrArg (· || x == y) (lt x y).symm)
  | 4 => exact (lt y x).symm
  | n + 5 => exact (le y x).trans (by rw [comm]; exact congrArg (· || x == y) (lt y x).symm)

/-- The first element of a 32-bit value, as u32 and s32 read it. -/
theorem elemInt_u32 (x : W32) : elemInt .u32 x.toNat 0 = (x.toNat : Int) := by
  simp [elemInt, tyShape, Nat.mod_eq_of_lt x.isLt]

theorem elemInt_s32 (x : W32) : elemInt .s32 x.toNat 0 = x.toInt := by
  have := sextNat_toNat x
  simpa [elemInt, tyShape, Nat.mod_eq_of_lt x.isLt] using this

theorem icmpHolds_elemInt (sub : BitVec 4) (ty : Ty) (x y : W32) (h : ty = .u32 ∨ ty = .s32) :
    icmpHolds sub.toNat (elemInt ty x.toNat 0) (elemInt ty y.toNat 0) = compares sub (ty = .s32) x y := by
  rcases h with rfl | rfl
  · rw [elemInt_u32, elemInt_u32]
    exact icmpHolds_eq_compares sub false x y (fun z => z.toNat) (fun p q => by simp [BitVec.toNat_inj])
      fun p q => by simp [BitVec.ult]
  · rw [elemInt_s32, elemInt_s32]
    exact icmpHolds_eq_compares sub true x y BitVec.toInt (fun p q => BitVec.toInt_inj) fun p q => by simp [BitVec.slt]

theorem exec_icmp (f : Fields) (s : State) : exec (.icmp f) s = execIcmp f s := rfl

/-- What the checks ask of `icmp`. -/
theorem legal_icmp {f : Fields} (h : legal (.icmp f) = true) :
    if f.sc then f.sub = 0 ∧ f.d.toNat < 4 ∧ f.ty ∈ [Ty.u32, .s32, .u64, .s64]
    else f.sub.toNat ≤ 5 ∧ f.d.toNat ∈ [1, 2, 3, 4, 5, 6, 7] ∧ f.ty ∈ [Ty.u32, .s32] := by
  obtain ⟨sub, ty, d⟩ := legal_form rfl h
  cases hs : f.sc
  · simp only [hs, Bool.false_eq_true, if_false, Use.holds, Bool.and_eq_true, decide_eq_true_eq] at sub ty d ⊢
    exact ⟨sub, by simp only [List.mem_cons, List.not_mem_nil, or_false]; omega, ty⟩
  · simp only [hs, if_true, Use.holds, decide_eq_true_eq] at sub ty d ⊢
    exact ⟨BitVec.eq_of_toNat_eq (Nat.le_zero.1 sub), d, ty⟩

/-- Settles O5: the model compares the numbers that the lanes and slices hold, and the checks refuse every other form. -/
theorem integerCompare : Obligations.IntegerCompare := by
  intro s w g f h
  refine ⟨fun hsc hd hty => ?vector, fun hsc => ?scalar, fun hsc hbad => ?illegalVector, fun hsc hbad => ?illegalScalar⟩
  case vector =>
    refine writesK_of_maskResult hd h (exec_icmp f s) ?_ fun L _ => icmpHolds_elemInt f.sub f.ty _ _ hty
    simp only [hsc, Bool.false_eq_true, if_false]
    rfl
  case scalar =>
    refine writesC_of_condResult h (exec_icmp f s) ?_ fun j _ => subFlags_eq (tyWidth f.ty) _ _
    simp only [hsc, if_true]
    rfl
  case illegalVector =>
    refine raisesIllegal_of_not_legal h fun hl => ?_
    have ok := legal_icmp hl
    simp only [hsc, Bool.false_eq_true, if_false] at ok
    obtain ⟨sub, d, ty⟩ := ok
    rcases hbad with bad | bad | bad
    · omega
    · exact bad d
    · exact bad ty
  case illegalScalar =>
    refine raisesIllegal_of_not_legal h fun hl => ?_
    have ok := legal_icmp hl
    simp only [hsc, if_true] at ok
    obtain ⟨sub, d, ty⟩ := ok
    rcases hbad with bad | bad | bad
    · exact bad sub
    · omega
    · exact bad ty

end Sys2Proof.Proofs
end

section
/-! Conditional branches (11/R250-R251): whom the condition sends where, and the four outcomes of `branch`. -/

namespace Sys2Proof.Proofs

open Machine Spec Laws

/-! ### The slices that take a branch -/

theorem bit_sliceSet (js : List Nat) (j : Nat) (hj : j < 8) : bit (sliceSet js) j = decide (j ∈ js) := by
  have h := bit_foldl_or (fun _ => true) j hj js (0 : BitVec 8)
  simpa [sliceSet] using h

/-- The slices of the group with an active lane. -/
def activeIn (w : Warp) (g : Group) (j : Nat) : Bool := bit g.slices j && (w.slice j).active != 0

/-- The slices of the group with an active lane for which the condition holds. -/
def takers (w : Warp) (g : Group) (take : Nat → Bool) : BitVec 8 := sliceSet ((activeSlices w g).filter take)

theorem mem_activeSlices (w : Warp) (g : Group) (j : Nat) : j ∈ activeSlices w g ↔ j < 8 ∧ activeIn w g j = true := by
  simp [activeSlices, mem_slicesOf, activeIn, and_assoc]

theorem bit_takers (w : Warp) (g : Group) (take : Nat → Bool) (j : Nat) (hj : j < 8) :
    bit (takers w g take) j = (activeIn w g j && take j) := by
  rw [takers, bit_sliceSet _ j hj, Bool.eq_iff_iff]
  simp [mem_activeSlices, hj]

theorem all_activeSlices (w : Warp) (g : Group) (take : Nat → Bool) :
    (activeSlices w g).all take = (List.range 8).all fun j => !activeIn w g j || take j := by
  rw [Bool.eq_iff_iff]
  simp only [List.all_eq_true, mem_activeSlices, List.mem_range, Bool.or_eq_true, Bool.not_eq_true', and_imp]
  exact forall₂_congr fun j _ => by cases activeIn w g j <;> simp

/-- Eight bits that are all clear. -/
theorem eq_zero_of_bits {x : BitVec 8} (h : ∀ j < 8, bit x j = false) : x = 0 :=
  BitVec.eq_of_getLsbD_eq fun i hi => (h i hi).trans BitVec.getLsbD_zero.symm

theorem takers_eq_zero (w : Warp) (g : Group) (take : Nat → Bool) :
    takers w g take = 0 ↔ ((List.range 8).any fun j => activeIn w g j && take j) = false := by
  rw [List.any_eq_false]
  refine ⟨fun h j hj => ?_, fun h => eq_zero_of_bits fun j hj => ?_⟩
  · have hb := bit_takers w g take j (List.mem_range.1 hj)
    rw [h] at hb
    simp [← hb]
  · rw [bit_takers w g take j hj]
    simpa using h j (List.mem_range.2 hj)

/-! ### The lowest slice of a set -/

/-- The lowest set bit among `n` bits from `i`: none below it is set, and it is set unless there is none. -/
theorem lowestBit_spec (n i x : Nat) :
    (∀ m, i ≤ m → m < lowestBit n i x → x.testBit m = false) ∧
    (lowestBit n i x < i + n → x.testBit (lowestBit n i x) = true) ∧ lowestBit n i x ≤ i + n := by
  induction n generalizing i with
  | zero => exact ⟨fun m h1 h2 => absurd h2 (not_lt.2 h1), fun h => absurd h (lt_irrefl _), le_refl _⟩
  | succ n ih =>
    obtain ⟨below, here, le⟩ := ih (i + 1)
    rw [lowestBit]
    split
    · next h => exact ⟨fun m h1 h2 => absurd h2 (not_lt.2 h1), fun _ => h, by omega⟩
    · next h =>
      refine ⟨fun m h1 h2 => ?_, fun hl => here (by omega), by omega⟩
      rcases Nat.eq_or_lt_of_le h1 with rfl | h1
      · simpa using h
      · exact below m h1 h2

/-- The same of a set of slices that is not empty. -/
theorem lowestBit_slices (x : BitVec 8) (h : ∃ j < 8, bit x j = true) :
    lowestBit 8 0 x.toNat < 8 ∧ bit x (lowestBit 8 0 x.toNat) = true ∧ ∀ i < lowestBit 8 0 x.toNat, bit x i = false := by
  obtain ⟨below, here, le⟩ := lowestBit_spec 8 0 x.toNat
  simp only [BitVec.testBit_toNat] at below here
  have lt : lowestBit 8 0 x.toNat < 8 := by
    by_contra hn
    obtain ⟨j, hj, hb⟩ := h
    exact absurd (below j (Nat.zero_le _) (by omega)) (by simp only [bit] at hb; simp [hb])
  exact ⟨lt, here (by omega), fun i hi => below i (Nat.zero_le _) hi⟩

/-- Of two sets that together make up a third, the one with the lower lowest slice holds the lowest slice of it. -/
theorem lowest_of_parts (x y z : BitVec 8) (hx : ∃ j < 8, bit x j = true) (hy : ∃ j < 8, bit y j = true)
    (hz : ∀ j < 8, bit z j = (bit x j || bit y j)) :
    ∃ j < 8, bit (if lowestBit 8 0 x.toNat < lowestBit 8 0 y.toNat then x else y) j = true ∧ ∀ i < j, bit z i = false := by
  obtain ⟨ltx, herex, belowx⟩ := lowestBit_slices x hx
  obtain ⟨lty, herey, belowy⟩ := lowestBit_slices y hy
  split
  · next h => exact ⟨_, ltx, herex, fun i hi => by rw [hz i (by omega), belowx i hi, belowy i (by omega)]; rfl⟩
  · next h => exact ⟨_, lty, herey, fun i hi => by rw [hz i (by omega), belowx i (by omega), belowy i hi]; rfl⟩

/-! ### The outcomes of a branch -/

section branch

variable (s : State) (x : Exe) (f : Fields) (take : Nat → Bool)

/-- The displacements of the target and of the join point (11/R251). -/
def branchOff (f : Fields) : Int := sextNat 16 (bits f.imm 15 0)
def joinOff (f : Fields) : Int := sextNat 16 (bits f.imm 31 16)

theorem relative_some {g : Group} {d : Int} {t : Nat} (h : slotPlus g.pc d = some t) : relative g d = .ok t := by
  simp [relative, h]

theorem branch_all {t : Nat} (ha : (activeSlices x.w x.g).all take = true) (ht : slotPlus x.g.pc (branchOff f) = some t) :
    branch s x f take = .ok (moveTo s x.w x.g t) := by
  have hr : relative x.g (sextNat 16 (bits f.imm 15 0)) = .ok t := relative_some ht
  simp only [branch, ha, if_true, hr]
  rfl

theorem branch_stays (ha : (activeSlices x.w x.g).all take = false) (h : takers x.w x.g take = 0 ∨ branchOff f = 1) :
    branch s x f take = .ok (retire s x.w x.g) := by
  simp only [takers, branchOff] at h
  simp only [branch, ha, Bool.false_eq_true, if_false, if_pos h]

theorem branch_full (ha : (activeSlices x.w x.g).all take = false) (h : ¬ (takers x.w x.g take = 0 ∨ branchOff f = 1))
    (hf : 16 ≤ x.w.stack.length) : branch s x f take = .error (.trap 4 0 0) := by
  simp only [takers, branchOff] at h
  simp only [branch, ha, Bool.false_eq_true, if_false, if_neg h, if_pos hf]

/-- The entry that a parting group pushes. -/
def partEntry (w : Warp) (g : Group) (join : Nat) : PartEntry :=
  { members := g.slices, arrived := 0, join, fmts := (List.range 8).map fun j => if bit g.slices j then (w.slice j).fmt else 0 }

/-- The warp after its group has parted. -/
def partedWarp (w : Warp) (g : Group) (take : Nat → Bool) (t join : Nat) : Warp :=
  let T := takers w g take
  let F := g.slices &&& ~~~T
  { w with
    stack := partEntry w g join :: w.stack
    groups := { g.goto t with slices := T } :: { slices := F, pc := g.pc + 1, entry := .resume } ::
      w.groups.filter (·.slices != g.slices)
    runs := if lowestBit 8 0 T.toNat < lowestBit 8 0 F.toNat then T else F }

theorem branch_parts {t join : Nat} (ha : (activeSlices x.w x.g).all take = false)
    (h : ¬ (takers x.w x.g take = 0 ∨ branchOff f = 1)) (hf : ¬ 16 ≤ x.w.stack.length)
    (ht : slotPlus x.g.pc (branchOff f) = some t) (hj : slotPlus x.g.pc (joinOff f) = some join) :
    branch s x f take = .ok (setWarp s (partedWarp x.w x.g take t join)) := by
  have rt : relative x.g (sextNat 16 (bits f.imm 15 0)) = .ok t := relative_some ht
  have rj : relative x.g (sextNat 16 (bits f.imm 31 16)) = .ok join := relative_some hj
  simp only [takers, branchOff] at h
  simp only [branch, ha, Bool.false_eq_true, if_false, if_neg h, if_neg hf, rt, rj]
  rfl

end branch

/-- A group of which some slices with an active lane do not take the branch leaves slices behind. -/
theorem left_behind {w : Warp} {g : Group} {take : Nat → Bool} (ha : (activeSlices w g).all take = false) :
    ∃ j < 8, bit (g.slices &&& ~~~takers w g take) j = true := by
  obtain ⟨j, hj, ht⟩ := List.all_eq_false.1 ha
  obtain ⟨h8, hact⟩ := (mem_activeSlices w g j).1 hj
  refine ⟨j, h8, ?_⟩
  have hg : bit g.slices j = true := by simp only [activeIn, Bool.and_eq_true] at hact; exact hact.1
  rw [bit_and, bit_not _ _ h8, bit_takers w g take j h8, hg, hact]
  simpa using ht

/-- Takers and those left behind make up the group. -/
theorem bit_group_parts (w : Warp) (g : Group) (take : Nat → Bool) (j : Nat) (hj : j < 8) :
    bit g.slices j = (bit (takers w g take) j || bit (g.slices &&& ~~~takers w g take) j) := by
  rw [bit_and, bit_not _ _ hj, bit_takers w g take j hj, activeIn]
  cases bit g.slices j <;> cases (w.slice j).active != 0 <;> simp

theorem fmts_partEntry (w : Warp) (g : Group) (join j : Nat) (hj : j < 8) (hb : bit g.slices j = true) :
    (partEntry w g join).fmts.getD j 0 = (w.slice j).fmt := by
  simp [partEntry, List.getD_eq_getElem?_getD, hj, hb]

/-- An instruction whose body is a branch ends as the rule says. -/
theorem parts_of_branch {s : State} {w : Warp} {g : Group} {f : Fields} {i : Instr} {body : State → Exe → Except Stop State}
    {take : Nat → Bool} (h : Issues s w g f) (he : exec i s = execute s f body)
    (hb : body (popped s w f) (exeOf s w g f) = branch (popped s w f) (exeOf s w g f) f take) :
    Parts (exec i s) s w g f take := by
  have all_eq := all_activeSlices (exeOf s w g f).w g take
  have zero_iff := takers_eq_zero (exeOf s w g f).w g take
  refine ⟨fun ha t ht => ?whole, fun ha hs => ?stays, fun ha hs ho hl t join ht hj => ?parts, fun ha hs ho hl => ?full⟩
  case whole => exact exec_issues h he (hb.trans (branch_all _ _ f take (all_eq.trans ha) ht))
  case stays => exact exec_issues h he (hb.trans (branch_stays _ _ f take (all_eq.trans ha) (hs.imp_left zero_iff.2)))
  all_goals
    have go : ¬ (takers (exeOf s w g f).w g take = 0 ∨ branchOff f = 1) := by
      rintro (h0 | h1)
      · exact absurd (hs.symm.trans (zero_iff.1 h0)) (by decide)
      · exact ho h1
  case parts =>
    have out := exec_issues h he (hb.trans (branch_parts _ _ f take (all_eq.trans ha) go (not_le.2 hl) ht hj))
    obtain ⟨j, hj8, htj⟩ := List.any_eq_true.1 hs
    have some_takes : ∃ j < 8, bit (takers (exeOf s w g f).w g take) j = true :=
      ⟨j, List.mem_range.1 hj8, (bit_takers _ g take j (List.mem_range.1 hj8)).trans htj⟩
    exact ⟨takers (exeOf s w g f).w g take, (partedWarp (exeOf s w g f).w g take t join).runs,
      partEntry (exeOf s w g f).w g join, fun j hj => bit_takers _ g take j hj, ite_eq_or_eq _ _ _,
      lowest_of_parts _ _ _ some_takes (left_behind (all_eq.trans ha)) (bit_group_parts _ g take), rfl, rfl, rfl, rfl,
      fun j hj hg => fmts_partEntry _ g join j hj hg, out⟩
  case full =>
    have stop := execute_stop s f body w g _ h.1 h.2 (hb.trans (branch_full _ _ f take (all_eq.trans ha) go hl))
    rw [he, stop]
    exact takesTrap_takeTrap s w g 4 0 0 _ (by decide) (by decide)

theorem exec_brc (f : Fields) (s : State) : exec (.brc f) s = execBrc f s := rfl
theorem exec_brz (f : Fields) (s : State) : exec (.brz f) s = execBrz f s := rfl
theorem exec_brnz (f : Fields) (s : State) : exec (.brnz f) s = execBrnz f s := rfl

/-- Settles O13: the three branches differ in the condition alone, and the checks refuse code 15. -/
theorem conditionalBranches : Obligations.ConditionalBranches := by
  intro s w g f h
  refine ⟨parts_of_branch h (exec_brc f s) rfl, fun h15 => raisesIllegal_of_not_legal h fun hl => ?_,
    parts_of_branch h (exec_brz f s) rfl, parts_of_branch h (exec_brnz f s) ?_⟩
  · obtain ⟨sub, -, -⟩ := legal_form rfl hl
    simp [h15] at sub
  · exact congrArg (branch _ _ f) (funext fun j => Bool.eq_iff_iff.2 (bne_iff_ne.trans decide_eq_true_iff.symm))

end Sys2Proof.Proofs
end

section
/-! The minimum of `redux` on a type that the instruction does not have: the model compares the first element, the statement the
whole 32 bits (11/R264). -/

namespace Sys2Proof.Proofs

open Machine Spec Laws

/-- `redux` with the minimum on pairs of 16-bit elements, a type that its legal forms leave out. -/
def pairMin : Fields := { sub := 1, ty := .u16x2, d := 1 }

/-- A group of one slice at slot 0, of which lanes 0 and 1 are active. -/
def twoLaneGroup : Group := { slices := 1, pc := 0 }

/-- Its warp: v0 holds 0x10000 in lane 0 and 1 in lane 1, so that the first elements are 0 and 1. -/
def twoLaneWarp : Warp :=
  { id := 0, block := 0, ctx := 0, idx := 0, core := 0, quad := 0, limit := 64, slices := [(0, { active := 3 })]
    v := [(0, setLane (setLane 0 0 0x10000) 1 1)], groups := [twoLaneGroup], runs := 1, tvec := 0 }

/-- The package with that warp alone, whose execute slice issues. -/
def twoLaneState : State := { warps := [twoLaneWarp], cur := .execute 0 }

/-- Lane 0 of v1 in the first warp of an outcome. -/
def resultLane (o : Host.Outcome State Fault Refusal) : W32 :=
  match o with
  | .next t => lane ((t.warps.headD twoLaneWarp).readV 1) 0
  | _ => 0

theorem twoLane_issues : Issues twoLaneState twoLaneWarp twoLaneGroup pairMin := ⟨rfl, rfl⟩

/-- The model keeps the value whose first element is less. -/
theorem resultLane_redux : resultLane (exec (.redux pairMin) twoLaneState) = 0x10000 := by decide +kernel

/-- The statement asks for the lesser 32-bit value. -/
theorem reduced_pairMin :
    let x := exeOf twoLaneState twoLaneWarp twoLaneGroup pairMin
    bit x.en 0 = true ∧ reduced twoLaneState x pairMin (lanesOf x.en) = 1 := by decide +kernel

/-- What stands in lane 0 of v1 when the warp retires as `w'`. -/
theorem resultLane_retires {o : Host.Outcome State Fault Refusal} {w' : Warp} (hid : w'.id = 0)
    (h : Retires o (popped twoLaneState twoLaneWarp pairMin) w' twoLaneGroup) : resultLane o = lane (w'.readV 1) 0 := by
  have warps : (setWarp (popped twoLaneState twoLaneWarp pairMin) (w'.setGroup twoLaneGroup.next)).warps
      = [w'.setGroup twoLaneGroup.next] := by
    have same : (twoLaneWarp.id == (w'.setGroup twoLaneGroup.next).id) = true := by
      change (0 == w'.id) = true
      rw [hid]; rfl
    change [if (twoLaneWarp.id == (w'.setGroup twoLaneGroup.next).id) = true then _ else _] = _
    rw [if_pos same]
  rw [h, resultLane]
  simp only [warps]
  rfl

/-- Refutes O7: the statement gives `redux` its reduction for every type, also where the word is not legal. With the minimum on
`.u16x2` the model compares the first elements, 0 and 1, and gives 0x10000; the statement's order on 32-bit values gives 1. -/
theorem not_crossLane : ¬ Obligations.CrossLane := by
  intro h
  obtain ⟨-, -, -, -, -, -, -, -, redux, -⟩ := h twoLaneState twoLaneWarp twoLaneGroup pairMin twoLane_issues
  obtain ⟨w', out, lanes, -, frame⟩ := redux
  obtain ⟨enabled, least⟩ := reduced_pairMin
  have hid : w'.id = 0 := by rw [frame]; rfl
  have stated := lanes 0 (by decide)
  rw [if_pos enabled, least] at stated
  have got := (resultLane_retires hid out).symm.trans resultLane_redux
  exact absurd (stated.symm.trans got) (by decide)

end Sys2Proof.Proofs
end

section
/-! Floating-point arithmetic, minimum, maximum and comparison (12/R267, R270-R272): the elements of a packed result, and
what a second flush leaves. -/

namespace Sys2Proof.Proofs

open Machine Spec Laws

/-! ### Elements of a packed number -/

/-- Fields of one width, each added above the ones before it, are read back one by one. -/
theorem foldl_addFields (w : Nat) (e : Nat → Nat) (n : Nat) :
    let z := (List.range n).foldl (fun r i => r + (e i % 2 ^ w) <<< (w * i)) 0
    z < 2 ^ (w * n) ∧ ∀ i < n, z / 2 ^ (w * i) % 2 ^ w = e i % 2 ^ w := by
  induction n with
  | zero => simp
  | succ n ih =>
    obtain ⟨lt, read⟩ := ih
    simp only [List.range_succ, List.foldl_append, List.foldl_cons, List.foldl_nil] at lt read ⊢
    generalize (List.range n).foldl (fun r i => r + (e i % 2 ^ w) <<< (w * i)) 0 = z at lt read ⊢
    have top : e n % 2 ^ w < 2 ^ w := Nat.mod_lt _ (Nat.two_pow_pos w)
    rw [Nat.shiftLeft_eq]
    refine ⟨?_, fun i hi => ?_⟩
    · calc z + e n % 2 ^ w * 2 ^ (w * n) < (e n % 2 ^ w + 1) * 2 ^ (w * n) := by rw [Nat.succ_mul]; omega
        _ ≤ 2 ^ w * 2 ^ (w * n) := Nat.mul_le_mul_right _ top
        _ = 2 ^ (w * (n + 1)) := by rw [← Nat.pow_add, Nat.mul_succ, Nat.add_comm]
    · rcases Nat.lt_succ_iff_lt_or_eq.1 hi with h | rfl
      · obtain ⟨k, rfl⟩ := Nat.exists_eq_add_of_lt h
        have split : e (i + k + 1) % 2 ^ w * 2 ^ (w * (i + k + 1))
            = 2 ^ (w * i) * (2 ^ w * (e (i + k + 1) % 2 ^ w * 2 ^ (w * k))) := by
          rw [show w * (i + k + 1) = w * i + (w + w * k) by ring, Nat.pow_add, Nat.pow_add]; ring
        rw [split, Nat.add_mul_div_left _ _ (Nat.two_pow_pos _), Nat.add_mul_mod_self_left, read i h]
      · rw [Nat.add_mul_div_right _ _ (Nat.two_pow_pos _), Nat.div_eq_of_lt lt, Nat.zero_add, Nat.mod_mod]

/-- The types of this chapter's instructions fill 32 bits, and so do their elements together. -/
theorem tyWidth_float {ty : Ty} (h : ty = .f32 ∨ ty = .f16x2 ∨ ty = .bf16x2) :
    tyWidth ty = 32 ∧ 32 / (fpFmt ty).2 * (fpFmt ty).2 = 32 := by
  rcases h with rfl | rfl | rfl <;> decide

/-- Their formats are the three whose top exponent is that of IEEE 754. -/
theorem fpFmt_cases (ty : Ty) : (fpFmt ty).1 = f32Fmt ∨ (fpFmt ty).1 = f16Fmt ∨ (fpFmt ty).1 = bf16Fmt := by
  cases ty <;> simp [fpFmt]

/-- Each element of `fpMap` is the function of the elements. -/
theorem floatElements_fpMap {f : Fields} (hty : f.ty = .f32 ∨ f.ty = .f16x2 ∨ f.ty = .bf16x2)
    (r : BinFmt → Nat → Nat → Nat → Nat) (a b c d : W32) :
    FloatElements f r 32 a b c d (BitVec.ofNat 32 (fpMap f.ty r a.toNat b.toNat c.toNat)) := by
  obtain ⟨-, full⟩ := tyWidth_float hty
  intro i hi
  obtain ⟨lt, read⟩ := foldl_addFields (32 / (fpFmt f.ty).2)
    (fun i =>
      let el := fun (x : Nat) => x / 2 ^ (32 / (fpFmt f.ty).2 * i) % 2 ^ (32 / (fpFmt f.ty).2)
      r (fpFmt f.ty).1 (el a.toNat) (el b.toNat) (el c.toNat)) (fpFmt f.ty).2
  rw [full] at lt
  apply BitVec.eq_of_toNat_eq
  simp only [BitVec.extractLsb'_toNat, BitVec.toNat_ofNat, Nat.shiftRight_eq_div_pow]
  rw [fpMap, Nat.mod_eq_of_lt lt]
  exact read i hi

/-- A binary32 value is its only element. -/
theorem floatElements_f32 {f : Fields} (hty : f.ty = .f32) (r : BinFmt → Nat → Nat → Nat → Nat) (a b c d : W32) :
    FloatElements f r 32 a b c d (BitVec.ofNat 32 (r f32Fmt a.toNat b.toNat c.toNat)) := by
  have fmt : fpFmt f.ty = (f32Fmt, 1) := by rw [hty]; rfl
  unfold FloatElements
  rw [fmt]
  simp only [Nat.div_one]
  intro i hi
  obtain rfl : i = 0 := Nat.lt_one_iff.1 hi
  simp only [Nat.mul_zero, BitVec.extractLsb'_eq_self]

/-- An instruction that computes element by element: it is enough to say what its function of codes gives in the format. -/
theorem computes_of_fpMap {s : State} {w : Warp} {g : Group} {f : Fields} {i : Instr} (h : Issues s w g f)
    (hty : f.ty = .f32 ∨ f.ty = .f16x2 ∨ f.ty = .bf16x2) {r : BinFmt → Nat → Nat → Nat → Nat} (fn : BinFmt → Nat → Nat → Nat → Nat)
    (he : exec i s = execute s f fun s x => .ok (compute s x f fun a b c _ => fpMap f.ty fn a b c))
    (hr : fn (fpFmt f.ty).1 = r (fpFmt f.ty).1) : Computes i s w g f (FloatElements f r) := by
  obtain ⟨width, -⟩ := tyWidth_float hty
  refine computes_of_compute h (fun a b c _ => fpMap f.ty fn a b c) he fun n hn a b c d => ?_
  obtain rfl : n = 32 := hn.symm.trans width
  intro i hi
  rw [floatElements_fpMap hty fn a b c d i hi, hr]

/-! ### Arithmetic (12/R267, R270) -/

theorem clampInt_eq {lo hi : Int} (h : lo ≤ hi) (x : Int) : clampInt lo hi x = max lo (min hi x) := by
  unfold clampInt
  split
  · omega
  · split <;> omega

/-- The exponent of `fscale` is the s32 value, kept in its bounds. -/
theorem scaleExp_toNat (b : W32) : scaleExp b.toNat = max (-600) (min 600 b.toInt) := by
  rw [scaleExp, sextNat_toNat, clampInt_eq (by decide)]

/-- Settles O8: the model rounds as 12/R267 asks, and its exponent of `fscale` is the clamped s32 number. -/
theorem floatArithmetic : Obligations.FloatArithmetic := by
  intro s w g f h
  refine ⟨fun hty => ⟨?fadd, ?fsub, ?fmul, ?ffma, ?fscale⟩, fun hty => ⟨?hadd2, ?hmul2, ?hfma2⟩⟩
  case fadd => exact computes_of_fpMap h (.inl hty) (fpRound f fun x y _ => addVal (modeOf f) x y) rfl rfl
  case fsub => exact computes_of_fpMap h (.inl hty) (fpRound f fun x y _ => addVal (modeOf f) x (negVal y)) rfl rfl
  case fmul => exact computes_of_fpMap h (.inl hty) (fpRound f fun x y _ => mulVal x y) rfl rfl
  case ffma => exact computes_of_fpMap h (.inl hty) (fpRound f fun x y z => addVal (modeOf f) (mulVal x y) z) rfl rfl
  case fscale =>
    refine computes_of_compute h (fun a b _ _ => roundedBy f (fun x _ _ => mulVal x (.fin false (pow2 (scaleExp b)))) f32Fmt a 0 0)
      rfl fun n hn a b c d => ?_
    obtain rfl : n = 32 := by rw [← hn, hty]; rfl
    rw [scaleExp_toNat]
    simpa only [BitVec.ofNat_toNat, BitVec.setWidth_eq] using floatElements_f32 hty
      (fun F a b _ => roundedBy f (fun x _ _ => mulVal x (.fin false (pow2 (max (-600) (min 600 (BitVec.ofNat 32 b).toInt))))) F a 0 0)
      a b c d
  case hadd2 => exact computes_of_fpMap h (.inr hty) (fpRound f fun x y _ => addVal (modeOf f) x y) rfl rfl
  case hmul2 => exact computes_of_fpMap h (.inr hty) (fpRound f fun x y _ => mulVal x y) rfl rfl
  case hfma2 => exact computes_of_fpMap h (.inr hty) (fpRound f fun x y z => addVal (modeOf f) (mulVal x y) z) rfl rfl

/-! ### Minimum and maximum (12/R271) -/

/-- A zero is not subnormal. -/
theorem subnormal_sign (F : BinFmt) (neg : Bool) : F.subnormal (F.sign neg) = false := by
  cases neg
  · simp [BinFmt.subnormal, BinFmt.sign]
  · have mantissa : 2 ^ (F.m + F.e + F.shift) / 2 ^ F.shift = 2 ^ F.m * 2 ^ F.e := by
      rw [Nat.pow_add, Nat.mul_div_cancel _ (Nat.two_pow_pos _), Nat.pow_add]
    simp [BinFmt.subnormal, BinFmt.sign, mantissa]

theorem flush_of_not_subnormal {F : BinFmt} {code : Nat} (h : F.subnormal code = false) (ftz : Bool) :
    F.flush ftz code = code := by
  simp [BinFmt.flush, h]

/-- A second flush changes nothing. -/
theorem flush_flush (F : BinFmt) (ftz : Bool) (code : Nat) : F.flush ftz (F.flush ftz code) = F.flush ftz code := by
  by_cases h : (ftz && F.subnormal code) = true
  · rw [show F.flush ftz code = F.sign _ from if_pos h]
    exact flush_of_not_subnormal (subnormal_sign F _) ftz
  · rw [show F.flush ftz code = code from if_neg h]
    exact if_neg h

/-- The canonical NaN is no subnormal code, so a flush keeps it. -/
theorem flush_nanCode (ty : Ty) (ftz : Bool) : (fpFmt ty).1.flush ftz (fpFmt ty).1.nanCode = (fpFmt ty).1.nanCode := by
  refine flush_of_not_subnormal ?_ ftz
  rcases fpFmt_cases ty with h | h | h <;> rw [h] <;> decide

/-- The model's flush of the result acts on an operand already flushed or on the canonical NaN, and so changes nothing. -/
theorem minMax_eq_lesser (f : Fields) (greater : Bool) (a b : Nat) :
    (fpFmt f.ty).1.minMax (ftzOf f) greater a b = lesser f greater (fpFmt f.ty).1 a b := by
  have nan := flush_nanCode f.ty (ftzOf f)
  unfold BinFmt.minMax lesser
  simp only [apply_ite ((fpFmt f.ty).1.flush (ftzOf f)), flush_flush, nan]
  simp only [ftzOf]
  generalize (fpFmt f.ty).1 = F
  obtain ⟨r, hr⟩ : ∃ r, cmpVal (F.value (F.flush (bit f.md 3) a)) (F.value (F.flush (bit f.md 3) b)) = r := ⟨_, rfl⟩
  simp only [hr]
  match r with
  | none | some .eq => rfl
  | some .lt | some .gt => cases greater <;> rfl

/-! ### Comparison (12/R272) -/

theorem fcmpVal_toNat (f : Fields) (x : W32) : fcmpVal f x.toNat = f32Fmt.value (f32Fmt.flush (bit f.md 3) x.toNat) := by
  rw [fcmpVal, Nat.mod_eq_of_lt x.isLt]; rfl

/-- A slice's operand counts by its low 32 bits. -/
theorem fcmpVal_slice (f : Fields) (x : W64) : fcmpVal f x.toNat = fcmpVal f (x.setWidth 32).toNat := by
  simp [fcmpVal]

theorem fcmpHolds_eq (sub : BitVec 4) (x y : Val) : fcmpHolds sub.toNat x y = relationHolds sub (cmpVal x y) := by
  unfold fcmpHolds relationHolds
  generalize cmpVal x y = r, sub.toNat = code
  match code with
  | 0 | 1 | 2 | 3 | 4 | 5 => rfl
  | 6 => cases r <;> rfl
  | n + 7 => cases r <;> rfl

theorem fcmpFlags_eq (x y : Val) : fcmpFlags x y = relationFlags (cmpVal x y) := by
  unfold fcmpFlags relationFlags
  cases cmpVal x y with
  | none => rfl
  | some o => cases o <;> rfl

/-- A condition written over a state that the instruction itself has changed outside the warp. -/
theorem writesCOver_of_condResult {s base : State} {w : Warp} {g : Group} {f : Fields} {i : Instr}
    {body : State → Exe → Except Stop State} {fn : Nat → Cond} {R : Nat → Cond} (h : Issues s w g f) (he : exec i s = execute s f body)
    (hb : body (popped s w f) (exeOf s w g f) = .ok (condResult base (exeOf s w g f) f.d.toNat fn))
    (hR : ∀ j < 8, fn j = R j) : WritesCOver base (exec i s) s w g f R := by
  obtain ⟨frame, only, read⟩ := foldl_writeC f.d.toNat fn (exeOf s w g f).slices (exeOf s w g f).w
  refine ⟨_, exec_issues h he hb, fun j hj => ?_, fun j r hr => ?_, fun j => ?_, frame⟩
  · rw [read, exeOf_slice, hR j hj]
    simp
  · rw [read, exeOf_slice]
    simp [hr]
  · simpa using only j

theorem exec_fcmp (f : Fields) (s : State) : exec (.fcmp f) s = execFcmp f s := rfl

/-- What the checks ask of `fcmp`. -/
theorem legal_fcmp {f : Fields} (h : legal (.fcmp f) = true) :
    f.ty = .f32 ∧ if f.sc then f.sub = 0 ∧ f.d.toNat < 4 else f.sub.toNat ≤ 7 ∧ f.d.toNat ∈ [1, 2, 3, 4, 5, 6, 7] := by
  obtain ⟨sub, ty, d⟩ := legal_form rfl h
  simp only [fInt, ite_self, List.mem_singleton] at ty
  refine ⟨ty, ?_⟩
  cases hs : f.sc
  · simp only [hs, Bool.false_eq_true, if_false, Use.holds, Bool.and_eq_true, decide_eq_true_eq] at sub d ⊢
    exact ⟨sub, by simp only [List.mem_cons, List.not_mem_nil, or_false]; omega⟩
  · simp only [hs, if_true, Use.holds, decide_eq_true_eq] at sub d ⊢
    exact ⟨BitVec.eq_of_toNat_eq (Nat.le_zero.1 sub), d⟩

/-- An instruction of the three floating-point types, binary32 alone in the scalar form, refuses every other type. -/
theorem raisesIllegal_of_ty {s : State} {w : Warp} {g : Group} {f : Fields} {i : Instr} {F : Form} (h : Issues s w g f)
    (hi : form i = some (f, F)) (hv : F.vecTy = [.f32, .f16x2, .bf16x2]) (hs : F.scTy = [.f32])
    (hty : f.ty ∉ [Ty.f32, .f16x2, .bf16x2]) : RaisesIllegal s w g i := by
  refine raisesIllegal_of_not_legal h fun hl => ?_
  obtain ⟨-, ty, -⟩ := legal_form hi hl
  rw [hv, hs] at ty
  split at ty
  · exact hty (List.mem_cons.2 (.inl (List.mem_singleton.1 ty)))
  · exact hty ty

/-- Settles O9: the model's order of two codes is the statement's, and the checks refuse every other form. -/
theorem floatCompare : Obligations.FloatCompare := by
  intro s w g f h
  refine ⟨fun hty => ⟨?fmin, ?fmax⟩, fun hsc hd => ?vector, fun hsc => ?scalar,
    fun hty => ⟨raisesIllegal_of_ty h rfl rfl rfl hty, raisesIllegal_of_ty h rfl rfl rfl hty⟩,
    fun hsc bad => ?illegalVector, fun hsc bad => ?illegalScalar⟩
  case fmin =>
    exact computes_of_fpMap h hty (fun F a b _ => F.minMax (ftzOf f) false a b) rfl
      (funext fun a => funext fun b => funext fun _ => minMax_eq_lesser f false a b)
  case fmax =>
    exact computes_of_fpMap h hty (fun F a b _ => F.minMax (ftzOf f) true a b) rfl
      (funext fun a => funext fun b => funext fun _ => minMax_eq_lesser f true a b)
  case vector =>
    refine writesK_of_maskResult hd h (exec_fcmp f s) (by simp only [hsc, Bool.false_eq_true, if_false]; rfl) fun L _ => ?_
    rw [fcmpHolds_eq, fcmpVal_toNat, fcmpVal_toNat]
    rfl
  case scalar =>
    refine writesCOver_of_condResult h (exec_fcmp f s) (by simp only [hsc, if_true]; rfl) fun j _ => ?_
    rw [fcmpFlags_eq, fcmpVal_slice, fcmpVal_slice, fcmpVal_toNat, fcmpVal_toNat]
    rfl
  case illegalVector =>
    refine raisesIllegal_of_not_legal h fun hl => ?_
    obtain ⟨ty, ok⟩ := legal_fcmp hl
    simp only [hsc, Bool.false_eq_true, if_false] at ok
    obtain ⟨sub, d⟩ := ok
    rcases bad with bad | bad | bad
    · omega
    · exact bad d
    · exact bad ty
  case illegalScalar =>
    refine raisesIllegal_of_not_legal h fun hl => ?_
    obtain ⟨ty, ok⟩ := legal_fcmp hl
    simp only [hsc, if_true] at ok
    obtain ⟨sub, d⟩ := ok
    rcases bad with bad | bad | bad
    · exact bad sub
    · omega
    · exact bad ty

end Sys2Proof.Proofs
end

section
/-! Rounding to integral, classification and conversion (12/R274-R279): the elements that `cvt` puts into a lane, and the LFSR
that passes from lane to lane. -/

namespace Sys2Proof.Proofs

open Machine Spec Laws

/-! ### Fields put into a number (12/R278) -/

/-- `y` with the `w` bits at offset `o` replaced by the low bits of `e`. -/
def putField (y o w e : Nat) : Nat := y - y / 2 ^ o % 2 ^ w * 2 ^ o + e % 2 ^ w * 2 ^ o

theorem testBit_putField (y o w e i : Nat) :
    (putField y o w e).testBit i = if o ≤ i ∧ i < o + w then e.testBit (i - o) else y.testBit i := by
  have split : y = y % 2 ^ o + y / 2 ^ o % 2 ^ w * 2 ^ o + y / 2 ^ (o + w) * 2 ^ (o + w) := by
    have low := Nat.mod_add_div y (2 ^ o)
    have high := Nat.mod_add_div (y / 2 ^ o) (2 ^ w)
    rw [Nat.div_div_eq_div_mul, ← Nat.pow_add] at high
    calc y = y % 2 ^ o + 2 ^ o * (y / 2 ^ o % 2 ^ w + 2 ^ w * (y / 2 ^ (o + w))) := by rw [high, low]
      _ = _ := by rw [Nat.pow_add]; ring
  have form : putField y o w e = y % 2 ^ o + e % 2 ^ (o + w - o) * 2 ^ o + y / 2 ^ (o + w) * 2 ^ (o + w) := by
    rw [putField, Nat.add_sub_cancel_left]; omega
  rw [form, testBit_insert y e o (o + w) i (Nat.le_add_right o w)]

/-- The `w` bits at an offset, bit by bit. -/
theorem testBit_field (y o w i : Nat) : (y / 2 ^ o % 2 ^ w).testBit i = (decide (i < w) && y.testBit (o + i)) := by
  rw [Nat.testBit_mod_two_pow, Nat.testBit_div_two_pow, Nat.add_comm]

/-- A field reads as it was put. -/
theorem field_putField (y o w e : Nat) : putField y o w e / 2 ^ o % 2 ^ w = e % 2 ^ w := by
  apply Nat.eq_of_testBit_eq
  intro i
  rw [testBit_field, testBit_putField, Nat.testBit_mod_two_pow]
  by_cases h : i < w
  · simp [h]
  · simp [h]

/-- The fields of a run that starts at offset `o`, put one after another: each reads as it was put, and the bits outside stay. -/
theorem foldl_putField (o w : Nat) (e : Nat → Nat) (n y : Nat) :
    let z := (List.range n).foldl (fun y i => putField y (o + w * i) w (e i)) y
    (∀ i < n, z / 2 ^ (o + w * i) % 2 ^ w = e i % 2 ^ w) ∧ ∀ b, b < o ∨ o + w * n ≤ b → z.testBit b = y.testBit b := by
  induction n with
  | zero => simp
  | succ n ih =>
    obtain ⟨read, outside⟩ := ih
    simp only [List.range_succ, List.foldl_append, List.foldl_cons, List.foldl_nil] at read outside ⊢
    generalize (List.range n).foldl (fun y i => putField y (o + w * i) w (e i)) y = z at read outside ⊢
    refine ⟨fun i hi => ?_, fun b hb => ?_⟩
    · rcases Nat.lt_succ_iff_lt_or_eq.1 hi with h | rfl
      · have below : w * i + w ≤ w * n := by rw [← Nat.mul_succ]; exact Nat.mul_le_mul_left w h
        rw [← read i h]
        apply Nat.eq_of_testBit_eq
        intro k
        rw [testBit_field, testBit_field, testBit_putField]
        by_cases hk : k < w
        · rw [if_neg (by omega)]
        · simp [hk]
      · exact field_putField _ _ _ _
    · rw [Nat.mul_succ] at hb
      rw [testBit_putField, if_neg (by omega), outside b (by omega)]

/-- A field inside the low 32 bits reads the same from them. -/
theorem field_mod (y o w : Nat) (h : o + w ≤ 32) : y % 2 ^ 32 / 2 ^ o % 2 ^ w = y / 2 ^ o % 2 ^ w := by
  apply Nat.eq_of_testBit_eq
  intro i
  rw [testBit_field, testBit_field, Nat.testBit_mod_two_pow]
  by_cases hi : i < w
  · simp [show o + i < 32 by omega]
  · simp [hi]

/-! ### A lane of `cvt` outside the stochastic mode (12/R279) -/

/-- A pass over a list that carries a second value unchanged. -/
theorem foldl_carry {α β γ : Type} (k : α → γ → α) (l : List γ) (y : α) (q : β) :
    l.foldl (fun (r : α × β) i => (k r.1 i, r.2)) (y, q) = (l.foldl k y, q) := by
  induction l generalizing y with
  | nil => rfl
  | cons i l ih => exact ih _

/-- Where element 0 stands in a lane of elements of width `own`, of which SEL names a part when those of the other side are
wider; `n` elements are converted (12/R278). -/
def fieldStart (f : Fields) (own other n : Nat) : Nat := if own < other then own * (bits f.imm 19 16 * n) else 0

theorem fieldOffset_eq (f : Fields) (own other n i : Nat) :
    (if own < other then own * (bits f.imm 19 16 * n + i) else own * i) = fieldStart f own other n + own * i := by
  unfold fieldStart
  split
  · exact Nat.mul_add _ _ _
  · exact (Nat.zero_add _).symm

/-- SEL in its range keeps the destination's elements inside the lane. -/
theorem fieldStart_le {f : Fields} {ws wd : Nat} (h : bits f.imm 19 16 < max (wd / ws) (ws / wd)) :
    fieldStart f wd ws (32 / max ws wd) + wd * (32 / max ws wd) ≤ 32 := by
  unfold fieldStart
  split
  · next lt =>
    rw [Nat.div_eq_of_lt lt, Nat.zero_max] at h
    rw [max_eq_left (le_of_lt lt), ← Nat.mul_add, ← Nat.succ_mul]
    calc wd * ((bits f.imm 19 16 + 1) * (32 / ws)) ≤ wd * (ws / wd * (32 / ws)) :=
          Nat.mul_le_mul_left _ (Nat.mul_le_mul_right _ h)
      _ = wd * (ws / wd) * (32 / ws) := (Nat.mul_assoc _ _ _).symm
      _ ≤ ws * (32 / ws) := Nat.mul_le_mul_right _ (Nat.mul_div_le ws wd)
      _ ≤ 32 := Nat.mul_div_le 32 ws
  · next ge =>
    rw [max_eq_right (not_lt.1 ge), Nat.zero_add]
    exact Nat.mul_div_le 32 wd

/-- The code that a source code converts to in a fixed mode. -/
def fixedCode (f : Fields) (code : Nat) : Nat :=
  destCode (bits f.imm 15 8) (bit f.md 3) (elemRound (bits f.imm 15 8) (bits f.imm 26 24) (bit f.md 2) 0
    (sourceVal (bits f.imm 7 0) (bit f.md 3) code) (nanSign (bits f.imm 7 0) code))

/-- A conversion in a fixed mode neither reads nor steps the LFSR. -/
theorem cvtElem_of_fixed {f : Fields} (hm : bits f.imm 26 24 ≠ 5) (l : W32) (code : Nat) :
    cvtElem f l code = (fixedCode f code, l) := by
  simp only [cvtElem, roundElem, hm, false_and, if_false]
  rfl

/-- The lane of a fixed mode for widths `ws` and `wd`: a run of fields put into the old destination, or into zero. -/
def fixedLane (f : Fields) (ws wd a d : Nat) : Nat :=
  let n := 32 / max ws wd
  (List.range n).foldl
    (fun y i => putField y (fieldStart f wd ws n + wd * i) wd (fixedCode f (a / 2 ^ (fieldStart f ws wd n + ws * i) % 2 ^ ws)))
    (if wd < ws then d else 0)

theorem cvtLane_of_fixed {f : Fields} (hm : bits f.imm 26 24 ≠ 5) (l : W32) (a d : Nat) :
    cvtLane f l a d
      = (fixedLane f ((cvtWidth (bits f.imm 7 0)).getD 32) ((cvtWidth (bits f.imm 15 8)).getD 32) a d, l) := by
  simp only [cvtLane, cvtElem_of_fixed hm, fieldOffset_eq]
  generalize (cvtWidth (bits f.imm 7 0)).getD 32 = ws, (cvtWidth (bits f.imm 15 8)).getD 32 = wd
  exact foldl_carry (fun y i => putField y (fieldStart f wd ws (32 / max ws wd) + wd * i) wd
    (fixedCode f (a / 2 ^ (fieldStart f ws wd (32 / max ws wd) + ws * i) % 2 ^ ws))) _ _ _

/-- The lane that the model forms is the conversion of 12/R278-R279. -/
theorem converts_cvtLane {f : Fields} (hm : bits f.imm 26 24 ≠ 5) (l : W32) (a d : Nat) :
    Converts f a d (BitVec.ofNat 32 (cvtLane f l a d).1).toNat := by
  intro ws wd hs hd hsel n src dst
  have fits : fieldStart f wd ws n + wd * n ≤ 32 := fieldStart_le hsel
  have src_eq : ∀ i, src i = fieldStart f ws wd n + ws * i := fieldOffset_eq f ws wd n
  have dst_eq : ∀ i, dst i = fieldStart f wd ws n + wd * i := fieldOffset_eq f wd ws n
  have run := foldl_putField (fieldStart f wd ws n) wd (fun i => fixedCode f (a / 2 ^ (fieldStart f ws wd n + ws * i) % 2 ^ ws)) n
    (if wd < ws then d else 0)
  rw [cvtLane_of_fixed hm, hs, hd, BitVec.toNat_ofNat]
  obtain ⟨read, outside⟩ := run
  refine ⟨fun i hi => ?_, fun lt b hb out => ?_⟩
  · have inside : wd * i + wd ≤ wd * n := by rw [← Nat.mul_succ]; exact Nat.mul_le_mul_left wd hi
    rw [dst_eq, src_eq, field_mod _ _ _ (by omega)]
    exact read i hi
  · rw [dst_eq, Nat.mul_zero, Nat.add_zero] at out
    rw [Nat.testBit_mod_two_pow, decide_eq_true hb, Bool.true_and]
    exact (outside b out).trans (by rw [if_pos lt])

/-! ### The lanes of a register and the LFSR that passes through them (05/R104, 12/R279) -/

/-- Lanes computed in ascending order, each from what the lane before it left. -/
theorem foldl_lanes {σ : Type} (c : σ → Nat → Nat × σ) (l : List Nat) (hl : l.Pairwise (· < ·)) (v : VReg) (q : σ) :
    let r := l.foldl (fun (r : VReg × σ) L => (setLane r.1 L (BitVec.ofNat 32 (c r.2 L).1), (c r.2 L).2)) (v, q)
    let before := fun (Ls : List Nat) => Ls.foldl (fun q L => (c q L).2) q
    r.2 = before l ∧
    ∀ M < 32, lane r.1 M = if M ∈ l then BitVec.ofNat 32 (c (before (l.filter (· < M))) M).1 else lane v M := by
  induction l generalizing v q with
  | nil => simp
  | cons L l ih =>
    obtain ⟨above, sorted⟩ := List.pairwise_cons.1 hl
    obtain ⟨last, lanes⟩ := ih sorted (setLane v L (BitVec.ofNat 32 (c q L).1)) (c q L).2
    refine ⟨last, fun M hM => (lanes M hM).trans ?_⟩
    by_cases hm : M ∈ l
    · simp [hm, above M hm]
    · rw [if_neg hm, lane_setLane _ _ _ _ hM]
      by_cases h : M = L
      · subst h
        have first : l.filter (· < M) = [] := List.filter_eq_nil_iff.2 fun N hN => by simpa using (above N hN).le
        simp [first]
      · simp [h, hm]

theorem lanesOf_sorted (m : W32) : (lanesOf m).Pairwise (· < ·) := List.pairwise_lt_range.filter _

/-- The package after a core's LFSR was left at `x`. -/
def leaveLfsr (s : State) (core : Nat) (x : W32) : State := if x = coreLfsr s core then s else setLfsr s core x

theorem leaveLfsr_frame (s : State) (core : Nat) (x : W32) : leaveLfsr s core x = { s with lfsr := (leaveLfsr s core x).lfsr } := by
  unfold leaveLfsr
  split <;> rfl

theorem leaveLfsr_same (s : State) (core : Nat) : leaveLfsr s core (coreLfsr s core) = s := if_pos rfl

theorem coreLfsr_leaveLfsr (s : State) (core k : Nat) (x : W32) :
    coreLfsr (leaveLfsr s core x) k = if k = core then x else coreLfsr s k := by
  unfold leaveLfsr
  split
  · next h =>
    subst h
    split
    · next hk => rw [hk]
    · rfl
  · by_cases hk : k = core <;> simp [coreLfsr, setLfsr, hk]

theorem exeOf_core (s : State) (w : Warp) (g : Group) (f : Fields) : (exeOf s w g f).w.core = w.core := by
  obtain ⟨q, h⟩ := exeOf_w_frame s w g f
  rw [h]

theorem exec_cvt (f : Fields) (s : State) : exec (.cvt f) s = execCvt f s := rfl

/-- `cvt` writes the lanes so computed and leaves the LFSR as the last lane did. -/
theorem retires_cvt {s : State} {w : Warp} {g : Group} {f : Fields} (h : Issues s w g f) :
    let x := exeOf s w g f
    let r := (lanesOf x.en).foldl (fun (r : VReg × W32) L =>
      let e := cvtLane f r.2 (laneA s x f L).toNat (lane (x.src.readV f.d.toNat) L).toNat
      (setLane r.1 L (BitVec.ofNat 32 e.1), e.2)) (w.readV f.d.toNat, coreLfsr s w.core)
    Retires (exec (.cvt f) s) (leaveLfsr (popped s w f) w.core r.2) (x.w.writeV f.d.toNat x.en r.1) g := by
  rw [← exeOf_readV s w g f, ← exeOf_core s w g f]
  exact exec_issues h (exec_cvt f s) rfl

/-! ### Rounding to integral and classification (12/R274-R275) -/

theorem one_shiftLeft_classBit (F : BinFmt) (a : Nat) : 1 <<< classBit F a = 2 ^ classOf F a := by
  rw [Nat.one_shiftLeft]
  rfl

/-- Settles O11: the elements are those of `fpMap` and of the fields put into a lane; the LFSR is what the lanes pass on. -/
theorem roundClassifyConvert : Obligations.RoundClassifyConvert := by
  intro s w g f h x mode step before
  refine ⟨fun hty => ⟨?frnd, ?fclass⟩, fun hty => raisesIllegal_of_ty h rfl rfl rfl hty, ?cvt⟩
  case frnd => exact computes_of_fpMap h hty (fun F a _ _ => integral f F a) rfl rfl
  case fclass =>
    exact computes_of_fpMap h hty (fun F a _ _ => 1 <<< classBit F a) rfl
      (funext fun a => funext fun _ => funext fun _ => one_shiftLeft_classBit _ a)
  case cvt =>
    have out := retires_cvt h
    obtain ⟨last, lanes⟩ := foldl_lanes step (lanesOf x.en) (lanesOf_sorted _) (w.readV f.d.toNat) (coreLfsr s w.core)
    refine ⟨_, _, out, fun L hL => ?_, fun r hr => ?_, rfl, leaveLfsr_frame _ _ _, fun core => ?_,
      fun hm => ⟨?_, fun L hL he => ?_⟩⟩
    · rw [readV_writeV, if_pos rfl, lanes L hL]
      exact if_congr (by simp [mem_lanesOf, hL]) rfl rfl
    · rw [readV_writeV, if_neg hr, exeOf_readV]
    · rw [coreLfsr_leaveLfsr, last]
      rfl
    · have fixed : before (lanesOf x.en) = coreLfsr s w.core :=
        List.foldl_fixed' (fun L => congrArg Prod.snd (cvtLane_of_fixed hm _ _ _)) _
      rw [last.trans fixed]
      exact Eq.trans (congrArg State.lfsr (leaveLfsr_same (popped s w f) w.core)) rfl
    · rw [readV_writeV, if_pos rfl, lanes L hL, if_pos ((mem_lanesOf _ L).2 ⟨hL, he⟩)]
      exact converts_cvtLane hm _ _ _

end Sys2Proof.Proofs
end
